-- ==== Sys2Proof/Word.lean ====
section
/-!
DEFINITION. The word types of the Uzoral and their plainest arithmetic (R5, R45).
-/

namespace Sys2Proof

/-- A 32-bit register or instruction word. -/
abbrev Word := BitVec 32
/-- A 64-bit value: a register pair, a fabric address, a message header. -/
abbrev DWord := BitVec 64
/-- One byte. -/
abbrev Byte := BitVec 8
/-- A five-bit register field (R45). -/
abbrev Reg := BitVec 5

/-- The pair `n, n + 1` as one value, with register `n` in bits 31:0 (R47, R57). -/
def pairOf (lo hi : Word) : DWord := hi ++ lo

/-- Bits 31:0 of a pair. -/
def DWord.lo (v : DWord) : Word := v.truncate 32

/-- Bits 63:32 of a pair. -/
def DWord.hi (v : DWord) : Word := (v >>> 32).truncate 32

/-- Bits `hi:lo` of a word as a number (R5). -/
def bitsNat (v : Word) (hi lo : Nat) : Nat := v.toNat / 2 ^ lo % 2 ^ (hi + 1 - lo)

end Sys2Proof
end

