-- ==== Sys2Proof/Machine/Flags.lean ====
section
/-!
DEFINITION. The floating-point formats, the exact values between them, and the one rounding that every
floating-point result goes through, with the flags it raises (R73 to R79, R81).
-/

namespace Sys2Proof.Machine

/-- Flags as a five-bit value: NV 16, DZ 8, OF 4, UF 2, NX 1 (FCSR.flags, R37). -/
abbrev Flags := BitVec 5

/-- Invalid operation (R79). -/
def flagNV : Flags := 16
/-- Division by zero (R79). -/
def flagDZ : Flags := 8
/-- Overflow (R77). -/
def flagOF : Flags := 4
/-- Underflow (R78). -/
def flagUF : Flags := 2
/-- Inexact (R79). -/
def flagNX : Flags := 1

/-- A floating-point format: width of its exponent and fraction fields (R73). -/
structure Fmt where
  ebits : Nat
  fbits : Nat
  deriving DecidableEq, Repr

def fp32 : Fmt := ⟨8, 23⟩
def bf16 : Fmt := ⟨8, 7⟩
def fp16 : Fmt := ⟨5, 10⟩

/-- The exponent bias. -/
def Fmt.bias (k : Fmt) : Int := 2 ^ (k.ebits - 1) - 1
/-- The magnitude bits of infinity. -/
def Fmt.infBits (k : Fmt) : Nat := (2 ^ k.ebits - 1) * 2 ^ k.fbits
/-- The sign bit. -/
def Fmt.signBit (k : Fmt) : Nat := 2 ^ (k.ebits + k.fbits)
/-- The canonical NaN (R73). -/
def Fmt.nan (k : Fmt) : Nat := k.infBits + 2 ^ (k.fbits - 1)
/-- A sign put over magnitude bits. -/
def Fmt.signed (k : Fmt) (neg : Bool) (mag : Nat) : Nat := if neg then k.signBit + mag else mag

/-- The value of a bit pattern: a NaN, an infinity, or `(-1)^neg * m * 2^e`. -/
inductive FVal where
  | nan (signalling : Bool)
  | inf (neg : Bool)
  | num (neg : Bool) (m : Nat) (e : Int)
  deriving DecidableEq, Repr

/-- The class of a bit pattern by its fields (R74). -/
def unpack (k : Fmt) (bits : Nat) : FVal :=
  let neg := bits / k.signBit % 2 == 1
  let ex := bits / 2 ^ k.fbits % 2 ^ k.ebits
  let fr := bits % 2 ^ k.fbits
  if ex = 2 ^ k.ebits - 1 then
    if fr = 0 then .inf neg else .nan (fr / 2 ^ (k.fbits - 1) == 0)
  else if ex = 0 then .num neg fr (1 - k.bias - k.fbits)
  else .num neg (2 ^ k.fbits + fr) (ex - k.bias - k.fbits)

/-- A subnormal input under FCSR.fz counts as a zero of its sign (R78). -/
def flush (k : Fmt) (fz : Bool) (bits : Nat) : Nat :=
  if fz && bits / 2 ^ k.fbits % 2 ^ k.ebits == 0 then bits / k.signBit % 2 * k.signBit else bits

/-- Whether a magnitude with floor `n`, remainder `r` of `2 * half` and a sticky tail rounds up (R76). -/
def roundsUp (rm : BitVec 3) (neg : Bool) (n r half : Nat) (sticky : Bool) : Bool :=
  let above := decide (half < r) || (r == half && sticky)
  let tie := r == half && !sticky
  let inexact := r != 0 || sticky
  match rm with
  | 0#3 => above || (tie && n % 2 == 1)
  | 1#3 => false
  | 2#3 => neg && inexact
  | 3#3 => !neg && inexact
  | _ => above || tie

/-- `(m + tail) * 2^e` rounded to a multiple of `2^q`; the tail lies strictly between 0 and 1 if `sticky` and
is 0 otherwise. Answers the multiplier and whether it is inexact. -/
def roundAt (rm : BitVec 3) (neg : Bool) (m : Nat) (e q : Int) (sticky : Bool) : Nat × Bool :=
  if q ≤ e then
    let n := m * 2 ^ (e - q).toNat
    (if sticky && roundsUp rm neg n 0 1 true then n + 1 else n, sticky)
  else
    let d := min (q - e).toNat (m.log2 + 3)
    let n := m / 2 ^ d
    let r := m % 2 ^ d
    (if roundsUp rm neg n r (2 ^ (d - 1)) sticky then n + 1 else n, r != 0 || sticky)

/-- A nonzero magnitude rounded once to a format: overflow by R77, tininess after rounding by R78. -/
def roundPack (k : Fmt) (rm : BitVec 3) (fz neg : Bool) (m : Nat) (e : Int) (sticky : Bool) : Nat × Flags :=
  let top := e + m.log2
  let emin := 1 - k.bias
  let (n1, x1) := roundAt rm neg m e (top - k.fbits) sticky
  let tiny := decide (top < emin) && !(decide (n1 = 2 ^ (k.fbits + 1)) && decide (top + 1 = emin))
  if tiny && fz then (k.signed neg 0, flagUF ||| flagNX)
  else
    let q := max (top - k.fbits) (emin - k.fbits)
    let (n, x) := if top < emin then roundAt rm neg m e q sticky else (n1, x1)
    let mag := (q + k.fbits + k.bias - 1).toNat * 2 ^ k.fbits + n
    if k.infBits ≤ mag then
      let toInf := rm == 0 || rm == 4 || (rm == 2 && neg) || (rm == 3 && !neg)
      (k.signed neg (if toInf then k.infBits else k.infBits - 1), flagOF ||| flagNX)
    else (k.signed neg mag, if x then (if tiny then flagUF ||| flagNX else flagNX) else 0)

/-- A finite value rounded to a format; a zero keeps its sign. -/
def roundNum (k : Fmt) (rm : BitVec 3) (fz neg : Bool) (m : Nat) (e : Int) : Nat × Flags :=
  if m = 0 then (k.signed neg 0, 0) else roundPack k rm fz neg m e false

/-- The exact sum of two signed dyadics, as an integer multiple of a power of two. -/
def addExact (n1 : Bool) (m1 : Nat) (e1 : Int) (n2 : Bool) (m2 : Nat) (e2 : Int) : Int × Int :=
  let e := min e1 e2
  let a : Int := m1 * 2 ^ (e1 - e).toNat
  let b : Int := m2 * 2 ^ (e2 - e).toNat
  ((if n1 then -a else a) + (if n2 then -b else b), e)

/-- A signed dyadic rounded; an exact zero is +0, or -0 under RDN (R114). -/
def roundInt (k : Fmt) (rm : BitVec 3) (fz : Bool) (v e : Int) : Nat × Flags :=
  if v = 0 then (k.signed (rm == 2) 0, 0) else roundPack k rm fz (decide (v < 0)) v.natAbs e false

/-- A float value converted to an integer in `lo..hi`: rounded by the mode, saturated with NV (R81). -/
def toInteger (rm : BitVec 3) (lo hi : Int) (v : FVal) : Int × Flags :=
  match v with
  | .nan _ => (hi, flagNV)
  | .inf neg => (if neg then lo else hi, flagNV)
  | .num neg m e =>
    if e > 64 ∧ m ≠ 0 then (if neg then lo else hi, flagNV)
    else
      let (n, x) := roundAt rm neg m e 0 false
      let i : Int := if neg then -n else n
      if hi < i then (hi, flagNV) else if i < lo then (lo, flagNV) else (i, if x then flagNX else 0)

/-- A conversion between formats by the mode (R81). -/
def convert (src dst : Fmt) (rm : BitVec 3) (fz : Bool) (bits : Nat) : Nat × Flags :=
  match unpack src (flush src fz bits) with
  | .nan s => (dst.nan, if s then flagNV else 0)
  | .inf neg => (dst.signed neg dst.infBits, 0)
  | .num neg m e => roundNum dst rm fz neg m e

/-- The order-preserving key of a `w`-bit pattern (R83). -/
def okey (b w : Nat) : Nat := if b / 2 ^ (w - 1) % 2 = 0 then b + 2 ^ (w - 1) else 2 ^ w - 1 - b

end Sys2Proof.Machine
end

