-- ==== Sys2Proof/Machine/Float.lean ====
section
/-!
DEFINITION. The floating-point operations on bit patterns of one format: each answers the result's bits and the
flags it raises (R75, R79, R80, R114 to R124).
-/

namespace Sys2Proof.Machine

/-- NV if a value is a signalling NaN (R79). -/
def sigFlag : FVal → Flags
  | .nan true => flagNV
  | _ => 0

/-- The canonical NaN with NV (R75, R79). -/
def invalid (k : Fmt) : Nat × Flags := (k.nan, flagNV)

/-- a + b (R114); `nb` negates b. -/
def fAdd (k : Fmt) (rm : BitVec 3) (fz : Bool) (a b : Nat) (nb : Bool) : Nat × Flags :=
  match unpack k (flush k fz a), unpack k (flush k fz b) with
  | .nan s, v => (k.nan, sigFlag (.nan s) ||| sigFlag v)
  | v, .nan s => (k.nan, sigFlag (.nan s) ||| sigFlag v)
  | .inf n, .inf n' => if n == (n' != nb) then (k.signed n k.infBits, 0) else invalid k
  | .inf n, .num _ _ _ => (k.signed n k.infBits, 0)
  | .num _ _ _, .inf n => (k.signed (n != nb) k.infBits, 0)
  | .num n m e, .num n' m' e' =>
    if m = 0 ∧ m' = 0 then
      (k.signed (if n == (n' != nb) then n else rm == 2) 0, 0)
    else
      let (v, x) := addExact n m e (n' != nb) m' e'
      roundInt k rm fz v x

/-- a * b (R114). -/
def fMul (k : Fmt) (rm : BitVec 3) (fz : Bool) (a b : Nat) : Nat × Flags :=
  match unpack k (flush k fz a), unpack k (flush k fz b) with
  | .nan s, v => (k.nan, sigFlag (.nan s) ||| sigFlag v)
  | v, .nan s => (k.nan, sigFlag (.nan s) ||| sigFlag v)
  | .inf n, .inf n' => (k.signed (n != n') k.infBits, 0)
  | .inf n, .num n' m _ => if m = 0 then invalid k else (k.signed (n != n') k.infBits, 0)
  | .num n m _, .inf n' => if m = 0 then invalid k else (k.signed (n != n') k.infBits, 0)
  | .num n m e, .num n' m' e' => roundNum k rm fz (n != n') (m * m') (e + e')

/-- a / b (R114). -/
def fDiv (k : Fmt) (rm : BitVec 3) (fz : Bool) (a b : Nat) : Nat × Flags :=
  match unpack k (flush k fz a), unpack k (flush k fz b) with
  | .nan s, v => (k.nan, sigFlag (.nan s) ||| sigFlag v)
  | v, .nan s => (k.nan, sigFlag (.nan s) ||| sigFlag v)
  | .inf _, .inf _ => invalid k
  | .inf n, .num n' _ _ => (k.signed (n != n') k.infBits, 0)
  | .num n _ _, .inf n' => (k.signed (n != n') 0, 0)
  | .num n m e, .num n' m' e' =>
    if m' = 0 then (if m = 0 then invalid k else (k.signed (n != n') k.infBits, flagDZ))
    else if m = 0 then (k.signed (n != n') 0, 0)
    else roundPack k rm fz (n != n') (m * 2 ^ 64 / m') (e - e' - 64) (m * 2 ^ 64 % m' != 0)

/-- The bits of the integer square root, from bit `i - 1` down. -/
def isqrtFrom : Nat → Nat → Nat → Nat
  | 0, _, r => r
  | i + 1, x, r => isqrtFrom i x (if (r + 2 ^ i) * (r + 2 ^ i) ≤ x then r + 2 ^ i else r)

/-- The integer square root. -/
def isqrt (x : Nat) : Nat := isqrtFrom (x.log2 / 2 + 1) x 0

/-- The square root (R114). -/
def fSqrt (k : Fmt) (rm : BitVec 3) (fz : Bool) (a : Nat) : Nat × Flags :=
  match unpack k (flush k fz a) with
  | .nan s => (k.nan, sigFlag (.nan s))
  | .inf neg => if neg then invalid k else (k.infBits, 0)
  | .num neg m e =>
    if m = 0 then (k.signed neg 0, 0)
    else if neg then invalid k
    else
      let x := (if e % 2 = 0 then m else 2 * m) * 2 ^ 64
      let h := (if e % 2 = 0 then e else e - 1) / 2
      let r := isqrt x
      roundPack k rm fz false r (h - 32) (r * r != x)

/-- ±(a * b) ± c, rounded once (R123, HFMA2 of R124). -/
def fFma (k : Fmt) (rm : BitVec 3) (fz : Bool) (a b c : Nat) (np nc : Bool) : Nat × Flags :=
  let va := unpack k (flush k fz a)
  let vb := unpack k (flush k fz b)
  let vc := unpack k (flush k fz c)
  let sig := sigFlag va ||| sigFlag vb ||| sigFlag vc
  let addInf (n : Bool) : Nat × Flags :=
    match vc with
    | .nan _ => (k.nan, sig)
    | .inf n' => if n == (n' != nc) then (k.signed n k.infBits, 0) else invalid k
    | .num _ _ _ => (k.signed n k.infBits, 0)
  match va, vb with
  | .nan _, _ => (k.nan, sig)
  | _, .nan _ => (k.nan, sig)
  | .inf n, .inf n' => addInf ((n != n') != np)
  | .inf n, .num n' m _ => if m = 0 then invalid k else addInf ((n != n') != np)
  | .num n m _, .inf n' => if m = 0 then invalid k else addInf ((n != n') != np)
  | .num n m e, .num n' m' e' =>
    let p := (n != n') != np
    match vc with
    | .nan _ => (k.nan, sig)
    | .inf n'' => (k.signed (n'' != nc) k.infBits, 0)
    | .num n'' m'' e'' =>
      if m * m' = 0 ∧ m'' = 0 then (k.signed (if p == (n'' != nc) then p else rm == 2) 0, 0)
      else
        let (v, x) := addExact p (m * m') (e + e') (n'' != nc) m'' e''
        roundInt k rm fz v x

/-- A pattern is a NaN. -/
def isNaN (k : Fmt) (a : Nat) : Bool := decide (k.infBits < a % k.signBit)
/-- NV if either pattern is a signalling NaN. -/
def sigFlags (k : Fmt) (a b : Nat) : Flags := sigFlag (unpack k a) ||| sigFlag (unpack k b)

/-- FMIN and FMAX, or with `prop` FMINP and FMAXP (R80). -/
def fMinMax (k : Fmt) (fz isMax prop : Bool) (a b : Nat) : Nat × Flags :=
  let a := flush k fz a
  let b := flush k fz b
  let w := k.ebits + k.fbits + 1
  let r :=
    match isNaN k a, isNaN k b with
    | false, false =>
      if isMax then (if okey a w < okey b w then b else a) else (if okey b w < okey a w then b else a)
    | true, false => if prop then k.nan else b
    | false, true => if prop then k.nan else a
    | true, true => k.nan
  (r, sigFlags k a b)

/-- The two comparisons of IEEE 754 that FEQ, FLT and FLE are made of: a = b and a < b, false on a NaN (R117). -/
def fCompare (k : Fmt) (fz : Bool) (a b : Nat) : Bool × Bool :=
  let a := flush k fz a
  let b := flush k fz b
  let w := k.ebits + k.fbits + 1
  let zero := a % k.signBit == 0 && b % k.signBit == 0
  if isNaN k a || isNaN k b then (false, false)
  else (a == b || zero, !zero && decide (okey a w < okey b w))

/-- FEQ (R117). -/
def fEq (fz : Bool) (a b : Nat) : Bool × Flags := ((fCompare fp32 fz a b).1, sigFlags fp32 a b)
/-- NV on any NaN, as FLT and FLE raise it (R117). -/
def anyNaN (a b : Nat) : Flags := if isNaN fp32 a || isNaN fp32 b then flagNV else 0
/-- FLT (R117). -/
def fLt (fz : Bool) (a b : Nat) : Bool × Flags := ((fCompare fp32 fz a b).2, anyNaN a b)
/-- FLE (R117). -/
def fLe (fz : Bool) (a b : Nat) : Bool × Flags :=
  ((fCompare fp32 fz a b).1 || (fCompare fp32 fz a b).2, anyNaN a b)

/-- A finite value is an integer. -/
def isInteger : FVal → Bool
  | .num _ m e => if e ≥ 0 then true else decide (m % 2 ^ (-e).toNat = 0)
  | _ => false

/-- The descriptor of FCLASS (R118). -/
def fClass (a : Nat) : Nat :=
  let v := unpack fp32 a
  let ex := a / 2 ^ 23 % 2 ^ 8
  let cls :=
    match v with
    | .nan s => if s then 5 else 4
    | .inf _ => 3
    | .num _ m _ => if m = 0 then 0 else if ex = 0 then 1 else 2
  (isInteger v).toNat * 4096 + ex * 16 + a / 2 ^ 31 % 2 * 8 + cls

/-- FCVT.W.S and FCVT.WU.S (R119). -/
def fToInt (rm : BitVec 3) (fz isSigned : Bool) (a : Nat) : Word × Flags :=
  let v := unpack fp32 (flush fp32 fz a)
  let (i, fl) := if isSigned then toInteger rm (-2147483648) 2147483647 v else toInteger rm 0 4294967295 v
  (BitVec.ofInt 32 i, fl)

/-- FCVT.S.W and FCVT.S.WU (R119). -/
def fFromInt (rm : BitVec 3) (fz : Bool) (v : Int) : Nat × Flags :=
  roundNum fp32 rm fz (decide (v < 0)) v.natAbs 0

end Sys2Proof.Machine
end

