-- ==== Sys2Proof/Config.lean ====
section
/-!
DEFINITION. What one device fixes and the free values: constants without a body, so that nothing in Lean can
know them. Each is named in the assumption log.
-/

namespace Sys2Proof.Config

/-- DESIGN CHOICE (log 7): how many cycles pass in the step that draws the `n`-th free value. -/
opaque ticks (n : Nat) : BitVec 64

/-- DESIGN CHOICE (log 10): the launch key that Flint makes for the `n`-th free value (R147). -/
opaque launchKey (n : Nat) : BitVec 128

/-- DESIGN CHOICE (log 11): the `i`-th byte of what Flint computes under a secret key: ciphertext, a MAC or a
signature, or what a block whose keys are gone deciphers to (R420, R427, R429). -/
opaque sealedByte (n i : Nat) : BitVec 8

/-- DESIGN CHOICE (log 11): key number `i` that Flint creates for the `n`-th free value (R420). -/
opaque tenantKey (n i : Nat) : BitVec 256

/-- DESIGN CHOICE (log 25): both signatures of an image verify under the root keys of these digests (R427). -/
opaque verifies (roots : List (BitVec 384)) (image : List (Nat × BitVec 32)) : Bool

/-- DESIGN CHOICE (log 25): the security version number in the header of an image (R427). -/
opaque imageVersion (image : List (Nat × BitVec 32)) : Nat

/-- DESIGN CHOICE (log 25): the SHA-384 of words of a given length in bytes (R427, R428). -/
opaque sha384 (len : Nat) (words : List (Nat × BitVec 32)) : BitVec 384

/-- DESIGN CHOICE (log 25): the measurement of the image of a slot as delivered (R427). -/
opaque factoryMeasure (slot : Nat) : BitVec 384

/-- DESIGN CHOICE (log 25): byte `a` that loading the image of a slot as delivered puts into an instruction memory (R435). -/
opaque factoryByte (slot a : Nat) : BitVec 8

/-- DESIGN CHOICE (log 25): byte `a` that loading a stored image puts there (R435). -/
opaque imageByte (image : List (Nat × BitVec 32)) (a : Nat) : BitVec 8

/-- DESIGN CHOICE (log 12): how another package answers the packet that reaches it at the `n`-th free value: the kind of its answer and
the data in it. -/
opaque peerAnswer (n : Nat) : BitVec 3 × BitVec 64

/-- DESIGN CHOICE (log 12): the byte at address `a` of another package, read at the `n`-th free value. -/
opaque farByte (n a : Nat) : BitVec 8

/-- DESIGN CHOICE (logs 7, 12, 13, 14, 18 and 20): a word that the spec leaves open. -/
opaque openWord (n : Nat) : BitVec 32

/-- DESIGN CHOICE (log 20): the row of an MSTRM in which the check channel finds a residue mismatch, with the physical array row; none
where it finds none (R217). -/
opaque arrayFault (n : Nat) : Option (Nat × Nat)

/-- DESIGN CHOICE (log 18): the free transmit bundles of package `p`, which raising its floor needs (R391, R395). -/
opaque peerMask (n p : Nat) : BitVec 256

/-- DESIGN CHOICE (log 18): a gateway can replay the unacknowledged flits of a retired lane (R390). -/
opaque replays (n : Nat) : Bool

/-- DESIGN CHOICE (log 7): the seconds since cold reset when the cycle counter reads `n` (R419). -/
opaque seconds (n : Nat) : Nat

/-- DESIGN CHOICE (log 7): the microseconds since cold reset when the cycle counter reads `n` (R359). -/
opaque micros (n : Nat) : Nat

end Sys2Proof.Config
end

