-- ==== Sys2Proof/Syntax.lean ====
section
/-!
DEFINITION. The abstract syntax: one constructor per row of the operation table (spec/opcode_table.json).

The first 224 constructors are the rows that have an instruction word; a register operand is its raw
five-bit field, whichever file it names, and `WellFormed` says which values the encoding admits (R47).
The last 122 are the device steps of the table that have no word: traps and interrupts, engine and fabric
events, and accesses by the host. A device step is never fetched; it stands in `State.inputs`, or a unit
is due to make it.
-/

namespace Sys2Proof

/-- The rows of the operation table. -/
inductive Instr where
  -- Illegal words of major opcode 0 (R53).
  | ill (x : BitVec 26)
  -- ALU group, op 0x01 (R97).
  | add (d a b : Reg)
  | sub (d a b : Reg)
  | and (d a b : Reg)
  | or (d a b : Reg)
  | xor (d a b : Reg)
  | andn (d a b : Reg)
  | sll (d a b : Reg)
  | srl (d a b : Reg)
  | sra (d a b : Reg)
  | ror (d a b : Reg)
  | slt (d a b : Reg)
  | sltu (d a b : Reg)
  | min (d a b : Reg)
  | max (d a b : Reg)
  | minu (d a b : Reg)
  | maxu (d a b : Reg)
  -- MULDIV group, op 0x02 (R100).
  | mul (d a b : Reg)
  | mulh (d a b : Reg)
  | mulhu (d a b : Reg)
  | mulhsu (d a b : Reg)
  | div (d a b : Reg)
  | divu (d a b : Reg)
  | rem (d a b : Reg)
  | remu (d a b : Reg)
  -- BITS group, op 0x03 (R101 to R103).
  | clz (d a : Reg)
  | ctz (d a : Reg)
  | popc (d a : Reg)
  | brev (d a : Reg)
  | bswap (d a : Reg)
  | bfx (d a b : Reg)
  | bfxu (d a b : Reg)
  | bfi (d a b : Reg)
  | okeyH (d a : Reg)
  | okeyW (d a : Reg)
  -- Immediate ALU and SHI (R98, R99).
  | addi (d a : Reg) (i : BitVec 16)
  | andi (d a : Reg) (i : BitVec 16)
  | ori (d a : Reg) (i : BitVec 16)
  | xori (d a : Reg) (i : BitVec 16)
  | slti (d a : Reg) (i : BitVec 16)
  | sltiu (d a : Reg) (i : BitVec 16)
  | slli (d a : Reg) (s : BitVec 5)
  | srli (d a : Reg) (s : BitVec 5)
  | srai (d a : Reg) (s : BitVec 5)
  | rori (d a : Reg) (s : BitVec 5)
  -- Upper immediates, jumps and LOOP (R104, R105, R108).
  | lui (d : Reg) (i : BitVec 21)
  | auipc (d : Reg) (i : BitVec 21)
  | jal (d : Reg) (i : BitVec 21)
  | jalr (d a : Reg) (i : BitVec 16)
  | loop (a b : Reg) (i : BitVec 16)
  -- Branches (R107).
  | beq (a b : Reg) (i : BitVec 16)
  | bne (a b : Reg) (i : BitVec 16)
  | blt (a b : Reg) (i : BitVec 16)
  | bge (a b : Reg) (i : BitVec 16)
  | bltu (a b : Reg) (i : BitVec 16)
  | bgeu (a b : Reg) (i : BitVec 16)
  -- Loads and stores (R183, R184).
  | lb (d a : Reg) (i : BitVec 16)
  | lbu (d a : Reg) (i : BitVec 16)
  | lh (d a : Reg) (i : BitVec 16)
  | lhu (d a : Reg) (i : BitVec 16)
  | lw (d a : Reg) (i : BitVec 16)
  | flw (d a : Reg) (i : BitVec 16)
  | sb (b a : Reg) (i : BitVec 16)
  | sh (b a : Reg) (i : BitVec 16)
  | sw (b a : Reg) (i : BitVec 16)
  | fsw (b a : Reg) (i : BitVec 16)
  | lwp (d a : Reg) (i : BitVec 16)
  | swp (b a : Reg) (i : BitVec 16)
  -- MEMX group, op 0x22 (R189, R192, R325).
  | tlook (d a : Reg)
  | tset (d a b : Reg)
  | tinv (d a : Reg)
  | take (d a : Reg)
  | ttake (d a b : Reg)
  | put (a b : Reg)
  | feset (a b : Reg)
  | fence (s : BitVec 2) (p q u v : Bool)
  | fenceI
  | fenceE
  -- AMO group, op 0x23: scope `s`, order `o`, no-return `n` (R301).
  | amoadd (d a b : Reg) (s o : BitVec 2) (n : Bool)
  | amoand (d a b : Reg) (s o : BitVec 2) (n : Bool)
  | amoor (d a b : Reg) (s o : BitVec 2) (n : Bool)
  | amoxor (d a b : Reg) (s o : BitVec 2) (n : Bool)
  | amomin (d a b : Reg) (s o : BitVec 2) (n : Bool)
  | amomax (d a b : Reg) (s o : BitVec 2) (n : Bool)
  | amominu (d a b : Reg) (s o : BitVec 2) (n : Bool)
  | amomaxu (d a b : Reg) (s o : BitVec 2) (n : Bool)
  | amoswap (d a b : Reg) (s o : BitVec 2) (n : Bool)
  | amocas (d a b : Reg) (s o : BitVec 2)
  | amoincb (d a b : Reg) (s o : BitVec 2) (n : Bool)
  | amofadd (d a b : Reg) (s o : BitVec 2) (n : Bool)
  -- MSG group, op 0x24 (R282).
  | rload (d a : Reg) (p : Bool)
  | rwait (d a : Reg) (p : Bool)
  | rstore (a b : Reg) (p : Bool)
  | msend
  | mrecv (d : Reg)
  | mpop
  | hdrPack (d a : Reg) (l : BitVec 3)
  | hdrParse (d a : Reg) (l : BitVec 3)
  | hdrLay (a : Reg) (l : BitVec 3)
  -- SYNC group, op 0x25 (R313, R314).
  | arrive (d : Reg) (l : Bool) (n : BitVec 5)
  | bwait (a : Reg) (l : Bool) (n : BitVec 5)
  | bgroup (a : Reg) (l : Bool) (n : BitVec 5)
  | evwait (d : Reg) (n : BitVec 5)
  | evsig (a : Reg) (n : BitVec 5)
  | evlock (n : BitVec 5)
  | evunlock (n : BitVec 5)
  -- POINT group, op 0x26 (R164 to R166).
  | pdone
  | pphase
  | follow (d a : Reg)
  | detach
  -- SYS group, op 0x27 (R140).
  | sysc (c : BitVec 7)
  | brk (c : BitVec 7)
  | uret
  | sret
  | udecline
  | wfi
  | mcap (d a : Reg)
  -- CSR group, op 0x28 (R148).
  | csrrw (d a : Reg) (n : BitVec 12)
  | csrrs (d a : Reg) (n : BitVec 12)
  | csrrc (d a : Reg) (n : BitVec 12)
  -- FP group, op 0x29: rounding field `m` (R114 to R122).
  | fadd (d a b : Reg) (m : BitVec 3)
  | fsub (d a b : Reg) (m : BitVec 3)
  | fmul (d a b : Reg) (m : BitVec 3)
  | fdiv (d a b : Reg) (m : BitVec 3)
  | fsqrt (d a : Reg) (m : BitVec 3)
  | fmin (d a b : Reg)
  | fmax (d a b : Reg)
  | fminp (d a b : Reg)
  | fmaxp (d a b : Reg)
  | fsgnj (d a b : Reg)
  | fsgnjn (d a b : Reg)
  | fsgnjx (d a b : Reg)
  | feq (d a b : Reg)
  | flt (d a b : Reg)
  | fle (d a b : Reg)
  | fclass (d a : Reg)
  | fcvtWS (d a : Reg) (m : BitVec 3)
  | fcvtWuS (d a : Reg) (m : BitVec 3)
  | fcvtSW (d a : Reg) (m : BitVec 3)
  | fcvtSWu (d a : Reg) (m : BitVec 3)
  | fcvtSBh (d a : Reg)
  | fcvtBhS (d a : Reg) (m : BitVec 3)
  | fcvtSHh (d a : Reg)
  | fcvtHhS (d a : Reg) (m : BitVec 3)
  | fmvXS (d a : Reg)
  | fmvSX (d a : Reg)
  | fexp2 (d a : Reg) (m : BitVec 3)
  | flog2 (d a : Reg) (m : BitVec 3)
  | frcp (d a : Reg) (m : BitVec 3)
  | frsq (d a : Reg) (m : BitVec 3)
  | ftanh (d a : Reg) (m : BitVec 3)
  | fsigm (d a : Reg) (m : BitVec 3)
  -- FMA group, op 0x2A (R123).
  | fma (d a b c : Reg) (m : BitVec 3)
  | fms (d a b c : Reg) (m : BitVec 3)
  | fnma (d a b c : Reg) (m : BitVec 3)
  | fnms (d a b c : Reg) (m : BitVec 3)
  -- Packed group, op 0x2B (R124, R125).
  | hadd2 (d a b : Reg) (m : BitVec 3)
  | hmul2 (d a b : Reg) (m : BitVec 3)
  | hfma2 (d a b : Reg) (m : BitVec 3)
  | hmax2 (d a b : Reg)
  | iaddF (d a b : Reg)
  | isubF (d a b : Reg)
  | iandF (d a b : Reg)
  | iorF (d a b : Reg)
  | ixorF (d a b : Reg)
  | isllF (d a b : Reg)
  | isrlF (d a b : Reg)
  | iselF (d a b : Reg)
  | icmpltF (d a b : Reg)
  | icmpeqF (d a b : Reg)
  -- STREAM group, op 0x2C (R197 to R205).
  | scfg (d a b : Reg) (i : BitVec 4)
  | smap (d : Reg)
  | sunmap (d : Reg)
  | vloop (d a : Reg) (k : BitVec 4)
  | vwait
  | sstat (d a : Reg) (s : BitVec 4)
  -- MATRIX group, op 0x2D: notice `n` (R213).
  | mcfgStr (d a b : Reg) (n : Bool)
  | mcfgScl (d a b : Reg) (n : Bool)
  | mldw (d a b : Reg) (n : Bool)
  | mswap (d : Reg) (n : Bool)
  | mstrm (d a b : Reg) (n : Bool)
  | mstrmH (d a b : Reg) (n : Bool)
  | mdrn (d a b : Reg) (n i z : Bool)
  | mzero (d b : Reg) (n : Bool)
  | mwait
  | mcmd (d a b : Reg)
  | mstat (d : Reg) (s : BitVec 3)
  -- COPY group, op 0x2E (R228 to R236).
  | ccfg (a b : Reg) (i : BitVec 2)
  | ccopy (d a b : Reg) (n h s : Bool) (m : BitVec 2)
  | cgath (d a b : Reg) (n h m : Bool)
  | cwait
  | cbCfg (d a b : Reg)
  | cbWaitf (d a b : Reg)
  | cbWaite (d a b : Reg)
  | cbAdvp (a b : Reg)
  | cbAdvc (a b : Reg)
  | cbRadv (a b : Reg)
  -- PRED group, op 0x2F (R247).
  | pcfg (a b : Reg) (g : Bool)
  | pfetch (d a b : Reg)
  | confirm (d a : Reg) (n : Bool)
  | cancel (d : Reg)
  | pwait (d : Reg)
  | pread (d a : Reg) (s : Bool)
  | preadEnt (d a : Reg)
  | ptrainSet (a b : Reg)
  | ptrainInv (a : Reg)
  -- ENV group, op 0x30 (R267).
  | eclr (d : Reg)
  | eins (d a b : Reg)
  | eld (d a : Reg)
  | est (d a : Reg)
  | emax (d a b : Reg)
  | esum (d a b : Reg)
  | eicv (d a b : Reg)
  | ecnj (d a : Reg)
  | eeval (d a b : Reg) (s : BitVec 2)
  | eshf (d a b : Reg)
  | ecnt (d a : Reg)
  | edomClip (d a b : Reg)
  | edomLo (d a : Reg)
  | edomHi (d a : Reg)
  -- LEASE group, op 0x31 (R394).
  | lease (d a b : Reg) (l : Bool)
  | lrel (a b : Reg)
  | lqry (d a : Reg) (w : Bool)
  | lfloor (a b : Reg)
  -- Traps and interrupts at a boundary, and the debug window (R131 to R139).
  | stewardEscalationEntry
  | engineFaultReport
  | refusalReport
  | completionInterrupt
  | messageArrivalInterrupt
  | preEmptionEntry
  | phaseAbortInterrupt
  | debugHalt
  | machineCheck
  | dctlKill (c : BitVec 4)
  | dctlUret (c : BitVec 4)
  | dctlGo (c : BitVec 4)
  -- Points, phases and recovery (R158 to R163, R409, R410).
  | pointDispatch
  | phaseClosure (l : BitVec 32)
  | launchCompletion (l : BitVec 32)
  | phaseWatchdogExpiry
  | precActRollback
  | precActKill
  | precActTimeout
  | phaseRollback (l : BitVec 32)
  -- Engines (R206, R214, R225, R231, R236).
  | vectorLoopComplete
  | matrixCommandStart
  | matrixCommandComplete
  | remoteMatrixCommand
  | copyCommandStart
  | copyCommandComplete
  | copyPieceTimeout (r : BitVec 16)
  | remoteHandleAdvance
  -- Memory cores and movement plans (R242, R369, R370).
  | memoryCoreRequest
  | movementPlanLoad (l : BitVec 32)
  | movementPlanStore (l : BitVec 32)
  | pageWalkComplete
  -- Predicted transfers (R244, R249 to R255).
  | predictorLookup
  | trainingUpdate
  | exposureSwap (p : BitVec 3)
  | trueFetchComplete (p : BitVec 3)
  | speculativeFetchComplete (p : BitVec 3)
  | speculativeRequestDrop (p : BitVec 3)
  -- Messages and requests on the fabric (R279 to R309).
  | messageArrival
  | ringHoldTimeout
  | remoteLoadRequest
  | remoteStoreRequest
  | atomicRequest
  | remoteReply
  | nackRetry (t : BitVec 5)
  | slotTimeout (t : BitVec 5)
  | rftakeLoad (d : Reg)
  | rfttakeLoad (d : Reg)
  | rfputStore (b : Reg)
  | remoteTakeRequest
  | remoteTtakeRequest
  | remotePutRequest
  | queuedNotice
  | remoteEvsigRequest
  -- The event-unit window (R310).
  | barwLoad (d : Reg) (n : BitVec 5)
  | grpwLoad (d : Reg) (n : BitVec 4)
  | evwLoad (d : Reg) (n : BitVec 5)
  | evwStore (n : BitVec 5)
  | mxwLoad (d : Reg) (n : BitVec 5)
  | mxwStore (n : BitVec 5)
  | evstatRead (d : Reg) (n : BitVec 5)
  -- Queues, launches and scheduling (R346 to R359).
  | qwrWrite (t : BitVec 5) (q : BitVec 4) (v : BitVec 32)
  | packetEnqueue (t : BitVec 5) (q : BitVec 4)
  | qctlWrite (t : BitVec 5) (q : BitVec 4) (v : BitVec 32)
  | qundRead (t : BitVec 5) (q : BitVec 4)
  | distributorSelection (t : BitVec 5)
  | residencyExpiry (t : BitVec 5)
  | placement (t : BitVec 5)
  | launchStart (l : BitVec 32)
  -- Pre-emption (R375 to R382).
  | contextSave
  | contextBlockWrite
  | clusterBlockSave (l : BitVec 32)
  | launchResume (l : BitVec 32)
  -- Tenants and translation (R363 to R374).
  | clownOwnerWrite (c : BitVec 10) (t : BitVec 5)
  | clusterPreparationDone (c : BitVec 10)
  | ingrWrite (a : BitVec 6) (t : BitVec 5) (v : BitVec 32)
  | fqrespRetry (t : BitVec 5) (r : BitVec 6)
  | fqrespFail (t : BitVec 5) (r : BitVec 6)
  | atcinvWrite (t : BitVec 5) (v : BitVec 32)
  | atcInvalidationDone (t : BitVec 5)
  -- The optical fabric (R384 to R393).
  | leaseRequest (a : BitVec 6) (t : BitVec 5) (n : BitVec 9) (all : Bool) (m : BitVec 256)
  | leaseGrant
  | drainGraceExpiry (b : BitVec 8)
  | leaseRelease (b : BitVec 8)
  | floorChange (a : BitVec 6) (n : BitVec 9)
  | peerLeave (a : BitVec 6)
  | domainBringup (m : BitVec 64)
  | linkFlit (q w : BitVec 7) (ok : Bool)
  | laneRetire (b : BitVec 8) (w : BitVec 6) (tx : Bool)
  | flowletGapExpiry (s e : BitVec 21)
  -- Field tests, the alarm and attestation (R417 to R429).
  | fieldTestPoint (c k : BitVec 4) (u : BitVec 6) (ok : Bool)
  | tamperInput
  | alarmWindowExpiry
  | almstatRead
  | fuseDecommission
  | qtctlGo
  | qtnonceWrite (i : BitVec 3) (v : BitVec 32)
  | quoteDone
  | sidebandQuoteRequest (v : BitVec 256)
  | mctpRequest (k : BitVec 2)
  | boundaryScan (held : Bool)
  -- Resets and bring-up (R432 to R436).
  | frstWarm (t : BitVec 5)
  | coldReset
  | warmReset
  | vfFunctionLevelReset (t : BitVec 5)
  | boot (ok : Bool)
  | configRequest (t : BitVec 5)
  | rmctlGo (s : BitVec 3)
  | recoverySubmitDone (c : BitVec 8)
  -- Power (R438).
  | throttleDownStep (n : BitVec 3)
  | throttleUpStep (n : BitVec 3)
  | overtempFatal
  -- Checkpoint and the remaining register writes (R439, R440, R6).
  | checkpointSave (v : BitVec 32)
  | checkpointRestore (v : BitVec 32)
  | checkpointDone (c : BitVec 8)
  | ckrxWrite (v : BitVec 32)
  | registerWrite (t : BitVec 5) (bar : BitVec 2) (o : BitVec 24) (v : BitVec 32)
  | provisioning
  | fqtailWrite (t : BitVec 5) (v : BitVec 32)
  | revokeNotice (t : BitVec 5) (e : BitVec 6) (b : BitVec 8)
  | trueFetchTimeout (p : BitVec 3)
  | postedWrite (t : BitVec 5) (phys : Bool) (o : BitVec 41) (v : BitVec 32)
  deriving DecidableEq, Repr

/-- The rows without an instruction word: steps the device or its surroundings make (spec/95). -/
def Instr.isEvent : Instr → Bool
  | .ill _ | .add _ _ _ | .sub _ _ _ | .and _ _ _ | .or _ _ _ | .xor _ _ _ | .andn _ _ _ | .sll _ _ _
  | .srl _ _ _ | .sra _ _ _ | .ror _ _ _ | .slt _ _ _ | .sltu _ _ _ | .min _ _ _ | .max _ _ _ | .minu _ _ _
  | .maxu _ _ _ | .mul _ _ _ | .mulh _ _ _ | .mulhu _ _ _ | .mulhsu _ _ _ | .div _ _ _ | .divu _ _ _
  | .rem _ _ _ | .remu _ _ _ | .clz _ _ | .ctz _ _ | .popc _ _ | .brev _ _ | .bswap _ _ | .bfx _ _ _
  | .bfxu _ _ _ | .bfi _ _ _ | .okeyH _ _ | .okeyW _ _ | .addi _ _ _ | .andi _ _ _ | .ori _ _ _ | .xori _ _ _
  | .slti _ _ _ | .sltiu _ _ _ | .slli _ _ _ | .srli _ _ _ | .srai _ _ _ | .rori _ _ _ | .lui _ _ | .auipc _ _
  | .jal _ _ | .jalr _ _ _ | .loop _ _ _ | .beq _ _ _ | .bne _ _ _ | .blt _ _ _ | .bge _ _ _ | .bltu _ _ _
  | .bgeu _ _ _ | .lb _ _ _ | .lbu _ _ _ | .lh _ _ _ | .lhu _ _ _ | .lw _ _ _ | .flw _ _ _ | .sb _ _ _
  | .sh _ _ _ | .sw _ _ _ | .fsw _ _ _ | .lwp _ _ _ | .swp _ _ _ | .tlook _ _ | .tset _ _ _ | .tinv _ _
  | .take _ _ | .ttake _ _ _ | .put _ _ | .feset _ _ | .fence _ _ _ _ _ | .fenceI | .fenceE
  | .amoadd _ _ _ _ _ _ | .amoand _ _ _ _ _ _ | .amoor _ _ _ _ _ _ | .amoxor _ _ _ _ _ _ | .amomin _ _ _ _ _ _
  | .amomax _ _ _ _ _ _ | .amominu _ _ _ _ _ _ | .amomaxu _ _ _ _ _ _ | .amoswap _ _ _ _ _ _ | .amocas _ _ _ _ _
  | .amoincb _ _ _ _ _ _ | .amofadd _ _ _ _ _ _ | .rload _ _ _ | .rwait _ _ _ | .rstore _ _ _ | .msend
  | .mrecv _ | .mpop | .hdrPack _ _ _ | .hdrParse _ _ _ | .hdrLay _ _ | .arrive _ _ _ | .bwait _ _ _
  | .bgroup _ _ _ | .evwait _ _ | .evsig _ _ | .evlock _ | .evunlock _ | .pdone | .pphase | .follow _ _
  | .detach | .sysc _ | .brk _ | .uret | .sret | .udecline | .wfi | .mcap _ _ | .csrrw _ _ _ | .csrrs _ _ _
  | .csrrc _ _ _ | .fadd _ _ _ _ | .fsub _ _ _ _ | .fmul _ _ _ _ | .fdiv _ _ _ _ | .fsqrt _ _ _ | .fmin _ _ _
  | .fmax _ _ _ | .fminp _ _ _ | .fmaxp _ _ _ | .fsgnj _ _ _ | .fsgnjn _ _ _ | .fsgnjx _ _ _ | .feq _ _ _
  | .flt _ _ _ | .fle _ _ _ | .fclass _ _ | .fcvtWS _ _ _ | .fcvtWuS _ _ _ | .fcvtSW _ _ _ | .fcvtSWu _ _ _
  | .fcvtSBh _ _ | .fcvtBhS _ _ _ | .fcvtSHh _ _ | .fcvtHhS _ _ _ | .fmvXS _ _ | .fmvSX _ _ | .fexp2 _ _ _
  | .flog2 _ _ _ | .frcp _ _ _ | .frsq _ _ _ | .ftanh _ _ _ | .fsigm _ _ _ | .fma _ _ _ _ _ | .fms _ _ _ _ _
  | .fnma _ _ _ _ _ | .fnms _ _ _ _ _ | .hadd2 _ _ _ _ | .hmul2 _ _ _ _ | .hfma2 _ _ _ _ | .hmax2 _ _ _
  | .iaddF _ _ _ | .isubF _ _ _ | .iandF _ _ _ | .iorF _ _ _ | .ixorF _ _ _ | .isllF _ _ _ | .isrlF _ _ _
  | .iselF _ _ _ | .icmpltF _ _ _ | .icmpeqF _ _ _ | .scfg _ _ _ _ | .smap _ | .sunmap _ | .vloop _ _ _ | .vwait
  | .sstat _ _ _ | .mcfgStr _ _ _ _ | .mcfgScl _ _ _ _ | .mldw _ _ _ _ | .mswap _ _ | .mstrm _ _ _ _
  | .mstrmH _ _ _ _ | .mdrn _ _ _ _ _ _ | .mzero _ _ _ | .mwait | .mcmd _ _ _ | .mstat _ _ | .ccfg _ _ _
  | .ccopy _ _ _ _ _ _ _ | .cgath _ _ _ _ _ _ | .cwait | .cbCfg _ _ _ | .cbWaitf _ _ _ | .cbWaite _ _ _
  | .cbAdvp _ _ | .cbAdvc _ _ | .cbRadv _ _ | .pcfg _ _ _ | .pfetch _ _ _ | .confirm _ _ _ | .cancel _
  | .pwait _ | .pread _ _ _ | .preadEnt _ _ | .ptrainSet _ _ | .ptrainInv _ | .eclr _ | .eins _ _ _ | .eld _ _
  | .est _ _ | .emax _ _ _ | .esum _ _ _ | .eicv _ _ _ | .ecnj _ _ | .eeval _ _ _ _ | .eshf _ _ _ | .ecnt _ _
  | .edomClip _ _ _ | .edomLo _ _ | .edomHi _ _ | .lease _ _ _ _ | .lrel _ _ | .lqry _ _ _ | .lfloor _ _ => false
  | .stewardEscalationEntry | .engineFaultReport | .refusalReport | .completionInterrupt
  | .messageArrivalInterrupt | .preEmptionEntry | .phaseAbortInterrupt | .debugHalt | .machineCheck
  | .dctlKill _ | .dctlUret _ | .dctlGo _ | .pointDispatch | .phaseClosure _ | .launchCompletion _
  | .phaseWatchdogExpiry | .precActRollback | .precActKill | .precActTimeout | .phaseRollback _
  | .vectorLoopComplete | .matrixCommandStart | .matrixCommandComplete | .remoteMatrixCommand
  | .copyCommandStart | .copyCommandComplete | .copyPieceTimeout _ | .remoteHandleAdvance | .memoryCoreRequest
  | .movementPlanLoad _ | .movementPlanStore _ | .pageWalkComplete | .predictorLookup | .trainingUpdate
  | .exposureSwap _ | .trueFetchComplete _ | .speculativeFetchComplete _ | .speculativeRequestDrop _
  | .messageArrival | .ringHoldTimeout | .remoteLoadRequest | .remoteStoreRequest | .atomicRequest
  | .remoteReply | .nackRetry _ | .slotTimeout _ | .rftakeLoad _ | .rfttakeLoad _ | .rfputStore _
  | .remoteTakeRequest | .remoteTtakeRequest | .remotePutRequest | .queuedNotice | .remoteEvsigRequest
  | .barwLoad _ _ | .grpwLoad _ _ | .evwLoad _ _ | .evwStore _ | .mxwLoad _ _ | .mxwStore _ | .evstatRead _ _
  | .qwrWrite _ _ _ | .packetEnqueue _ _ | .qctlWrite _ _ _ | .qundRead _ _ | .distributorSelection _
  | .residencyExpiry _ | .placement _ | .launchStart _ | .contextSave | .contextBlockWrite | .clusterBlockSave _
  | .launchResume _ | .clownOwnerWrite _ _ | .clusterPreparationDone _ | .ingrWrite _ _ _ | .fqrespRetry _ _
  | .fqrespFail _ _ | .atcinvWrite _ _ | .atcInvalidationDone _ | .leaseRequest _ _ _ _ _ | .leaseGrant
  | .drainGraceExpiry _ | .leaseRelease _ | .floorChange _ _ | .peerLeave _ | .domainBringup _ | .linkFlit _ _ _
  | .laneRetire _ _ _ | .flowletGapExpiry _ _ | .fieldTestPoint _ _ _ _ | .tamperInput | .alarmWindowExpiry
  | .almstatRead | .fuseDecommission | .qtctlGo | .qtnonceWrite _ _ | .quoteDone | .sidebandQuoteRequest _
  | .mctpRequest _ | .boundaryScan _ | .frstWarm _ | .coldReset | .warmReset | .vfFunctionLevelReset _ | .boot _
  | .configRequest _ | .rmctlGo _ | .recoverySubmitDone _ | .throttleDownStep _ | .throttleUpStep _
  | .overtempFatal | .checkpointSave _ | .checkpointRestore _ | .checkpointDone _ | .ckrxWrite _
  | .registerWrite _ _ _ _ | .provisioning | .fqtailWrite _ _ | .revokeNotice _ _ _ | .trueFetchTimeout _
  | .postedWrite _ _ _ _ => true

end Sys2Proof
end

