-- ==== Sys2Proof/WellFormed.lean ====
section
/-!
DEFINITION. Which instructions the encoding admits: R47, R49 to R51, and the field tables of the owning chapters.
A word whose fields fail a check here is illegal (R53).
-/

namespace Sys2Proof

/-- A field that names a register pair holds an even number (R47). -/
def isPair (r : Reg) : Bool := r.getLsbD 0 == false

/-- A field that names an e, h or p register holds 0 to 7 (R47). -/
def isLow (r : Reg) : Bool := decide (r ≤ 7)

/-- A field that names a stream register holds 0 to 5 (R197 to R200). -/
def isStream (r : Reg) : Bool := decide (r ≤ 5)

/-- Rounding codes 5 and 6 are unassigned (R49). -/
def isRounding (m : BitVec 3) : Bool := m != 5 && m != 6

/-- Device and system scope take the address in an even pair (R51). -/
def isPairAt (s : BitVec 2) (r : Reg) : Bool := decide (s ≤ 1) || isPair r

/-- The forms of CCOPY (R229): mode 3 is unassigned, `.hd` goes with `.ll` or `.fl`, `.hs` with `.ll` or `.lf`. -/
def copyForm (hd hs : Bool) (m : BitVec 2) : Bool :=
  m != 3 && (!hd || m != 1) && (!hs || m != 2)

/-- The encoding admits the instruction's operands. -/
def Instr.wellFormed : Instr → Bool
  | .loop _ _ i => decide (i ≠ 0)
  | .lwp d _ _ => isPair d
  | .swp b _ _ => isPair b
  | .fence _ p q u v => (p || q) && (u || v)
  | .amoadd d a _ s _ n => (!n || d == 0) && isPairAt s a
  | .amoand d a _ s _ n => (!n || d == 0) && isPairAt s a
  | .amoor d a _ s _ n => (!n || d == 0) && isPairAt s a
  | .amoxor d a _ s _ n => (!n || d == 0) && isPairAt s a
  | .amomin d a _ s _ n => (!n || d == 0) && isPairAt s a
  | .amomax d a _ s _ n => (!n || d == 0) && isPairAt s a
  | .amominu d a _ s _ n => (!n || d == 0) && isPairAt s a
  | .amomaxu d a _ s _ n => (!n || d == 0) && isPairAt s a
  | .amoswap d a _ s _ n => (!n || d == 0) && isPairAt s a
  | .amocas _ a _ s _ => isPairAt s a
  | .amoincb d a _ s _ n => (!n || d == 0) && isPairAt s a
  | .amofadd d a _ s _ n => (!n || d == 0) && isPairAt s a
  | .rload _ a _ => isPair a
  | .rwait d _ p => !p || isPair d
  | .rstore a b p => isPair a && (!p || isPair b)
  | .hdrPack d _ _ => isPair d
  | .hdrParse _ a _ => isPair a
  | .arrive _ l n => !l || decide (n < 16)
  | .bwait _ l n => !l || decide (n < 16)
  | .bgroup _ l n => !l || decide (n < 16)
  | .fadd _ _ _ m => isRounding m
  | .fsub _ _ _ m => isRounding m
  | .fmul _ _ _ m => isRounding m
  | .fdiv _ _ _ m => isRounding m
  | .fsqrt _ _ m => isRounding m
  | .fcvtWS _ _ m => isRounding m
  | .fcvtWuS _ _ m => isRounding m
  | .fcvtSW _ _ m => isRounding m
  | .fcvtSWu _ _ m => isRounding m
  | .fcvtBhS _ _ m => isRounding m
  | .fcvtHhS _ _ m => isRounding m
  | .fexp2 _ _ m => isRounding m
  | .flog2 _ _ m => isRounding m
  | .frcp _ _ m => isRounding m
  | .frsq _ _ m => isRounding m
  | .ftanh _ _ m => isRounding m
  | .fsigm _ _ m => isRounding m
  | .fma _ _ _ _ m => isRounding m
  | .fms _ _ _ _ m => isRounding m
  | .fnma _ _ _ _ m => isRounding m
  | .fnms _ _ _ _ m => isRounding m
  | .hadd2 _ _ _ m => isRounding m
  | .hmul2 _ _ _ m => isRounding m
  | .hfma2 _ _ _ m => isRounding m
  | .scfg d _ _ i => isStream d && decide (i ≤ 5)
  | .smap d => isStream d
  | .sunmap d => isStream d
  | .sstat _ a s => if s ≤ 2 then isStream a else decide (s ≤ 4) && a == 0
  | .mstrmH _ a _ _ => isLow a
  | .mcmd _ a _ => isPair a
  | .mstat _ s => decide (s ≤ 4)
  | .ccopy _ a b _ h s m => copyForm h s m && (!s || isLow a) && (!h || m != 0 || isLow b) && (!h || m != 2 || isLow a) && (m == 0 || b == 0)
  | .cgath _ a _ _ h _ => !h || isLow a
  | .cbCfg d _ _ => isLow d
  | .cbWaitf _ a _ => isLow a
  | .cbWaite _ a _ => isLow a
  | .cbAdvp a _ => isLow a
  | .cbAdvc a _ => isLow a
  | .pfetch d _ _ => isLow d
  | .confirm d _ _ => isLow d
  | .cancel d => isLow d
  | .pwait d => isLow d
  | .pread _ a _ => isLow a
  | .eclr d => isLow d
  | .eins d a _ => isLow d && isPair a
  | .eld d _ => isLow d
  | .est d _ => isLow d
  | .emax d a b => isLow d && isLow a && isLow b
  | .esum d a b => isLow d && isLow a && isLow b
  | .eicv d a b => isLow d && isLow a && isLow b
  | .ecnj d a => isLow d && isLow a
  | .eeval _ a _ s => isLow a && decide (s ≠ 3)
  | .eshf d _ _ => isLow d
  | .ecnt _ a => isLow a
  | .edomClip d _ _ => isLow d
  | .edomLo _ a => isLow a
  | .edomHi _ a => isLow a
  | .ill _ | .add _ _ _ | .sub _ _ _ | .and _ _ _ | .or _ _ _ | .xor _ _ _ | .andn _ _ _ | .sll _ _ _
  | .srl _ _ _ | .sra _ _ _ | .ror _ _ _ | .slt _ _ _ | .sltu _ _ _ | .min _ _ _ | .max _ _ _ | .minu _ _ _
  | .maxu _ _ _ | .mul _ _ _ | .mulh _ _ _ | .mulhu _ _ _ | .mulhsu _ _ _ | .div _ _ _ | .divu _ _ _
  | .rem _ _ _ | .remu _ _ _ | .clz _ _ | .ctz _ _ | .popc _ _ | .brev _ _ | .bswap _ _ | .bfx _ _ _
  | .bfxu _ _ _ | .bfi _ _ _ | .okeyH _ _ | .okeyW _ _ | .addi _ _ _ | .andi _ _ _ | .ori _ _ _ | .xori _ _ _
  | .slti _ _ _ | .sltiu _ _ _ | .slli _ _ _ | .srli _ _ _ | .srai _ _ _ | .rori _ _ _ | .lui _ _ | .auipc _ _
  | .jal _ _ | .jalr _ _ _ | .beq _ _ _ | .bne _ _ _ | .blt _ _ _ | .bge _ _ _ | .bltu _ _ _ | .bgeu _ _ _
  | .lb _ _ _ | .lbu _ _ _ | .lh _ _ _ | .lhu _ _ _ | .lw _ _ _ | .flw _ _ _ | .sb _ _ _ | .sh _ _ _ | .sw _ _ _
  | .fsw _ _ _ | .tlook _ _ | .tset _ _ _ | .tinv _ _ | .take _ _ | .ttake _ _ _ | .put _ _ | .feset _ _
  | .fenceI | .fenceE | .msend | .mrecv _ | .mpop | .hdrLay _ _ | .evwait _ _ | .evsig _ _ | .evlock _
  | .evunlock _ | .pdone | .pphase | .follow _ _ | .detach | .sysc _ | .brk _ | .uret | .sret | .udecline | .wfi
  | .mcap _ _ | .csrrw _ _ _ | .csrrs _ _ _ | .csrrc _ _ _ | .fmin _ _ _ | .fmax _ _ _ | .fminp _ _ _
  | .fmaxp _ _ _ | .fsgnj _ _ _ | .fsgnjn _ _ _ | .fsgnjx _ _ _ | .feq _ _ _ | .flt _ _ _ | .fle _ _ _
  | .fclass _ _ | .fcvtSBh _ _ | .fcvtSHh _ _ | .fmvXS _ _ | .fmvSX _ _ | .hmax2 _ _ _ | .iaddF _ _ _
  | .isubF _ _ _ | .iandF _ _ _ | .iorF _ _ _ | .ixorF _ _ _ | .isllF _ _ _ | .isrlF _ _ _ | .iselF _ _ _
  | .icmpltF _ _ _ | .icmpeqF _ _ _ | .vloop _ _ _ | .vwait | .mcfgStr _ _ _ _ | .mcfgScl _ _ _ _
  | .mldw _ _ _ _ | .mswap _ _ | .mstrm _ _ _ _ | .mdrn _ _ _ _ _ _ | .mzero _ _ _ | .mwait | .ccfg _ _ _
  | .cwait | .cbRadv _ _ | .pcfg _ _ _ | .preadEnt _ _ | .ptrainSet _ _ | .ptrainInv _ | .lease _ _ _ _
  | .lrel _ _ | .lqry _ _ _ | .lfloor _ _ | .stewardEscalationEntry | .engineFaultReport | .refusalReport
  | .completionInterrupt | .messageArrivalInterrupt | .preEmptionEntry | .phaseAbortInterrupt | .debugHalt
  | .machineCheck | .dctlKill _ | .dctlUret _ | .dctlGo _ | .pointDispatch | .phaseClosure _
  | .launchCompletion _ | .phaseWatchdogExpiry | .precActRollback | .precActKill | .precActTimeout
  | .phaseRollback _ | .vectorLoopComplete | .matrixCommandStart | .matrixCommandComplete | .remoteMatrixCommand
  | .copyCommandStart | .copyCommandComplete | .copyPieceTimeout _ | .remoteHandleAdvance | .memoryCoreRequest
  | .movementPlanLoad _ | .movementPlanStore _ | .pageWalkComplete | .predictorLookup | .trainingUpdate
  | .exposureSwap _ | .trueFetchComplete _ | .speculativeFetchComplete _ | .speculativeRequestDrop _
  | .messageArrival | .ringHoldTimeout | .remoteLoadRequest | .remoteStoreRequest | .atomicRequest
  | .remoteReply | .nackRetry _ | .slotTimeout _ | .rftakeLoad _ | .rfttakeLoad _ | .rfputStore _
  | .remoteTakeRequest | .remoteTtakeRequest | .remotePutRequest | .queuedNotice | .remoteEvsigRequest
  | .barwLoad _ _ | .grpwLoad _ _ | .evwLoad _ _ | .evwStore _ | .mxwLoad _ _ | .mxwStore _ | .evstatRead _ _
  | .qwrWrite _ _ _ | .packetEnqueue _ _ | .qctlWrite _ _ _ | .qundRead _ _ | .distributorSelection _
  | .residencyExpiry _ | .placement _ | .launchStart _ | .contextSave | .contextBlockWrite | .clusterBlockSave _
  | .launchResume _ | .clownOwnerWrite _ _ | .clusterPreparationDone _ | .ingrWrite _ _ _ | .fqrespRetry _ _
  | .fqrespFail _ _ | .atcinvWrite _ _ | .atcInvalidationDone _ | .leaseRequest _ _ _ _ _ | .leaseGrant
  | .drainGraceExpiry _ | .leaseRelease _ | .floorChange _ _ | .peerLeave _ | .domainBringup _ | .linkFlit _ _ _
  | .laneRetire _ _ _ | .flowletGapExpiry _ _ | .fieldTestPoint _ _ _ _ | .tamperInput | .alarmWindowExpiry
  | .almstatRead | .fuseDecommission | .qtctlGo | .qtnonceWrite _ _ | .quoteDone | .sidebandQuoteRequest _
  | .mctpRequest _ | .boundaryScan _ | .frstWarm _ | .coldReset | .warmReset | .vfFunctionLevelReset _ | .boot _
  | .configRequest _ | .rmctlGo _ | .recoverySubmitDone _ | .throttleDownStep _ | .throttleUpStep _
  | .overtempFatal | .checkpointSave _ | .checkpointRestore _ | .checkpointDone _ | .ckrxWrite _
  | .registerWrite _ _ _ _ | .provisioning | .fqtailWrite _ _ | .revokeNotice _ _ _ | .trueFetchTimeout _
  | .postedWrite _ _ _ _ => true

end Sys2Proof
end

