-- ==== Sys2Proof/Decode.lean ====
section
/-!
DEFINITION. The decoder and the encoder, both written from the formats of R45, the opcode map of R48 and the
subfields of R49. The decoder is total on any word; it rejects by name. The encoder is defined for the rows
that have a word.
-/

namespace Sys2Proof

/-- Why a word is no instruction (R53). -/
inductive DecodeError where
  /-- The major opcode is reserved. -/
  | reservedOpcode
  /-- The selector value is unassigned. -/
  | unassignedSelector
  /-- A must-be-zero field is nonzero. -/
  | mustBeZero
  /-- An operand field holds a value the encoding does not admit. -/
  | illFormedOperand
  deriving DecidableEq, Repr

/-- Bits 31:26. -/
def opOf (w : Word) : BitVec 6 := w.extractLsb' 26 6
/-- Bits 25:21: rd, or the first register of formats S and B. -/
def rdOf (w : Word) : Reg := w.extractLsb' 21 5
/-- Bits 20:16: rs1, or the second register of format B. -/
def rs1Of (w : Word) : Reg := w.extractLsb' 16 5
/-- Bits 15:11: rs2 of formats A and E. -/
def rs2Of (w : Word) : Reg := w.extractLsb' 11 5
/-- Bits 10:0: fn of format A; eop and eflag of format E. -/
def fnOf (w : Word) : BitVec 11 := w.extractLsb' 0 11
/-- Bits 15:0: imm16 or disp16. -/
def imm16Of (w : Word) : BitVec 16 := w.extractLsb' 0 16
/-- Bits 20:0: imm21 or disp21. -/
def imm21Of (w : Word) : BitVec 21 := w.extractLsb' 0 21

/-- Formats A and E: five fields from bit 31 down. -/
def packA (op : BitVec 6) (d a b : Reg) (fn : BitVec 11) : Word := op ++ d ++ a ++ b ++ fn
/-- Formats I, S and B: two registers and a 16-bit field. -/
def packI (op : BitVec 6) (d a : Reg) (i : BitVec 16) : Word := op ++ d ++ a ++ i
/-- Formats J and U: one register and a 21-bit field. -/
def packU (op : BitVec 6) (d : Reg) (i : BitVec 21) : Word := op ++ d ++ i

/-- One bit of a field. -/
def bit (x : Bool) : BitVec 1 := BitVec.ofBool x

/-- A decoded row, once its must-be-zero fields are checked. -/
def need (ok : Bool) (i : Instr) : Except DecodeError Instr :=
  if ok then .ok i else .error .mustBeZero

/-- The ALU group: the whole of fn selects (R97). -/
def decodeAlu (d a b : Reg) (fn : BitVec 11) : Except DecodeError Instr :=
  match fn with
  | 0x0#11 => .ok (.add d a b)
  | 0x1#11 => .ok (.sub d a b)
  | 0x2#11 => .ok (.and d a b)
  | 0x3#11 => .ok (.or d a b)
  | 0x4#11 => .ok (.xor d a b)
  | 0x5#11 => .ok (.andn d a b)
  | 0x6#11 => .ok (.sll d a b)
  | 0x7#11 => .ok (.srl d a b)
  | 0x8#11 => .ok (.sra d a b)
  | 0x9#11 => .ok (.ror d a b)
  | 0xA#11 => .ok (.slt d a b)
  | 0xB#11 => .ok (.sltu d a b)
  | 0xC#11 => .ok (.min d a b)
  | 0xD#11 => .ok (.max d a b)
  | 0xE#11 => .ok (.minu d a b)
  | 0xF#11 => .ok (.maxu d a b)
  | _ => .error .unassignedSelector

/-- The MULDIV group (R100). -/
def decodeMulDiv (d a b : Reg) (fn : BitVec 11) : Except DecodeError Instr :=
  match fn with
  | 0x0#11 => .ok (.mul d a b)
  | 0x1#11 => .ok (.mulh d a b)
  | 0x2#11 => .ok (.mulhu d a b)
  | 0x3#11 => .ok (.mulhsu d a b)
  | 0x4#11 => .ok (.div d a b)
  | 0x5#11 => .ok (.divu d a b)
  | 0x6#11 => .ok (.rem d a b)
  | 0x7#11 => .ok (.remu d a b)
  | _ => .error .unassignedSelector

/-- The BITS group; the one-operand forms need rs2 zero (R101, R103). -/
def decodeBits (d a b : Reg) (fn : BitVec 11) : Except DecodeError Instr :=
  match fn with
  | 0x0#11 => need (b == 0) (.clz d a)
  | 0x1#11 => need (b == 0) (.ctz d a)
  | 0x2#11 => need (b == 0) (.popc d a)
  | 0x3#11 => need (b == 0) (.brev d a)
  | 0x4#11 => need (b == 0) (.bswap d a)
  | 0x5#11 => .ok (.bfx d a b)
  | 0x6#11 => .ok (.bfxu d a b)
  | 0x7#11 => .ok (.bfi d a b)
  | 0x8#11 => need (b == 0) (.okeyH d a)
  | 0x9#11 => need (b == 0) (.okeyW d a)
  | _ => .error .unassignedSelector

/-- The SHI group: selector in imm 15:11, zeros in 10:5, amount in 4:0 (R99). -/
def decodeShi (d a : Reg) (i : BitVec 16) : Except DecodeError Instr :=
  let s := i.extractLsb' 0 5
  let z := i.extractLsb' 5 6 == 0
  match i.extractLsb' 11 5 with
  | 0x0#5 => need z (.slli d a s)
  | 0x1#5 => need z (.srli d a s)
  | 0x2#5 => need z (.srai d a s)
  | 0x3#5 => need z (.rori d a s)
  | _ => .error .unassignedSelector

/-- The MEMX group: selector in fn 10:7; only FENCE uses fn 6:1 (R49). -/
def decodeMemx (d a b : Reg) (fn : BitVec 11) : Except DecodeError Instr :=
  let z := fn.extractLsb' 0 7 == 0
  match fn.extractLsb' 7 4 with
  | 0x0#4 => need (b == 0 && z) (.tlook d a)
  | 0x1#4 => need (z) (.tset d a b)
  | 0x2#4 => need (b == 0 && z) (.tinv d a)
  | 0x3#4 => need (b == 0 && z) (.take d a)
  | 0x4#4 => need (z) (.ttake d a b)
  | 0x5#4 => need (d == 0 && z) (.put a b)
  | 0x6#4 => need (d == 0 && z) (.feset a b)
  | 0x7#4 => need (d == 0 && a == 0 && b == 0 && !fn.getLsbD 0) (.fence (fn.extractLsb' 5 2) (fn.getLsbD 4) (fn.getLsbD 3) (fn.getLsbD 2) (fn.getLsbD 1))
  | 0x8#4 => need (d == 0 && a == 0 && b == 0 && z) (.fenceI)
  | 0x9#4 => need (d == 0 && a == 0 && b == 0 && z) (.fenceE)
  | _ => .error .unassignedSelector

/-- The AMO group: operation 10:7, scope 6:5, order 4:3, no-return 2, zeros 1:0 (R301). -/
def decodeAmo (d a b : Reg) (fn : BitVec 11) : Except DecodeError Instr :=
  let s := fn.extractLsb' 5 2
  let o := fn.extractLsb' 3 2
  let n := fn.getLsbD 2
  let z := fn.extractLsb' 0 2 == 0
  match fn.extractLsb' 7 4 with
  | 0x0#4 => need (z) (.amoadd d a b s o n)
  | 0x1#4 => need (z) (.amoand d a b s o n)
  | 0x2#4 => need (z) (.amoor d a b s o n)
  | 0x3#4 => need (z) (.amoxor d a b s o n)
  | 0x4#4 => need (z) (.amomin d a b s o n)
  | 0x5#4 => need (z) (.amomax d a b s o n)
  | 0x6#4 => need (z) (.amominu d a b s o n)
  | 0x7#4 => need (z) (.amomaxu d a b s o n)
  | 0x8#4 => need (z) (.amoswap d a b s o n)
  | 0x9#4 => need (z && !n) (.amocas d a b s o)
  | 0xA#4 => need (z) (.amoincb d a b s o n)
  | 0xB#4 => need (z) (.amofadd d a b s o n)
  | _ => .error .unassignedSelector

/-- The MSG group: selector in fn 10:7, `.d` in fn 0, layout in fn 2:0 (R282). -/
def decodeMsg (d a b : Reg) (fn : BitVec 11) : Except DecodeError Instr :=
  let p := fn.getLsbD 0
  let l := fn.extractLsb' 0 3
  match fn.extractLsb' 7 4 with
  | 0x0#4 => need (b == 0 && fn.extractLsb' 1 6 == 0) (.rload d a p)
  | 0x1#4 => need (b == 0 && fn.extractLsb' 1 6 == 0) (.rwait d a p)
  | 0x2#4 => need (d == 0 && fn.extractLsb' 1 6 == 0) (.rstore a b p)
  | 0x3#4 => need (d == 0 && a == 0 && b == 0 && fn.extractLsb' 0 7 == 0) (.msend)
  | 0x4#4 => need (a == 0 && b == 0 && fn.extractLsb' 0 7 == 0) (.mrecv d)
  | 0x5#4 => need (d == 0 && a == 0 && b == 0 && fn.extractLsb' 0 7 == 0) (.mpop)
  | 0x6#4 => need (b == 0 && fn.extractLsb' 3 4 == 0) (.hdrPack d a l)
  | 0x7#4 => need (b == 0 && fn.extractLsb' 3 4 == 0) (.hdrParse d a l)
  | 0x8#4 => need (d == 0 && b == 0 && fn.extractLsb' 3 4 == 0) (.hdrLay a l)
  | _ => .error .unassignedSelector

/-- The SYNC group: selector in fn 10:7, level in fn 5, number in fn 4:0 (R49). -/
def decodeSync (d a b : Reg) (fn : BitVec 11) : Except DecodeError Instr :=
  let l := fn.getLsbD 5
  let n := fn.extractLsb' 0 5
  match fn.extractLsb' 7 4 with
  | 0x0#4 => need (a == 0 && b == 0 && !fn.getLsbD 6) (.arrive d l n)
  | 0x1#4 => need (d == 0 && b == 0 && !fn.getLsbD 6) (.bwait a l n)
  | 0x2#4 => need (d == 0 && b == 0 && !fn.getLsbD 6) (.bgroup a l n)
  | 0x3#4 => need (a == 0 && b == 0 && fn.extractLsb' 5 2 == 0) (.evwait d n)
  | 0x4#4 => need (d == 0 && b == 0 && fn.extractLsb' 5 2 == 0) (.evsig a n)
  | 0x5#4 => need (d == 0 && a == 0 && b == 0 && fn.extractLsb' 5 2 == 0) (.evlock n)
  | 0x6#4 => need (d == 0 && a == 0 && b == 0 && fn.extractLsb' 5 2 == 0) (.evunlock n)
  | _ => .error .unassignedSelector

/-- The POINT group: selector in fn 10:7 (R164 to R166). -/
def decodePoint (d a b : Reg) (fn : BitVec 11) : Except DecodeError Instr :=
  let z := fn.extractLsb' 0 7 == 0
  match fn.extractLsb' 7 4 with
  | 0x0#4 => need (d == 0 && a == 0 && b == 0 && z) (.pdone)
  | 0x1#4 => need (d == 0 && a == 0 && b == 0 && z) (.pphase)
  | 0x2#4 => need (b == 0 && z) (.follow d a)
  | 0x3#4 => need (d == 0 && a == 0 && b == 0 && z) (.detach)
  | _ => .error .unassignedSelector

/-- The SYS group: selector in fn 10:7, code in fn 6:0 (R140). -/
def decodeSys (d a b : Reg) (fn : BitVec 11) : Except DecodeError Instr :=
  let c := fn.extractLsb' 0 7
  let z := c == 0
  match fn.extractLsb' 7 4 with
  | 0x0#4 => need (d == 0 && a == 0 && b == 0) (.sysc c)
  | 0x1#4 => need (d == 0 && a == 0 && b == 0) (.brk c)
  | 0x2#4 => need (d == 0 && a == 0 && b == 0 && z) (.uret)
  | 0x3#4 => need (d == 0 && a == 0 && b == 0 && z) (.sret)
  | 0x4#4 => need (d == 0 && a == 0 && b == 0 && z) (.udecline)
  | 0x5#4 => need (d == 0 && a == 0 && b == 0 && z) (.wfi)
  | 0x6#4 => need (b == 0 && z) (.mcap d a)
  | _ => .error .unassignedSelector

/-- The CSR group: selector in imm 15:12, CSR number in imm 11:0 (R148). -/
def decodeCsr (d a : Reg) (i : BitVec 16) : Except DecodeError Instr :=
  let n := i.extractLsb' 0 12
  match i.extractLsb' 12 4 with
  | 0x0#4 => .ok (.csrrw d a n)
  | 0x1#4 => .ok (.csrrs d a n)
  | 0x2#4 => .ok (.csrrc d a n)
  | _ => .error .unassignedSelector

/-- The FP group: rounding 10:8, zeros 7:5, selector 4:0 (R50). -/
def decodeFp (d a b : Reg) (fn : BitVec 11) : Except DecodeError Instr :=
  let m := fn.extractLsb' 8 3
  let z := fn.extractLsb' 5 3 == 0
  match fn.extractLsb' 0 5 with
  | 0x0#5 => need (z) (.fadd d a b m)
  | 0x1#5 => need (z) (.fsub d a b m)
  | 0x2#5 => need (z) (.fmul d a b m)
  | 0x3#5 => need (z) (.fdiv d a b m)
  | 0x4#5 => need (b == 0 && z) (.fsqrt d a m)
  | 0x5#5 => need (z && m == 0) (.fmin d a b)
  | 0x6#5 => need (z && m == 0) (.fmax d a b)
  | 0x7#5 => need (z && m == 0) (.fminp d a b)
  | 0x8#5 => need (z && m == 0) (.fmaxp d a b)
  | 0x9#5 => need (z && m == 0) (.fsgnj d a b)
  | 0xA#5 => need (z && m == 0) (.fsgnjn d a b)
  | 0xB#5 => need (z && m == 0) (.fsgnjx d a b)
  | 0xC#5 => need (z && m == 0) (.feq d a b)
  | 0xD#5 => need (z && m == 0) (.flt d a b)
  | 0xE#5 => need (z && m == 0) (.fle d a b)
  | 0xF#5 => need (b == 0 && z && m == 0) (.fclass d a)
  | 0x10#5 => need (b == 0 && z) (.fcvtWS d a m)
  | 0x11#5 => need (b == 0 && z) (.fcvtWuS d a m)
  | 0x12#5 => need (b == 0 && z) (.fcvtSW d a m)
  | 0x13#5 => need (b == 0 && z) (.fcvtSWu d a m)
  | 0x14#5 => need (b == 0 && z && m == 0) (.fcvtSBh d a)
  | 0x15#5 => need (b == 0 && z) (.fcvtBhS d a m)
  | 0x16#5 => need (b == 0 && z && m == 0) (.fcvtSHh d a)
  | 0x17#5 => need (b == 0 && z) (.fcvtHhS d a m)
  | 0x18#5 => need (b == 0 && z && m == 0) (.fmvXS d a)
  | 0x19#5 => need (b == 0 && z && m == 0) (.fmvSX d a)
  | 0x1A#5 => need (b == 0 && z) (.fexp2 d a m)
  | 0x1B#5 => need (b == 0 && z) (.flog2 d a m)
  | 0x1C#5 => need (b == 0 && z) (.frcp d a m)
  | 0x1D#5 => need (b == 0 && z) (.frsq d a m)
  | 0x1E#5 => need (b == 0 && z) (.ftanh d a m)
  | 0x1F#5 => need (b == 0 && z) (.fsigm d a m)
  | _ => .error .unassignedSelector

/-- The FMA group: rs3 in 10:6, selector 5:4, rounding 3:1, zero 0 (R123). -/
def decodeFma (d a b : Reg) (fn : BitVec 11) : Except DecodeError Instr :=
  let c := fn.extractLsb' 6 5
  let m := fn.extractLsb' 1 3
  let z := !fn.getLsbD 0
  match fn.extractLsb' 4 2 with
  | 0x0#2 => need z (.fma d a b c m)
  | 0x1#2 => need z (.fms d a b c m)
  | 0x2#2 => need z (.fnma d a b c m)
  | 0x3#2 => need z (.fnms d a b c m)
  | _ => .error .unassignedSelector

/-- The packed group: rounding 10:8, zeros 7:4, selector 3:0 (R124, R125). -/
def decodePacked (d a b : Reg) (fn : BitVec 11) : Except DecodeError Instr :=
  let m := fn.extractLsb' 8 3
  let z := fn.extractLsb' 4 4 == 0
  match fn.extractLsb' 0 4 with
  | 0x0#4 => need (z) (.hadd2 d a b m)
  | 0x1#4 => need (z) (.hmul2 d a b m)
  | 0x2#4 => need (z) (.hfma2 d a b m)
  | 0x3#4 => need (z && m == 0) (.hmax2 d a b)
  | 0x4#4 => need (z && m == 0) (.iaddF d a b)
  | 0x5#4 => need (z && m == 0) (.isubF d a b)
  | 0x6#4 => need (z && m == 0) (.iandF d a b)
  | 0x7#4 => need (z && m == 0) (.iorF d a b)
  | 0x8#4 => need (z && m == 0) (.ixorF d a b)
  | 0x9#4 => need (z && m == 0) (.isllF d a b)
  | 0xA#4 => need (z && m == 0) (.isrlF d a b)
  | 0xB#4 => need (z && m == 0) (.iselF d a b)
  | 0xC#4 => need (z && m == 0) (.icmpltF d a b)
  | 0xD#4 => need (z && m == 0) (.icmpeqF d a b)
  | _ => .error .unassignedSelector

/-- The STREAM group: eop 10:5, eflag 4 zero, eflag 3:0 item or selector (R197 to R203). -/
def decodeStream (d a b : Reg) (fn : BitVec 11) : Except DecodeError Instr :=
  let n := fn.getLsbD 4
  let f := fn.extractLsb' 0 4
  match fn.extractLsb' 5 6 with
  | 0x0#6 => need (!n) (.scfg d a b f)
  | 0x1#6 => need (!n && f == 0 && a == 0 && b == 0) (.smap d)
  | 0x2#6 => need (!n && f == 0 && a == 0 && b == 0) (.sunmap d)
  | 0x3#6 => need (!n && b == 0) (.vloop d a f)
  | 0x4#6 => need (!n && f == 0 && d == 0 && a == 0 && b == 0) .vwait
  | 0x5#6 => need (!n && b == 0) (.sstat d a f)
  | _ => .error .unassignedSelector

/-- The MATRIX group: eop 10:5, notice in eflag 4 (R213). -/
def decodeMatrix (d a b : Reg) (fn : BitVec 11) : Except DecodeError Instr :=
  let n := fn.getLsbD 4
  let f := fn.extractLsb' 0 4
  match fn.extractLsb' 5 6 with
  | 0x0#6 => match f with
    | 0x0#4 => .ok (.mcfgStr d a b n)
    | 0x1#4 => .ok (.mcfgScl d a b n)
    | _ => .error .unassignedSelector
  | 0x1#6 => need (f == 0) (.mldw d a b n)
  | 0x2#6 => need (f == 0 && a == 0 && b == 0) (.mswap d n)
  | 0x3#6 => match f with
    | 0x0#4 => .ok (.mstrm d a b n)
    | 0x1#4 => .ok (.mstrmH d a b n)
    | _ => .error .unassignedSelector
  | 0x4#6 => need (fn.extractLsb' 2 2 == 0) (.mdrn d a b n (fn.getLsbD 1) (fn.getLsbD 0))
  | 0x5#6 => need (f == 0 && a == 0) (.mzero d b n)
  | 0x6#6 => need (!n && f == 0 && d == 0 && a == 0 && b == 0) .mwait
  | 0x7#6 => need (!n && f == 0) (.mcmd d a b)
  | 0x8#6 => need (!n && !fn.getLsbD 3 && a == 0 && b == 0) (.mstat d (fn.extractLsb' 0 3))
  | _ => .error .unassignedSelector

/-- The COPY group: eop 10:5, notice in eflag 4 of CCOPY and CGATH (R228 to R236). -/
def decodeCopy (d a b : Reg) (fn : BitVec 11) : Except DecodeError Instr :=
  let n := fn.getLsbD 4
  let f := fn.extractLsb' 0 4
  match fn.extractLsb' 5 6 with
  | 0x0#6 => need (!n && fn.extractLsb' 2 2 == 0 && d == 0) (.ccfg a b (fn.extractLsb' 0 2))
  | 0x1#6 => .ok (.ccopy d a b n (fn.getLsbD 3) (fn.getLsbD 2) (fn.extractLsb' 0 2))
  | 0x2#6 => need (fn.extractLsb' 1 2 == 0) (.cgath d a b n (fn.getLsbD 3) (fn.getLsbD 0))
  | 0x3#6 => need (!n && f == 0 && d == 0 && a == 0 && b == 0) .cwait
  | 0x4#6 => need (!n && f == 0) (.cbCfg d a b)
  | 0x5#6 => need (!n && f == 0) (.cbWaitf d a b)
  | 0x6#6 => need (!n && f == 0) (.cbWaite d a b)
  | 0x7#6 => need (!n && f == 0 && d == 0) (.cbAdvp a b)
  | 0x8#6 => need (!n && f == 0 && d == 0) (.cbAdvc a b)
  | 0x9#6 => need (!n && f == 0 && d == 0) (.cbRadv a b)
  | _ => .error .unassignedSelector

/-- The PRED group: eop 10:5, notice in eflag 4 of CONFIRM (R247). -/
def decodePred (d a b : Reg) (fn : BitVec 11) : Except DecodeError Instr :=
  let n := fn.getLsbD 4
  let f := fn.extractLsb' 0 4
  match fn.extractLsb' 5 6 with
  | 0x0#6 => need (!n && fn.extractLsb' 1 3 == 0 && d == 0) (.pcfg a b (fn.getLsbD 0))
  | 0x1#6 => need (!n && f == 0) (.pfetch d a b)
  | 0x2#6 => need (f == 0 && b == 0) (.confirm d a n)
  | 0x3#6 => need (!n && f == 0 && a == 0 && b == 0) (.cancel d)
  | 0x4#6 => need (!n && f == 0 && a == 0 && b == 0) (.pwait d)
  | 0x5#6 => match f with
    | 0x0#4 => need (!n && b == 0) (.pread d a false)
    | 0x1#4 => need (!n && b == 0) (.pread d a true)
    | 0x2#4 => need (!n && b == 0) (.preadEnt d a)
    | _ => .error .unassignedSelector
  | 0x6#6 => match f with
    | 0x0#4 => need (!n && d == 0) (.ptrainSet a b)
    | 0x1#4 => need (!n && d == 0 && b == 0) (.ptrainInv a)
    | _ => .error .unassignedSelector
  | _ => .error .unassignedSelector

/-- The ENV group: eop 10:5, eflag 4 zero, eflag 3:0 the selector of EEVAL and EDOM (R267). -/
def decodeEnv (d a b : Reg) (fn : BitVec 11) : Except DecodeError Instr :=
  let n := fn.getLsbD 4
  let f := fn.extractLsb' 0 4
  match fn.extractLsb' 5 6 with
  | 0x0#6 => need (!n && f == 0 && a == 0 && b == 0) (.eclr d)
  | 0x1#6 => need (!n && f == 0) (.eins d a b)
  | 0x2#6 => need (!n && f == 0 && b == 0) (.eld d a)
  | 0x3#6 => need (!n && f == 0 && b == 0) (.est d a)
  | 0x4#6 => need (!n && f == 0) (.emax d a b)
  | 0x5#6 => need (!n && f == 0) (.esum d a b)
  | 0x6#6 => need (!n && f == 0) (.eicv d a b)
  | 0x7#6 => need (!n && f == 0 && b == 0) (.ecnj d a)
  | 0x8#6 => need (!n && fn.extractLsb' 2 2 == 0) (.eeval d a b (fn.extractLsb' 0 2))
  | 0x9#6 => need (!n && f == 0) (.eshf d a b)
  | 0xA#6 => need (!n && f == 0 && b == 0) (.ecnt d a)
  | 0xB#6 => match f with
    | 0x0#4 => need (!n) (.edomClip d a b)
    | 0x1#4 => need (!n && b == 0) (.edomLo d a)
    | 0x2#4 => need (!n && b == 0) (.edomHi d a)
    | _ => .error .unassignedSelector
  | _ => .error .unassignedSelector

/-- The LEASE group: eop 10:5, eflag 4 zero, eflag 0 `.all` or `.wait` (R394). -/
def decodeLease (d a b : Reg) (fn : BitVec 11) : Except DecodeError Instr :=
  let n := fn.getLsbD 4
  let f := fn.extractLsb' 0 4
  match fn.extractLsb' 5 6 with
  | 0x0#6 => need (!n && fn.extractLsb' 1 3 == 0) (.lease d a b (fn.getLsbD 0))
  | 0x1#6 => need (!n && f == 0 && d == 0) (.lrel a b)
  | 0x2#6 => need (!n && fn.extractLsb' 1 3 == 0 && b == 0) (.lqry d a (fn.getLsbD 0))
  | 0x3#6 => need (!n && f == 0 && d == 0) (.lfloor a b)
  | _ => .error .unassignedSelector

/-- The opcode map (R48): the row a word belongs to, its must-be-zero fields checked. -/
def decodeRow (w : Word) : Except DecodeError Instr :=
  let d := rdOf w
  let a := rs1Of w
  let b := rs2Of w
  let fn := fnOf w
  let i := imm16Of w
  match opOf w with
  | 0x00#6 => .ok (.ill (w.extractLsb' 0 26))
  | 0x01#6 => decodeAlu d a b fn
  | 0x02#6 => decodeMulDiv d a b fn
  | 0x03#6 => decodeBits d a b fn
  | 0x04#6 => .ok (.addi d a i)
  | 0x05#6 => .ok (.andi d a i)
  | 0x06#6 => .ok (.ori d a i)
  | 0x07#6 => .ok (.xori d a i)
  | 0x08#6 => .ok (.slti d a i)
  | 0x09#6 => .ok (.sltiu d a i)
  | 0x0A#6 => decodeShi d a i
  | 0x0B#6 => .ok (.lui d (imm21Of w))
  | 0x0C#6 => .ok (.auipc d (imm21Of w))
  | 0x0D#6 => .ok (.jal d (imm21Of w))
  | 0x0E#6 => .ok (.jalr d a i)
  | 0x0F#6 => .ok (.loop d a i)
  | 0x10#6 => .ok (.beq d a i)
  | 0x11#6 => .ok (.bne d a i)
  | 0x12#6 => .ok (.blt d a i)
  | 0x13#6 => .ok (.bge d a i)
  | 0x14#6 => .ok (.bltu d a i)
  | 0x15#6 => .ok (.bgeu d a i)
  | 0x16#6 => .ok (.lb d a i)
  | 0x17#6 => .ok (.lbu d a i)
  | 0x18#6 => .ok (.lh d a i)
  | 0x19#6 => .ok (.lhu d a i)
  | 0x1A#6 => .ok (.lw d a i)
  | 0x1B#6 => .ok (.flw d a i)
  | 0x1C#6 => .ok (.sb d a i)
  | 0x1D#6 => .ok (.sh d a i)
  | 0x1E#6 => .ok (.sw d a i)
  | 0x1F#6 => .ok (.fsw d a i)
  | 0x20#6 => .ok (.lwp d a i)
  | 0x21#6 => .ok (.swp d a i)
  | 0x22#6 => decodeMemx d a b fn
  | 0x23#6 => decodeAmo d a b fn
  | 0x24#6 => decodeMsg d a b fn
  | 0x25#6 => decodeSync d a b fn
  | 0x26#6 => decodePoint d a b fn
  | 0x27#6 => decodeSys d a b fn
  | 0x28#6 => decodeCsr d a i
  | 0x29#6 => decodeFp d a b fn
  | 0x2A#6 => decodeFma d a b fn
  | 0x2B#6 => decodePacked d a b fn
  | 0x2C#6 => decodeStream d a b fn
  | 0x2D#6 => decodeMatrix d a b fn
  | 0x2E#6 => decodeCopy d a b fn
  | 0x2F#6 => decodePred d a b fn
  | 0x30#6 => decodeEnv d a b fn
  | 0x31#6 => decodeLease d a b fn
  | _ => .error .reservedOpcode

/-- Decoding: the row of the opcode map, with operand fields the encoding admits (R53). -/
def decode (w : Word) : Except DecodeError Instr :=
  match decodeRow w with
  | .ok i => if i.wellFormed then .ok i else .error .illFormedOperand
  | .error e => .error e

/-- The word of an instruction, from the same formats; a device step has none. -/
def encode : Instr → Option Word
  | .ill x => some (0x00#6 ++ x)
  | .add d a b => some (packA 0x01#6 d a b 0x0#11)
  | .sub d a b => some (packA 0x01#6 d a b 0x1#11)
  | .and d a b => some (packA 0x01#6 d a b 0x2#11)
  | .or d a b => some (packA 0x01#6 d a b 0x3#11)
  | .xor d a b => some (packA 0x01#6 d a b 0x4#11)
  | .andn d a b => some (packA 0x01#6 d a b 0x5#11)
  | .sll d a b => some (packA 0x01#6 d a b 0x6#11)
  | .srl d a b => some (packA 0x01#6 d a b 0x7#11)
  | .sra d a b => some (packA 0x01#6 d a b 0x8#11)
  | .ror d a b => some (packA 0x01#6 d a b 0x9#11)
  | .slt d a b => some (packA 0x01#6 d a b 0xA#11)
  | .sltu d a b => some (packA 0x01#6 d a b 0xB#11)
  | .min d a b => some (packA 0x01#6 d a b 0xC#11)
  | .max d a b => some (packA 0x01#6 d a b 0xD#11)
  | .minu d a b => some (packA 0x01#6 d a b 0xE#11)
  | .maxu d a b => some (packA 0x01#6 d a b 0xF#11)
  | .mul d a b => some (packA 0x02#6 d a b 0x0#11)
  | .mulh d a b => some (packA 0x02#6 d a b 0x1#11)
  | .mulhu d a b => some (packA 0x02#6 d a b 0x2#11)
  | .mulhsu d a b => some (packA 0x02#6 d a b 0x3#11)
  | .div d a b => some (packA 0x02#6 d a b 0x4#11)
  | .divu d a b => some (packA 0x02#6 d a b 0x5#11)
  | .rem d a b => some (packA 0x02#6 d a b 0x6#11)
  | .remu d a b => some (packA 0x02#6 d a b 0x7#11)
  | .clz d a => some (packA 0x03#6 d a 0 0x0#11)
  | .ctz d a => some (packA 0x03#6 d a 0 0x1#11)
  | .popc d a => some (packA 0x03#6 d a 0 0x2#11)
  | .brev d a => some (packA 0x03#6 d a 0 0x3#11)
  | .bswap d a => some (packA 0x03#6 d a 0 0x4#11)
  | .bfx d a b => some (packA 0x03#6 d a b 0x5#11)
  | .bfxu d a b => some (packA 0x03#6 d a b 0x6#11)
  | .bfi d a b => some (packA 0x03#6 d a b 0x7#11)
  | .okeyH d a => some (packA 0x03#6 d a 0 0x8#11)
  | .okeyW d a => some (packA 0x03#6 d a 0 0x9#11)
  | .addi d a i => some (packI 0x04#6 d a i)
  | .andi d a i => some (packI 0x05#6 d a i)
  | .ori d a i => some (packI 0x06#6 d a i)
  | .xori d a i => some (packI 0x07#6 d a i)
  | .slti d a i => some (packI 0x08#6 d a i)
  | .sltiu d a i => some (packI 0x09#6 d a i)
  | .slli d a s => some (packI 0x0A#6 d a (0x0#5 ++ 0x0#6 ++ s))
  | .srli d a s => some (packI 0x0A#6 d a (0x1#5 ++ 0x0#6 ++ s))
  | .srai d a s => some (packI 0x0A#6 d a (0x2#5 ++ 0x0#6 ++ s))
  | .rori d a s => some (packI 0x0A#6 d a (0x3#5 ++ 0x0#6 ++ s))
  | .lui d i => some (packU 0x0B#6 d i)
  | .auipc d i => some (packU 0x0C#6 d i)
  | .jal d i => some (packU 0x0D#6 d i)
  | .jalr d a i => some (packI 0x0E#6 d a i)
  | .loop a b i => some (packI 0x0F#6 a b i)
  | .beq a b i => some (packI 0x10#6 a b i)
  | .bne a b i => some (packI 0x11#6 a b i)
  | .blt a b i => some (packI 0x12#6 a b i)
  | .bge a b i => some (packI 0x13#6 a b i)
  | .bltu a b i => some (packI 0x14#6 a b i)
  | .bgeu a b i => some (packI 0x15#6 a b i)
  | .lb d a i => some (packI 0x16#6 d a i)
  | .lbu d a i => some (packI 0x17#6 d a i)
  | .lh d a i => some (packI 0x18#6 d a i)
  | .lhu d a i => some (packI 0x19#6 d a i)
  | .lw d a i => some (packI 0x1A#6 d a i)
  | .flw d a i => some (packI 0x1B#6 d a i)
  | .sb b a i => some (packI 0x1C#6 b a i)
  | .sh b a i => some (packI 0x1D#6 b a i)
  | .sw b a i => some (packI 0x1E#6 b a i)
  | .fsw b a i => some (packI 0x1F#6 b a i)
  | .lwp d a i => some (packI 0x20#6 d a i)
  | .swp b a i => some (packI 0x21#6 b a i)
  | .tlook d a => some (packA 0x22#6 d a 0 0x0#11)
  | .tset d a b => some (packA 0x22#6 d a b 0x80#11)
  | .tinv d a => some (packA 0x22#6 d a 0 0x100#11)
  | .take d a => some (packA 0x22#6 d a 0 0x180#11)
  | .ttake d a b => some (packA 0x22#6 d a b 0x200#11)
  | .put a b => some (packA 0x22#6 0 a b 0x280#11)
  | .feset a b => some (packA 0x22#6 0 a b 0x300#11)
  | .fence s p q u v => some (packA 0x22#6 0 0 0 (0x7#4 ++ s ++ bit p ++ bit q ++ bit u ++ bit v ++ 0x0#1))
  | .fenceI => some (packA 0x22#6 0 0 0 0x400#11)
  | .fenceE => some (packA 0x22#6 0 0 0 0x480#11)
  | .amoadd d a b s o n => some (packA 0x23#6 d a b (0x0#4 ++ s ++ o ++ bit n ++ 0x0#2))
  | .amoand d a b s o n => some (packA 0x23#6 d a b (0x1#4 ++ s ++ o ++ bit n ++ 0x0#2))
  | .amoor d a b s o n => some (packA 0x23#6 d a b (0x2#4 ++ s ++ o ++ bit n ++ 0x0#2))
  | .amoxor d a b s o n => some (packA 0x23#6 d a b (0x3#4 ++ s ++ o ++ bit n ++ 0x0#2))
  | .amomin d a b s o n => some (packA 0x23#6 d a b (0x4#4 ++ s ++ o ++ bit n ++ 0x0#2))
  | .amomax d a b s o n => some (packA 0x23#6 d a b (0x5#4 ++ s ++ o ++ bit n ++ 0x0#2))
  | .amominu d a b s o n => some (packA 0x23#6 d a b (0x6#4 ++ s ++ o ++ bit n ++ 0x0#2))
  | .amomaxu d a b s o n => some (packA 0x23#6 d a b (0x7#4 ++ s ++ o ++ bit n ++ 0x0#2))
  | .amoswap d a b s o n => some (packA 0x23#6 d a b (0x8#4 ++ s ++ o ++ bit n ++ 0x0#2))
  | .amocas d a b s o => some (packA 0x23#6 d a b (0x9#4 ++ s ++ o ++ 0x0#3))
  | .amoincb d a b s o n => some (packA 0x23#6 d a b (0xA#4 ++ s ++ o ++ bit n ++ 0x0#2))
  | .amofadd d a b s o n => some (packA 0x23#6 d a b (0xB#4 ++ s ++ o ++ bit n ++ 0x0#2))
  | .rload d a p => some (packA 0x24#6 d a 0 (0x0#10 ++ bit p))
  | .rwait d a p => some (packA 0x24#6 d a 0 (0x40#10 ++ bit p))
  | .rstore a b p => some (packA 0x24#6 0 a b (0x80#10 ++ bit p))
  | .msend => some (packA 0x24#6 0 0 0 0x180#11)
  | .mrecv d => some (packA 0x24#6 d 0 0 0x200#11)
  | .mpop => some (packA 0x24#6 0 0 0 0x280#11)
  | .hdrPack d a l => some (packA 0x24#6 d a 0 (0x60#8 ++ l))
  | .hdrParse d a l => some (packA 0x24#6 d a 0 (0x70#8 ++ l))
  | .hdrLay a l => some (packA 0x24#6 0 a 0 (0x80#8 ++ l))
  | .arrive d l n => some (packA 0x25#6 d 0 0 (0x0#5 ++ bit l ++ n))
  | .bwait a l n => some (packA 0x25#6 0 a 0 (0x2#5 ++ bit l ++ n))
  | .bgroup a l n => some (packA 0x25#6 0 a 0 (0x4#5 ++ bit l ++ n))
  | .evwait d n => some (packA 0x25#6 d 0 0 (0xC#6 ++ n))
  | .evsig a n => some (packA 0x25#6 0 a 0 (0x10#6 ++ n))
  | .evlock n => some (packA 0x25#6 0 0 0 (0x14#6 ++ n))
  | .evunlock n => some (packA 0x25#6 0 0 0 (0x18#6 ++ n))
  | .pdone => some (packA 0x26#6 0 0 0 0x0#11)
  | .pphase => some (packA 0x26#6 0 0 0 0x80#11)
  | .follow d a => some (packA 0x26#6 d a 0 0x100#11)
  | .detach => some (packA 0x26#6 0 0 0 0x180#11)
  | .sysc c => some (packA 0x27#6 0 0 0 (0x0#4 ++ c))
  | .brk c => some (packA 0x27#6 0 0 0 (0x1#4 ++ c))
  | .uret => some (packA 0x27#6 0 0 0 0x100#11)
  | .sret => some (packA 0x27#6 0 0 0 0x180#11)
  | .udecline => some (packA 0x27#6 0 0 0 0x200#11)
  | .wfi => some (packA 0x27#6 0 0 0 0x280#11)
  | .mcap d a => some (packA 0x27#6 d a 0 0x300#11)
  | .csrrw d a n => some (packI 0x28#6 d a (0x0#4 ++ n))
  | .csrrs d a n => some (packI 0x28#6 d a (0x1#4 ++ n))
  | .csrrc d a n => some (packI 0x28#6 d a (0x2#4 ++ n))
  | .fadd d a b m => some (packA 0x29#6 d a b (m ++ 0x0#8))
  | .fsub d a b m => some (packA 0x29#6 d a b (m ++ 0x1#8))
  | .fmul d a b m => some (packA 0x29#6 d a b (m ++ 0x2#8))
  | .fdiv d a b m => some (packA 0x29#6 d a b (m ++ 0x3#8))
  | .fsqrt d a m => some (packA 0x29#6 d a 0 (m ++ 0x4#8))
  | .fmin d a b => some (packA 0x29#6 d a b 0x5#11)
  | .fmax d a b => some (packA 0x29#6 d a b 0x6#11)
  | .fminp d a b => some (packA 0x29#6 d a b 0x7#11)
  | .fmaxp d a b => some (packA 0x29#6 d a b 0x8#11)
  | .fsgnj d a b => some (packA 0x29#6 d a b 0x9#11)
  | .fsgnjn d a b => some (packA 0x29#6 d a b 0xA#11)
  | .fsgnjx d a b => some (packA 0x29#6 d a b 0xB#11)
  | .feq d a b => some (packA 0x29#6 d a b 0xC#11)
  | .flt d a b => some (packA 0x29#6 d a b 0xD#11)
  | .fle d a b => some (packA 0x29#6 d a b 0xE#11)
  | .fclass d a => some (packA 0x29#6 d a 0 0xF#11)
  | .fcvtWS d a m => some (packA 0x29#6 d a 0 (m ++ 0x10#8))
  | .fcvtWuS d a m => some (packA 0x29#6 d a 0 (m ++ 0x11#8))
  | .fcvtSW d a m => some (packA 0x29#6 d a 0 (m ++ 0x12#8))
  | .fcvtSWu d a m => some (packA 0x29#6 d a 0 (m ++ 0x13#8))
  | .fcvtSBh d a => some (packA 0x29#6 d a 0 0x14#11)
  | .fcvtBhS d a m => some (packA 0x29#6 d a 0 (m ++ 0x15#8))
  | .fcvtSHh d a => some (packA 0x29#6 d a 0 0x16#11)
  | .fcvtHhS d a m => some (packA 0x29#6 d a 0 (m ++ 0x17#8))
  | .fmvXS d a => some (packA 0x29#6 d a 0 0x18#11)
  | .fmvSX d a => some (packA 0x29#6 d a 0 0x19#11)
  | .fexp2 d a m => some (packA 0x29#6 d a 0 (m ++ 0x1A#8))
  | .flog2 d a m => some (packA 0x29#6 d a 0 (m ++ 0x1B#8))
  | .frcp d a m => some (packA 0x29#6 d a 0 (m ++ 0x1C#8))
  | .frsq d a m => some (packA 0x29#6 d a 0 (m ++ 0x1D#8))
  | .ftanh d a m => some (packA 0x29#6 d a 0 (m ++ 0x1E#8))
  | .fsigm d a m => some (packA 0x29#6 d a 0 (m ++ 0x1F#8))
  | .fma d a b c m => some (packA 0x2A#6 d a b (c ++ 0x0#2 ++ m ++ 0x0#1))
  | .fms d a b c m => some (packA 0x2A#6 d a b (c ++ 0x1#2 ++ m ++ 0x0#1))
  | .fnma d a b c m => some (packA 0x2A#6 d a b (c ++ 0x2#2 ++ m ++ 0x0#1))
  | .fnms d a b c m => some (packA 0x2A#6 d a b (c ++ 0x3#2 ++ m ++ 0x0#1))
  | .hadd2 d a b m => some (packA 0x2B#6 d a b (m ++ 0x0#8))
  | .hmul2 d a b m => some (packA 0x2B#6 d a b (m ++ 0x1#8))
  | .hfma2 d a b m => some (packA 0x2B#6 d a b (m ++ 0x2#8))
  | .hmax2 d a b => some (packA 0x2B#6 d a b 0x3#11)
  | .iaddF d a b => some (packA 0x2B#6 d a b 0x4#11)
  | .isubF d a b => some (packA 0x2B#6 d a b 0x5#11)
  | .iandF d a b => some (packA 0x2B#6 d a b 0x6#11)
  | .iorF d a b => some (packA 0x2B#6 d a b 0x7#11)
  | .ixorF d a b => some (packA 0x2B#6 d a b 0x8#11)
  | .isllF d a b => some (packA 0x2B#6 d a b 0x9#11)
  | .isrlF d a b => some (packA 0x2B#6 d a b 0xA#11)
  | .iselF d a b => some (packA 0x2B#6 d a b 0xB#11)
  | .icmpltF d a b => some (packA 0x2B#6 d a b 0xC#11)
  | .icmpeqF d a b => some (packA 0x2B#6 d a b 0xD#11)
  | .scfg d a b i => some (packA 0x2C#6 d a b (0x0#7 ++ i))
  | .smap d => some (packA 0x2C#6 d 0 0 0x20#11)
  | .sunmap d => some (packA 0x2C#6 d 0 0 0x40#11)
  | .vloop d a k => some (packA 0x2C#6 d a 0 (0x6#7 ++ k))
  | .vwait => some (packA 0x2C#6 0 0 0 0x80#11)
  | .sstat d a s => some (packA 0x2C#6 d a 0 (0xA#7 ++ s))
  | .mcfgStr d a b n => some (packA 0x2D#6 d a b (0x0#6 ++ bit n ++ 0x0#4))
  | .mcfgScl d a b n => some (packA 0x2D#6 d a b (0x0#6 ++ bit n ++ 0x1#4))
  | .mldw d a b n => some (packA 0x2D#6 d a b (0x1#6 ++ bit n ++ 0x0#4))
  | .mswap d n => some (packA 0x2D#6 d 0 0 (0x2#6 ++ bit n ++ 0x0#4))
  | .mstrm d a b n => some (packA 0x2D#6 d a b (0x3#6 ++ bit n ++ 0x0#4))
  | .mstrmH d a b n => some (packA 0x2D#6 d a b (0x3#6 ++ bit n ++ 0x1#4))
  | .mdrn d a b n i z => some (packA 0x2D#6 d a b (0x4#6 ++ bit n ++ 0x0#2 ++ bit i ++ bit z))
  | .mzero d b n => some (packA 0x2D#6 d 0 b (0x5#6 ++ bit n ++ 0x0#4))
  | .mwait => some (packA 0x2D#6 0 0 0 0xC0#11)
  | .mcmd d a b => some (packA 0x2D#6 d a b 0xE0#11)
  | .mstat d s => some (packA 0x2D#6 d 0 0 (0x20#8 ++ s))
  | .ccfg a b i => some (packA 0x2E#6 0 a b (0x0#9 ++ i))
  | .ccopy d a b n h s m => some (packA 0x2E#6 d a b (0x1#6 ++ bit n ++ bit h ++ bit s ++ m))
  | .cgath d a b n h m => some (packA 0x2E#6 d a b (0x2#6 ++ bit n ++ bit h ++ 0x0#2 ++ bit m))
  | .cwait => some (packA 0x2E#6 0 0 0 0x60#11)
  | .cbCfg d a b => some (packA 0x2E#6 d a b 0x80#11)
  | .cbWaitf d a b => some (packA 0x2E#6 d a b 0xA0#11)
  | .cbWaite d a b => some (packA 0x2E#6 d a b 0xC0#11)
  | .cbAdvp a b => some (packA 0x2E#6 0 a b 0xE0#11)
  | .cbAdvc a b => some (packA 0x2E#6 0 a b 0x100#11)
  | .cbRadv a b => some (packA 0x2E#6 0 a b 0x120#11)
  | .pcfg a b g => some (packA 0x2F#6 0 a b (0x0#10 ++ bit g))
  | .pfetch d a b => some (packA 0x2F#6 d a b 0x20#11)
  | .confirm d a n => some (packA 0x2F#6 d a 0 (0x2#6 ++ bit n ++ 0x0#4))
  | .cancel d => some (packA 0x2F#6 d 0 0 0x60#11)
  | .pwait d => some (packA 0x2F#6 d 0 0 0x80#11)
  | .pread d a s => some (packA 0x2F#6 d a 0 (0x50#10 ++ bit s))
  | .preadEnt d a => some (packA 0x2F#6 d a 0 0xA2#11)
  | .ptrainSet a b => some (packA 0x2F#6 0 a b 0xC0#11)
  | .ptrainInv a => some (packA 0x2F#6 0 a 0 0xC1#11)
  | .eclr d => some (packA 0x30#6 d 0 0 0x0#11)
  | .eins d a b => some (packA 0x30#6 d a b 0x20#11)
  | .eld d a => some (packA 0x30#6 d a 0 0x40#11)
  | .est d a => some (packA 0x30#6 d a 0 0x60#11)
  | .emax d a b => some (packA 0x30#6 d a b 0x80#11)
  | .esum d a b => some (packA 0x30#6 d a b 0xA0#11)
  | .eicv d a b => some (packA 0x30#6 d a b 0xC0#11)
  | .ecnj d a => some (packA 0x30#6 d a 0 0xE0#11)
  | .eeval d a b s => some (packA 0x30#6 d a b (0x40#9 ++ s))
  | .eshf d a b => some (packA 0x30#6 d a b 0x120#11)
  | .ecnt d a => some (packA 0x30#6 d a 0 0x140#11)
  | .edomClip d a b => some (packA 0x30#6 d a b 0x160#11)
  | .edomLo d a => some (packA 0x30#6 d a 0 0x161#11)
  | .edomHi d a => some (packA 0x30#6 d a 0 0x162#11)
  | .lease d a b l => some (packA 0x31#6 d a b (0x0#10 ++ bit l))
  | .lrel a b => some (packA 0x31#6 0 a b 0x20#11)
  | .lqry d a w => some (packA 0x31#6 d a 0 (0x20#10 ++ bit w))
  | .lfloor a b => some (packA 0x31#6 0 a b 0x60#11)
  | .stewardEscalationEntry | .engineFaultReport | .refusalReport | .completionInterrupt
  | .messageArrivalInterrupt | .preEmptionEntry | .phaseAbortInterrupt | .debugHalt | .machineCheck
  | .dctlKill _ | .dctlUret _ | .dctlGo _ | .pointDispatch | .phaseClosure _ | .launchCompletion _
  | .phaseWatchdogExpiry | .precActRollback | .precActKill | .precActTimeout | .phaseRollback _
  | .vectorLoopComplete | .matrixCommandStart | .matrixCommandComplete | .remoteMatrixCommand
  | .copyCommandStart | .copyCommandComplete | .copyPieceTimeout _ | .remoteHandleAdvance | .memoryCoreRequest
  | .movementPlanLoad _ | .movementPlanStore _ | .pageWalkComplete | .predictorLookup | .trainingUpdate
  | .exposureSwap _ | .trueFetchComplete _ | .speculativeFetchComplete _ | .speculativeRequestDrop _
  | .messageArrival | .ringHoldTimeout | .remoteLoadRequest | .remoteStoreRequest | .atomicRequest
  | .remoteReply | .nackRetry _ | .slotTimeout _ | .rftakeLoad _ | .rfttakeLoad _ | .rfputStore _
  | .remoteTakeRequest | .remoteTtakeRequest | .remotePutRequest | .queuedNotice | .remoteEvsigRequest
  | .barwLoad _ _ | .grpwLoad _ _ | .evwLoad _ _ | .evwStore _ | .mxwLoad _ _ | .mxwStore _ | .evstatRead _ _
  | .qwrWrite _ _ _ | .packetEnqueue _ _ | .qctlWrite _ _ _ | .qundRead _ _ | .distributorSelection _
  | .residencyExpiry _ | .placement _ | .launchStart _ | .contextSave | .contextBlockWrite | .clusterBlockSave _
  | .launchResume _ | .clownOwnerWrite _ _ | .clusterPreparationDone _ | .ingrWrite _ _ _ | .fqrespRetry _ _
  | .fqrespFail _ _ | .atcinvWrite _ _ | .atcInvalidationDone _ | .leaseRequest _ _ _ _ _ | .leaseGrant
  | .drainGraceExpiry _ | .leaseRelease _ | .floorChange _ _ | .peerLeave _ | .domainBringup _ | .linkFlit _ _ _
  | .laneRetire _ _ _ | .flowletGapExpiry _ _ | .fieldTestPoint _ _ _ _ | .tamperInput | .alarmWindowExpiry
  | .almstatRead | .fuseDecommission | .qtctlGo | .qtnonceWrite _ _ | .quoteDone | .sidebandQuoteRequest _
  | .mctpRequest _ | .boundaryScan _ | .frstWarm _ | .coldReset | .warmReset | .vfFunctionLevelReset _ | .boot _
  | .configRequest _ | .rmctlGo _ | .recoverySubmitDone _ | .throttleDownStep _ | .throttleUpStep _
  | .overtempFatal | .checkpointSave _ | .checkpointRestore _ | .checkpointDone _ | .ckrxWrite _
  | .registerWrite _ _ _ _ | .provisioning | .fqtailWrite _ _ | .revokeNotice _ _ _ | .trueFetchTimeout _
  | .postedWrite _ _ _ _ => none

/-- The word of an instruction as a trap reports it (R130): its encoding. A device step never reports a word. -/
def wordOf (i : Instr) : Word := (encode i).getD 0

/-- The host's view of the decoder: an instruction is one 32-bit word, numbered as the table numbers it (R44). -/
def decodeTableWord (_nbits w : Nat) : Option Instr := (decode (BitVec.ofNat 32 w)).toOption

end Sys2Proof
end

