-- ==== Sys2Proof/Machine/State.lean ====
section
/-!
DEFINITION. The state of one package, as plain data, and its value after a cold reset.

One core is in focus (`State.core`): it issues. The other cores and cluster units of the package stand in
`State.others` and `State.units`; one that is not listed is as reset leaves it. INVENTORY.md gives the rule
and the reset value of every field.
-/

namespace Sys2Proof.Machine

/-- Bytes by address: addresses strictly rising, no entry equal to 0, which is what an unlisted address
reads as (log 3). `Memory.wf` in `Machine/Ops.lean` says so. -/
abbrev Memory := List Host.Cell

/-- Privilege (R33). -/
inductive Mode where
  | user | supervisor
  deriving DecidableEq, Repr

/-- The loop state of R108. -/
structure LoopState where
  active : Bool
  start : Word
  last : Word
  remaining : Word
  deriving DecidableEq, Repr

/-- One line of an envelope (R263). -/
structure EnvLine where
  s : Word
  c : Word
  tag : BitVec 16
  deriving DecidableEq, Repr

/-- An envelope register (R263); its count is the number of lines. -/
structure Envelope where
  lo : Word
  hi : Word
  lines : List EnvLine
  deriving DecidableEq, Repr

/-- A circular-buffer handle (R233). -/
structure Handle where
  cfg : Bool
  base : Word
  size : Nat
  count : Nat
  p : Nat
  c : Nat
  deriving DecidableEq, Repr

/-- The states of a prediction slot (R245), and the interval in which its lookup is undecided (R249). -/
inductive PState where
  | free | deciding | predicted | deferred | exposing | exposed
  deriving DecidableEq, Repr

/-- A prediction slot (R245 to R252). -/
structure PredSlot where
  state : PState
  key : Word
  base : DWord
  stride : Nat
  len : Nat
  dframe : Nat
  seq : BitVec 16
  pidx : BitVec 16
  conf : Nat
  tab : Bool
  hit : Bool
  drop : Bool
  held : Option Nat
  frames : List Nat
  filled : Bool
  tidx : BitVec 16
  notice : Bool
  thresh : Nat
  specOk : Bool
  deriving DecidableEq, Repr

/-- The prediction descriptor (R246). -/
structure PredDesc where
  base : DWord
  stride : Nat
  len : Nat
  deriving DecidableEq, Repr

/-- A valid way of the tag table (R188); rank 0 is the most recent (R378). -/
structure TagWay where
  set : Nat
  way : Nat
  tag : BitVec 26
  data : BitVec 30
  rank : Nat
  deriving DecidableEq, Repr

/-- An entry of the range-lock table (R185, R187), with the command or slot that holds it and its place in the
order of acceptance (R186). A range with `last < first` is empty. -/
structure Lock where
  write : Bool
  engine : BitVec 2
  first : Nat
  last : Nat
  owner : BitVec 16
  stamp : Nat
  deriving DecidableEq, Repr

/-- A take in the deferred list (R191): the core's own, or a remote request by its source and slot. -/
structure Waiter where
  addr : Nat
  src : Option (BitVec 21 × BitVec 5)
  deriving DecidableEq, Repr

/-- A stream descriptor (R195). -/
structure StreamDesc where
  base : Word
  ctl : Word
  count : Vector Word 4
  stride : Vector Word 4
  ibase : Word
  shift : Word
  deriving DecidableEq, Repr

/-- One of the six streams (R195 to R200). -/
structure Stream where
  desc : StreamDesc
  snap : StreamDesc
  pos : Nat
  mapped : Bool
  seq : BitVec 16
  fcode : BitVec 4
  faddr : Word
  deriving DecidableEq, Repr

/-- A pushed vector loop (R203). -/
structure SeqEntry where
  body : List Word
  left : Nat
  done : Nat
  rm : BitVec 3
  fz : Bool
  seq : BitVec 16
  /-- Pushed where the streams act: in user mode, with no user handler running (R202). -/
  streams : Bool
  deriving DecidableEq, Repr

/-- A plane of weights (R209): the format coded as MSTATUS.afmt (R223), one exponent per column, and 32 rows of 32 elements as a
context image holds them (R376): an integer sign-extended to 16 bits, or an aligned element (`alignElem`). -/
structure Plane where
  fmt : BitVec 3
  expo : List Word
  rows : List (List (BitVec 16))
  deriving DecidableEq, Repr

/-- An accumulator row that is not empty: kind, pairing class and 32 cells. An integer cell is the Trimod
word of R87; a float cell holds its FP32 bits in bits 31:0 (R226). -/
structure AccRow where
  row : Nat
  float : Bool
  cls : BitVec 3
  cells : List DWord
  deriving DecidableEq, Repr

/-- A queued matrix command, as R376 saves it; `verdict` is the fault code its checks found. -/
structure MCmd where
  word : Word
  opa : Word
  opb : Word
  seq : BitVec 16
  notice : Bool
  remote : Bool
  next : Nat
  started : Bool
  verdict : Option (BitVec 8)
  deriving DecidableEq, Repr

/-- The matrix engine (R209). -/
structure Matrix where
  active : Plane
  shadow : Plane
  acc : List AccRow
  astr : Word
  dstr : Word
  rscl : Word
  cscl : Word
  queue : List MCmd
  next : BitVec 16
  done : BitVec 16
  flags : BitVec 5
  fault : Word
  /-- The side accepted last: a remote command, or one of the core itself; at launch start the next is a local one (R360). -/
  lastRemote : Bool
  deriving DecidableEq, Repr

/-- The copy descriptor (R228): the items as written. -/
structure CopyDesc where
  rowlen : Word
  counts : Word
  sstr1 : Word
  sstr2 : Word
  dstr1 : Word
  dstr2 : Word
  far : DWord
  deriving DecidableEq, Repr

/-- A queued copy command with its captured descriptor (R229); `user`: it was issued in user mode (R231). -/
structure CCmd where
  word : Word
  opa : Word
  opb : Word
  seq : BitVec 16
  notice : Bool
  desc : CopyDesc
  next : Nat
  started : Bool
  verdict : Option (BitVec 8)
  user : Bool
  deriving DecidableEq, Repr

/-- How a far row of a copy command ended: its bytes, a fault code, or a non-replayable translation fault (R232). -/
inductive RowEnd where
  | bytes (l : List Byte)
  | code (n : Nat)
  | xlate (va : Nat)
  deriving DecidableEq, Repr

/-- The copy engine (R228 to R240). -/
structure CopyEng where
  desc : CopyDesc
  queue : List CCmd
  next : BitVec 16
  done : BitVec 16
  fault : Word
  /-- On the follower of a pair: how the far rows of its leader ended, by row, that its own engine has yet to move (R168). -/
  got : List (Nat × RowEnd)
  deriving DecidableEq, Repr

/-- What a remote-request slot was taken for (R292); `amoAcq` is a no-return atomic with acquire order, for which
later accesses wait (R305). -/
inductive ReqKind where
  | rload | rstore | amo | amoNr | amoAcq | msend | mcmd | radv | take | ttake | put | evsig | lease
  deriving DecidableEq, Repr

/-- What comes back to a slot: data, an acknowledgement, a refusal with its subcode (R130), or a non-replayable translation
fault with bits 40:9 of its address (R130, R368). -/
inductive Reply where
  | data (v : DWord)
  | ack
  | nack (sub : BitVec 4)
  | vfault (va : Word)
  deriving DecidableEq, Repr

/-- What the metadata of an HBM block makes its next read find (R422); `late` strikes the next atomic between its read
and its write (R412). -/
inductive MemErr where
  | clean | corrected | media | mac | macAmb | late
  deriving DecidableEq, Repr

/-- The metadata of a 64-byte HBM block (R405, R420); `mac` names the MAC key under which it was last written, by the package that
made the key and the number of its draw, or none where nothing has written the block (log 11). -/
structure BlockMeta where
  block : Nat
  poison : Bool
  tenant : BitVec 5
  gen : BitVec 3
  err : MemErr
  mac : Option (Nat × Nat)
  deriving DecidableEq, Repr

/-- The contents of a fabric packet. -/
inductive Body where
  /-- RLOAD of `z` bytes (R290). -/
  | load (a : DWord) (z : Nat)
  /-- RSTORE of `z` bytes (R291). -/
  | store (a : DWord) (z : Nat) (v : DWord)
  /-- Device-scope or system-scope AMO at its fabric address (R299). -/
  | amo (op : BitVec 4) (sys : Bool) (a : DWord) (v cmp : Word)
  /-- The same after translation of `va` by the memory core or gateway `via`, on its way to its home slice (R293, R369). -/
  | amoPhys (via : BitVec 21) (op : BitVec 4) (sys : Bool) (va pa : Nat) (v cmp : Word)
  /-- A piece that a copy engine or a fetch of another package reads or writes (R24, R230, R246). -/
  | read (a : DWord) (n : Nat)
  | write (a : DWord) (bs : List Byte)
  /-- A piece that a prediction of another package reads (R255). -/
  | specRead (a : DWord) (n : Nat)
  /-- A piece of HBM after translation of `va` by the gateway `via` (R369). -/
  | readPhys (via : BitVec 21) (va pa n : Nat)
  | writePhys (via : BitVec 21) (va pa : Nat) (bs : List Byte)
  /-- Remote full/empty requests (R308). -/
  | take (a : DWord)
  | ttake (a : DWord) (sentinel : Word)
  | put (a : DWord) (v : Word)
  /-- A message as sent (R281). -/
  | msg (hdr : DWord) (payload : List Byte)
  /-- A remote matrix command (R224). -/
  | mcmd (cap : DWord) (word opa opb : Word)
  /-- CB.RADV (R236). -/
  | radv (h : BitVec 3) (side : Bool) (n : Word)
  /-- A remote EVSIG (R314). -/
  | evsig (rank : Nat) (n : BitVec 5)
  /-- A reply or acknowledgement (R290). -/
  | reply (r : Reply)
  /-- The bytes of a piece read, and how a piece ends otherwise (R231, R232). -/
  | pieceData (l : List Byte)
  | pieceDone (a : DWord) (r : Reply)
  /-- The queued notice of R309. -/
  | queued
  /-- A lease request, its answer, a release and a revoke notice between packages (R391, R392). -/
  | leaseReq (e : BitVec 6) (g : BitVec 8) (n : Nat) (all : Bool) (mask : BitVec 256)
  | leaseAns (e : BitVec 6) (g : BitVec 8) (granted : List Nat) (reason : BitVec 3)
  | leaseRel (bundles : List Nat)
  | revoke (e : BitVec 6) (g : BitVec 8) (b : Nat)
  /-- The base bundles that a receiver gives its peer (R386, R395; log 18). -/
  | baseNotice (bundles : List Nat)
  /-- A block of a checkpoint image with its metadata, and the request for one (R440). -/
  | ckBlock (pa : Nat) (bs : List Byte) (m : BlockMeta)
  | ckFetch (pa : Nat)
  /-- What the checkpoint engine of this package sends for one GiB, block by block: its blocks, or the requests for them. Their contents stand
  in the image (R440, log 12). -/
  | ckGib (g : Nat) (fetch : Bool)
  deriving DecidableEq, Repr

/-- A packet on the fabric (R26, R387). -/
structure Packet where
  src : BitVec 21
  dst : BitVec 21
  tenant : BitVec 5
  slot : BitVec 5
  body : Body
  deriving DecidableEq, Repr

/-- A remote-request slot (R292): what it was taken for, the packet sent, its reply, and whether the
2^20-cycle limit applies (R309, R394). -/
structure Slot where
  kind : ReqKind
  packet : Packet
  reply : Option Reply
  timed : Bool
  deriving DecidableEq, Repr

/-- A message at its receiver: the delivered header (R281), the payload, and whether its sender is a
member of the gang (R298). -/
structure Msg where
  hdr : DWord
  payload : List Byte
  member : Bool
  deriving DecidableEq, Repr

/-- An arrival that waits at a network interface by backpressure (R286); `ack` is false for the copy that a
paired follower receives, and for a message that a save had accepted (R298). One that was accepted in an earlier phase, or for a sender
outside the gang, is `kept`: no rollback discards it. -/
structure Held where
  packet : Packet
  ack : Bool
  kept : Bool
  deriving DecidableEq, Repr

/-- The network interface (R280 to R292). -/
structure NetIf where
  buf : Memory
  slots : Vector (Option Slot) 32
  /-- The slots in use, oldest request first (R294). -/
  order : List Nat
  /-- The slot that the instruction in progress has taken and not yet sent from (R283, R292). -/
  reserved : Option Nat
  sent : BitVec 16
  wr : Nat
  rd : Nat
  heldFlag : Bool
  ovf : Bool
  /-- Base and size that the ring had when MRCFG.en was last cleared, as MRCFG holds them (R39). -/
  ringCfg : Word
  held : List Held
  /-- The messages of the overflow area, oldest first, and the unit of the area at which the oldest begins (R286). -/
  overflow : List Msg
  ovfAt : Nat
  /-- Units of the overflow area freed by drains and not yet reusable (R298). -/
  ovfFreed : Nat
  spill : List Msg
  rfaLo : Word
  rfaHi : Word
  rfsent : Word
  deriving DecidableEq, Repr

/-- The control and status registers of one core (R37, R41), each a word; FCSR.flags and every other field
lie where the map puts them. Registers whose fields live elsewhere (MRSTAT, COREID, SCTXFRAMES, CYCLE,
LBUDGET) are composed when they are read. -/
structure Csrs where
  fcsr : Word
  pthresh : Word
  etol : Word
  ectl : Word
  estat : Word
  mrcfg : Word
  cfgerr : Bool
  cycleh : Word
  instret : Word
  phase : Word
  ganginfo : Word
  utvec : Word
  ucause : Word
  uval : Word
  uepc : Word
  ustatus : Word
  uie : Word
  uip : Word
  sstatus : Word
  stvec : Word
  scause : Word
  sval : Word
  sepc : Word
  sie : Word
  sip : Word
  sctx : Word
  sscratch : Word
  spshare : Word
  svweight : Word
  sjournal : Word
  ctxsaved : Bool
  sdbg : Word
  mcstat : Word
  mcbank : Word
  mcsynd : Word
  mcaddr : Word
  deriving DecidableEq, Repr

/-- A machine check that waits for its boundary (R128, R415): the report it will leave. -/
structure MCheck where
  src : BitVec 8
  uc : Bool
  addrv : Bool
  bank : Word
  synd : Word
  addr : Word
  deriving DecidableEq, Repr

/-- An engine fault that waits for its boundary (R129): cause and trap value, the prediction slot that its delivery frees (R251), and
the sequence number of the command, where it was one (R130). -/
structure Report where
  cause : Nat
  value : Word
  slot : Option (BitVec 3)
  seq : Option (BitVec 16)
  deriving DecidableEq, Repr

/-- One journalled line (R407): its first W0 byte, its 256 bytes, and which of its words were empty. -/
structure JLine where
  line : Nat
  bytes : List Byte
  empty : List Nat
  deriving DecidableEq, Repr

/-- The phase journal and the phase-start snapshot of a core (R32, R407). -/
structure Journal where
  lines : List JLine
  hnd : Vector Handle 8
  csr : Csrs
  wr : Nat
  rd : Nat
  ringCfg : Word
  overflow : List Msg
  ovfAt : Nat
  deriving DecidableEq, Repr

/-- A running point: its coordinates and its line (R152). -/
structure Point where
  c0 : BitVec 16
  c1 : BitVec 16
  c2 : BitVec 16
  c3 : BitVec 16
  line : Nat
  deriving DecidableEq, Repr

/-- An instruction of the leader that a follower has yet to execute (R165): its address, its word (none where the
leader left its stream at a boundary), where the leader went on, the registers `rd` and `rd + 1` that it left, the
trap or interrupt by which it left (R167), the direction of a conditional branch, and whether it looped back (R110). -/
structure LagEntry where
  pc : Word
  word : Option Word
  next : Word
  value : DWord
  trapped : Option (Nat × Word)
  taken : Option Bool
  looped : Bool
  deriving DecidableEq, Repr

/-- One core: compute core, steward or memory core by its endpoint identifier (R19). -/
structure Core where
  id : BitVec 21
  mode : Mode
  /-- DSTAT.why while halted (R136). -/
  halt : Option (BitVec 3)
  /-- The last issue waited (log 13). -/
  stalled : Bool
  point : Option Point
  x : Vector Word 32
  f : Vector Word 32
  shadow : Vector Word 6
  pc : Word
  loop : LoopState
  loopUser : LoopState
  loopSup : LoopState
  csr : Csrs
  dpc : Word
  ecause : Word
  eval : Word
  decl : Bool
  /-- Its escalation waits for the steward (R135). -/
  escWaits : Bool
  /-- On a steward: an escalation was taken and no SRET has run since (R135). -/
  escServing : Bool
  stepDue : Bool
  /-- The engine command that the instruction of a single step with drain-on-step launched (R151): its engine (0 matrix, 1 copy,
  2 prediction slot, 3 sequencer) and its sequence or slot number. -/
  stepCmd : Option (BitVec 2 × BitVec 16)
  /-- The matrix sequence number that was next when the MWAIT or FENCE.E in progress was issued (R220, R328). -/
  waitMark : BitVec 16
  mcheck : Option MCheck
  reports : List Report
  refusals : List Word
  env : Vector Envelope 8
  hnd : Vector Handle 8
  slots : Vector PredSlot 8
  pdesc : PredDesc
  pseq : BitVec 16
  tags : List TagWay
  sp : Memory
  /-- W0 word indices whose full/empty bit is empty, rising (R190). -/
  empty : List Nat
  remap : Vector (BitVec 7) 64
  pool : Vector (BitVec 7) 8
  imem : Memory
  locks : Vector (Option Lock) 16
  deferred : List Waiter
  handed : Option Word
  streams : Vector Stream 6
  sseq : BitVec 16
  siter : Word
  seqs : List SeqEntry
  mx : Matrix
  cp : CopyEng
  ni : NetIf
  layouts : Vector DWord 8
  jrn : Journal
  /-- The resident handler of its pre-emption has come to the WFI that ends it (R379). -/
  handlerEnded : Bool
  /-- Its block of the context region has been written (R379). -/
  blockSaved : Bool
  /-- The quad-local number of the leader this core follows (R165). -/
  follow : Option (BitVec 2)
  /-- Its leader was inside an instruction when FOLLOW was granted: that instruction is no part of the stream (R165). -/
  followLate : Bool
  lag : List LagEntry
  sig : Word
  deriving DecidableEq, Repr

/-- A named barrier (R311). -/
structure Barrier where
  gen : Word
  members : BitVec 17
  arrived : BitVec 17
  deriving DecidableEq, Repr

/-- An event line (R310, R314): pending signals, overflow, mutex owner, and those who wait, oldest first. -/
structure EvLine where
  count : Nat
  ovf : Bool
  owner : Option Nat
  waiters : List Nat
  lockers : List Nat
  deriving DecidableEq, Repr

/-- A valid predictor entry (R243). -/
structure PredEntry where
  set : Nat
  way : Nat
  tag : BitVec 24
  idx : BitVec 16
  conf : Nat
  deriving DecidableEq, Repr

/-- A request that waits at the cluster unit's predictor table, in arrival order (R243): the lookup of a core's
slot, or a training update with key and true index. -/
inductive PredReq where
  | lookup (core : BitVec 21) (slot : BitVec 3)
  | train (key : Word) (index : BitVec 16)
  deriving DecidableEq, Repr

/-- A cluster unit (R12). -/
structure Cluster where
  id : Nat
  istore : Memory
  sync : Memory
  syncSnap : Memory
  bars : Vector Barrier 32
  barsSnap : Vector Barrier 32
  evs : Vector EvLine 32
  evsSnap : Vector EvLine 32
  pred : List PredEntry
  predq : List PredReq
  pwdog : Word
  /-- The watchdog limit of the current phase: PWDOG as the phase start found it (R162). -/
  limit : Word
  elapsed : Nat
  /-- PREC.why: the cause of the last phase abort (R409). -/
  why : BitVec 4
  ftctl : Word
  owner : BitVec 5
  ownBusy : Bool
  ownErr : Bool
  launch : Option Word
  key : Option (BitVec 128)
  withdrawn : Bool
  deriving DecidableEq, Repr

/-- The counter of one line in the frontier store (R157). -/
structure LineSt where
  line : Nat
  h : Nat
  hs : Nat
  hold : Bool
  deriving DecidableEq, Repr

/-- One cluster's part of a device group (R311). -/
structure GroupPart where
  rank : Nat
  members : BitVec 17
  arrived : BitVec 17
  deriving DecidableEq, Repr

/-- A device group (R311). -/
structure Group where
  gen : Word
  parts : List GroupPart
  deriving DecidableEq, Repr

/-- The fields of a launch packet (R350). -/
structure Packet64 where
  type : Nat
  acq : Bool
  rel : Bool
  replay : Bool
  pair : Bool
  spec : Bool
  prio : Nat
  place : Nat
  argsz : Nat
  gang : Nat
  cslot : Nat
  icount : Nat
  ndim : Nat
  nvec : Nat
  kimg : Nat
  /-- The extents e_i of the dimensions that exist (R152). -/
  ext : List Nat
  vecs : List (BitVec 19)
  args : Nat
  sig : Nat
  sval : Word
  succ : List Nat
  deriving DecidableEq, Repr

/-- Where a launch stands between its enqueue and its completion. -/
inductive Stage where
  /-- Enqueued, its counter not 0 or its fence not met (R353). -/
  | bound
  /-- Eligible, not placed (R353). -/
  | eligible
  /-- Placed; launch start is to run (R358). -/
  | placed
  /-- Running. -/
  | running
  /-- The watchdog fired; the steward of rank 0 is to write PREC.act (R409). -/
  | awaitAct
  /-- A phase abort that ends in a rollback is in progress (R410). -/
  | aborting
  /-- Pre-emption requested; cores are saving (R375). -/
  | preempting
  /-- Saved; it waits to resume (R359). -/
  | saved
  /-- The last phase closed; completion is to run (R356). -/
  | closed
  deriving DecidableEq, Repr

/-- A launch of the package (R349 to R359). -/
structure Launch where
  id : Word
  fn : BitVec 5
  queue : BitVec 4
  index : Nat
  pkt : Packet64
  stage : Stage
  gang : List Nat
  /-- The endpoints (local) of the placeable cores in placement order (R156). -/
  cores : List Nat
  phase : Word
  lines : List LineSt
  groups : Vector Group 16
  groupsSnap : Vector Group 16
  jframes : Nat
  eligAt : Nat
  placedAt : Nat
  why : BitVec 4
  tries : Nat
  /-- How many consumptions and mismatches of the phase a rollback has cleared, if its repeat closes (R403). -/
  cleared : Nat
  ureason : Nat
  /-- A pre-emption was requested during an abort: it is taken in the repeated phase (R409). -/
  preempt : Bool
  plan : Nat
  /-- The commit buffer filled: later writes of the phase go straight to HBM (R408 code 3). -/
  direct : Bool
  /-- The load entries of the current phase have run (R242). -/
  loaded : Bool
  /-- The store entries of the current phase have run (R242). -/
  stored : Bool
  entry : Word
  /-- QPWDOG as the placement step found it (R347, R358). -/
  pwdog : Word
  /-- The launch's span of the context region: 1 plus its offset, or 0 while it has none (R381). -/
  span : Nat
  /-- The launch key, which Flint keeps until the launch ends (R147, R382). -/
  key : BitVec 128
  /-- What a pre-empted core and cluster unit held at entry and at the save; a resume takes from here what the spec
  gives no place in the images (log 15). -/
  parked : List (Nat × Core)
  /-- Requests to its cores that wait for its resume while another launch holds its clusters (R309, R375). -/
  backlog : List Packet
  parkedUnits : List (Nat × Cluster)
  /-- The cores of its clusters that were retired already when it left them (R382). -/
  lost : List Nat
  deriving DecidableEq, Repr

/-- One of the sixteen user queues of a function (R347). -/
structure Queue where
  base : Nat
  en : Bool
  cie : Bool
  lsize : Nat
  pmax : Nat
  rd : BitVec 16
  wr : BitVec 16
  total : Nat
  rej : Bool
  und : Bool
  kill : Bool
  ovr : Bool
  sigf : Bool
  code : BitVec 8
  index : BitVec 16
  undCount : Nat
  pwdog : Word
  jrn : Nat
  deriving DecidableEq, Repr

/-- A fault record (R373), whether it is answered, the requests that wait on it, and the engines and units that wait
and ask again: kind, endpoint and number. An engine of a failed record stays until it has taken the failure. -/
structure FRec where
  slot : Nat
  va : Nat
  kind : BitVec 4
  why : BitVec 4
  src : BitVec 21
  launch : Word
  phase : Word
  waiters : Nat
  time : DWord
  answered : Bool
  reqs : List Packet
  asks : List (BitVec 4 × BitVec 21 × Nat)
  deriving DecidableEq, Repr

/-- A host function with its queues, counters and translation block (R346, R353, R371, R414). -/
structure HostFn where
  queues : Vector Queue 16
  counters : List (Nat × Nat)
  trootLo : Word
  trootHi : Word
  fqctl : Word
  fqhead : Nat
  fqtail : Nat
  records : List FRec
  /-- Replayable faults that wait because the queue is full (R374). -/
  fqwait : List FRec
  atcinvLo : Word
  atcinvHi : Word
  atcBusy : Bool
  /-- ATCINV.lo as the invalidation in progress found it (R372). -/
  atcTaken : Word
  ctxLo : Word
  ctxHi : Word
  ctxSize : Word
  tfatal : Word
  tflaunch : Word
  tfva : Word
  head : Option Word
  victims : List Word
  /-- The MSI-X table: address, data and control words of four vectors (log 22). -/
  msixTable : Vector Word 16
  deriving DecidableEq, Repr

/-- A byte held in a commit buffer until closure (R407). -/
structure HeldByte where
  launch : Word
  pa : Nat
  byte : Byte
  deriving DecidableEq, Repr

/-- An entry of a home slice's journal (R407), newest first. -/
structure SliceEnt where
  slice : Nat
  launch : Word
  pa : Nat
  old : Word
  deriving DecidableEq, Repr

/-- A piece that a copy engine or a plan entry of this package sent to another package (R231, R242): who sent it, for a plan entry its
launch, the address and the row of the piece, and how it ended, if it was not accepted. -/
structure Away where
  src : BitVec 21
  plan : Option Word
  addr : DWord
  row : Nat
  ended : Option RowEnd
  deriving DecidableEq, Repr

/-- A cached leaf translation (R370); `unit` is a memory core 0-767, or 768 + gateway. -/
structure AtcEnt where
  unit : Nat
  tenant : BitVec 5
  va : Nat
  bits : Nat
  pa : Nat
  w : Bool
  spec : Bool
  deriving DecidableEq, Repr

/-- A request that waits for a page walk (R370). -/
structure Walk where
  unit : Nat
  packet : Packet
  deriving DecidableEq, Repr

/-- A ticket of the lease unit (R395). -/
structure Ticket where
  tenant : BitVec 5
  idx : BitVec 6
  gen : BitVec 8
  peer : BitVec 6
  req : Nat
  granted : List Nat
  pend : Bool
  refused : Bool
  rev : Bool
  reason : BitVec 3
  /-- The transmit bundles that its request offered (R385). -/
  offer : BitVec 256
  deriving DecidableEq, Repr

/-- A receive bundle that is not free with all lanes live (R385, R398); a leased one names its ticket by entry and generation. -/
structure Bundle where
  idx : Nat
  state : BitVec 3
  peer : BitVec 6
  tenant : BitVec 5
  carried : BitVec 5
  ticket : BitVec 6
  gen : BitVec 8
  age : Nat
  rxlive : Nat
  txlive : Nat
  deriving DecidableEq, Repr

/-- A request at the lease unit (R391). -/
structure LeaseReq where
  peer : BitVec 6
  carried : BitVec 5
  e : BitVec 6
  g : BitVec 8
  n : Nat
  all : Bool
  mask : BitVec 256
  deriving DecidableEq, Repr

/-- A request whose bundles are chosen and not yet granted (R392). -/
structure Serving where
  req : LeaseReq
  tenant : BitVec 5
  got : List Nat
  deriving DecidableEq, Repr

/-- A receive lane (R389, R390): flits in its landing buffer, its hold bit, and the cycles of the resends of the last millisecond. -/
structure LaneSt where
  plane : Nat
  wave : Nat
  landed : Nat
  hold : Bool
  resends : List Nat
  deriving DecidableEq, Repr

/-- An ordered channel, or the flowlet of a relaxed flow, of a tenant on its transmit lane (R388). -/
structure Pin where
  src : BitVec 21
  dst : BitVec 21
  tenant : BitVec 5
  relaxed : Bool
  bundle : Nat
  wave : Nat
  deriving DecidableEq, Repr

/-- A link packet between packages (R387): its lane, 64 times the bundle plus the wavelength, while it has one, and how many of its
flits are still to come. -/
structure Flight where
  packet : Packet
  lane : Option Nat
  left : Nat
  deriving DecidableEq, Repr

/-- The lease unit and the gateways (R365, R366, R384 to R398). -/
structure LeaseUnit where
  tickets : List Ticket
  gens : List (Nat × BitVec 8)
  lbud : List (Nat × Nat)
  bundles : List Bundle
  floors : List (Nat × Nat)
  /-- The bundles taken by revocation for a raised floor, by peer: they become base bundles when they have drained (R395). -/
  raising : List (Nat × List Nat)
  /-- This package's transmit bundles that are base bundles of a peer (R386). -/
  paths : List (Nat × List Nat)
  pending : List LeaseReq
  serving : Option Serving
  /-- INGR entries: bit 5 is v, bits 4:0 the local tenant. -/
  ingress : List (Nat × BitVec 6)
  flowgap : List (Nat × Nat)
  lanes : List LaneSt
  pins : List Pin
  /-- Retired transmit lanes (R390), as 64 times the bundle plus the wavelength. -/
  dead : List Nat
  /-- Retired receive lanes, numbered in the same way. -/
  deadRx : List Nat
  domain : BitVec 64
  deriving DecidableEq, Repr

/-- The lifecycle of R426. -/
inductive Life where
  | manufacturing | provisioned | locked | awaiting | decommissioned
  deriving DecidableEq, Repr

/-- A checkpoint image (R439, R440): where it lies (a package, or none for host memory, and the address), what it holds,
and the generations and cold-reset count of its trailer. -/
structure CkImage where
  peer : Option (BitVec 6)
  addr : DWord
  hbm : Memory
  blocks : List BlockMeta
  gens : Vector (BitVec 3) 32
  cold : Nat
  deriving DecidableEq, Repr

/-- The two XTS keys and the MAC key of a tenant (R420), with the number of the draw that made them (log 11). -/
structure TenantKeys where
  xts1 : BitVec 256
  xts2 : BitVec 256
  mac : BitVec 256
  draw : Nat
  deriving DecidableEq, Repr

/-- A firmware image of the recovery mailbox (R427, R436): its length and its words that are not 0. -/
structure Firmware where
  len : Nat
  words : List (Nat × Word)
  deriving DecidableEq, Repr

/-- Flint: keys, alarm, firmware, quotes, recovery mailbox and checkpoint engine (R420 to R440). `request` is the nonce of the
quote in progress. -/
structure Flint where
  life : Life
  identity : Bool
  gens : Vector (BitVec 3) 32
  keys : Vector (Option TenantKeys) 32
  coldResets : Nat
  /-- The fused SHA-384 digests of the Kreord root keys, Ed25519 and ML-DSA-65 (R427). -/
  roots : Vector (BitVec 384) 2
  /-- The fused minimum security versions of the images, by slot (R427). -/
  minVersion : Vector Nat 5
  /-- The SHA-384 measurements of the loaded images, by slot (R427, R428). -/
  measures : Vector (BitVec 384) 5
  almctl : Word
  tamper : Bool
  level : BitVec 2
  count : Nat
  amb : Nat
  tcount : List (Nat × Nat)
  contained : List Nat
  qbusy : Bool
  qdone : Bool
  qerr : Bool
  nonce : Vector Word 8
  request : Vector Word 8
  lastNonce : Option (Vector Word 8)
  qbuf : List Word
  sideband : Bool
  rmslot : BitVec 3
  rmlen : Word
  rmbusy : Bool
  rmerr : Bool
  rmdone : Bool
  rmcode : BitVec 8
  rmbuf : List (Nat × Word)
  /-- The slot and image of the submission in progress (R436). -/
  rmsub : Nat × Firmware
  ckctl : Word
  /-- CKCTL as the operation in progress found it, with the image address it took. -/
  ckop : Word
  ckopAddr : DWord
  ckLo : Word
  ckHi : Word
  ckbusy : Bool
  ckerr : Bool
  ckdone : Bool
  ckcode : BitVec 8
  ckgib : BitVec 16
  ckrx : Word
  /-- What the save in progress has taken of HBM, GiB by GiB, and the metadata of its blocks (R440). -/
  ckHbm : Memory
  ckBlocks : List BlockMeta
  ckImages : List CkImage
  deriving DecidableEq, Repr

/-- The units of R419: kind, die, cluster, core and part. -/
structure UnitName where
  kind : BitVec 4
  die : BitVec 3
  cluster : BitVec 7
  core : BitVec 4
  sub : BitVec 6
  deriving DecidableEq, Repr

/-- A unit that a field-test record describes (R419). -/
structure FtRec where
  kind : BitVec 4
  state : BitVec 2
  die : BitVec 3
  cluster : BitVec 7
  core : BitVec 4
  sub : BitVec 6
  passes : Nat
  fails : Nat
  /-- Passes since the last failure (R417). -/
  streak : Nat
  at_ : Nat
  deriving DecidableEq, Repr

/-- The classes of R403. -/
inductive ErrClass where
  | correctable | nonFatal | fatal
  deriving DecidableEq, Repr

/-- Quartz and the host link (R403, R417, R419, R432 to R441). -/
structure Quartz where
  ready : Bool
  recov : Bool
  boot : Nat
  freq : Vector Nat 8
  /-- The dies whose islands are throttled (R438). -/
  throttled : List Nat
  fatal : Bool
  off : Bool
  log : List (ErrClass × BitVec 5)
  /-- The integrity failures that Quartz has logged, newest first: tenant, physical address, and whether ambiguous (R424). -/
  alarms : List (BitVec 5 × Nat × Bool)
  records : List FtRec
  retired : List Nat
  spared : List Nat
  /-- The MSI-X vectors raised, in order, and those that wait behind their mask bit (R433). -/
  msix : List (BitVec 5 × BitVec 2)
  msixPend : List (BitVec 5 × BitVec 2)
  /-- The images stored through the recovery mailbox, by slot (R436); another slot holds the image as delivered. -/
  images : List (Nat × Firmware)
  /-- The images that run: by slot, the stored image that was loaded, or none for the image as delivered (R435). -/
  loaded : List (Nat × Option Firmware)
  /-- The machine checks that Quartz has logged, newest first, with the core that took each (R415). -/
  checks : List (BitVec 21 × MCheck)
  /-- How many corrected errors each unit has had (R415). -/
  corrected : List (UnitName × Nat)
  replies : List Word
  hostRead : Word
  crs : Bool
  deriving DecidableEq, Repr

/-- The package. -/
structure State where
  core : Core
  others : List (Nat × Core)
  unit : Cluster
  units : List (Nat × Cluster)
  launches : List Launch
  fns : List (Nat × HostFn)
  hbm : Memory
  blocks : List BlockMeta
  commit : List HeldByte
  sliceJrn : List SliceEnt
  syncTab : List (Nat × Nat)
  atc : List AtcEnt
  walks : List Walk
  fabric : List Packet
  lightOut : List Flight
  lightIn : List Flight
  away : List Away
  lease : LeaseUnit
  flint : Flint
  quartz : Quartz
  cycle : DWord
  /-- Device steps that happen next, in order (log 5). -/
  inputs : List Instr
  /-- Endpoints whose turn to be in focus comes next (log 5). -/
  schedule : List Nat
  /-- The counter of free values (log 7). -/
  free : Nat
  deriving DecidableEq, Repr

/-- Why the machine stops. -/
inductive Fault where
  /-- Raised by `step` when Quartz has powered off every island (R438) and no input is due. Safe: nothing
  of the device runs from there until a reset arrives as an input. -/
  | poweredOff
  deriving DecidableEq, Repr

/-- Why an instruction has no meaning. -/
inductive Refusal where
  /-- Raised by an arm of `exec` whose instruction is not modelled yet. Safe: no next state is claimed. -/
  | notModelled (mnemonic : String)
  deriving DecidableEq, Repr

/-! ## Values after a cold reset -/

/-- An inactive loop (R109). -/
def LoopState.reset : LoopState := ⟨false, 0, 0, 0⟩

/-- The empty envelope on -inf..+inf (R263). -/
def Envelope.reset : Envelope := ⟨0x80000000, 0x7FFFFFFF, []⟩

/-- An unconfigured handle (R233). -/
def Handle.reset : Handle := ⟨false, 0, 0, 0, 0, 0⟩

/-- A free slot (R245). -/
def PredSlot.reset : PredSlot :=
  { state := .free, key := 0, base := 0, stride := 0, len := 0, dframe := 0, seq := 0, pidx := 0, conf := 0,
    tab := false, hit := false, drop := false, held := none, frames := [], filled := false, tidx := 0,
    notice := false, thresh := 0, specOk := false }

/-- A cleared stream descriptor (R195). -/
def StreamDesc.reset : StreamDesc := ⟨0, 0, .replicate 4 0, .replicate 4 0, 0, 0⟩

/-- An unmapped stream (R195). -/
def Stream.reset : Stream := ⟨.reset, .reset, 0, false, 0, 0, 0⟩

/-- An empty plane (R209). -/
def Plane.reset : Plane := ⟨0, [], []⟩

/-- The matrix engine at launch start (R209, R223). -/
def Matrix.reset : Matrix := ⟨.reset, .reset, [], 0, 0, 1, 1, [], 0, 0xFFFF, 0, 0, true⟩

/-- A cleared copy descriptor (R228). -/
def CopyDesc.reset : CopyDesc := ⟨0, 0, 0, 0, 0, 0, 0⟩

/-- The copy engine at launch start (R228, R238). -/
def CopyEng.reset : CopyEng := ⟨.reset, [], 0, 0xFFFF, 0, []⟩

/-- The network interface (R280, R310). -/
def NetIf.reset : NetIf :=
  { buf := [], slots := .replicate 32 none, order := [], reserved := none, sent := 0, wr := 0, rd := 0, heldFlag := false,
    ovf := false, ringCfg := 0, held := [], overflow := [], ovfAt := 0, ovfFreed := 0, spill := [], rfaLo := 0, rfaHi := 0, rfsent := 0 }

/-- The CSRs at their Reset column (R37, R41). -/
def Csrs.reset : Csrs :=
  { fcsr := 0, pthresh := 4, etol := 0, ectl := 128, estat := 0, mrcfg := 0, cfgerr := false, cycleh := 0,
    instret := 0, phase := 0, ganginfo := 0, utvec := 0, ucause := 0, uval := 0, uepc := 0, ustatus := 0,
    uie := 0, uip := 0, sstatus := 0, stvec := 0, scause := 0, sval := 0, sepc := 0, sie := 0, sip := 0,
    sctx := 0, sscratch := 0, spshare := 4, svweight := 8, sjournal := 0, ctxsaved := false, sdbg := 0,
    mcstat := 0, mcbank := 0, mcsynd := 0, mcaddr := 0 }

/-- An empty journal. -/
def Journal.reset : Journal := ⟨[], .replicate 8 .reset, .reset, 0, 0, 0, [], 0⟩

/-- The identity remap table (R177, R178). -/
def remapReset : Vector (BitVec 7) 64 := Vector.ofFn fun i => BitVec.ofNat 7 i.val
/-- The quarantine pool (R177, R178). -/
def poolReset : Vector (BitVec 7) 8 := Vector.ofFn fun j => BitVec.ofNat 7 (64 + j.val)

/-- Compute cores have local endpoints below 0x4000 (R19); only they have a user mode (R33). -/
def resetMode (id : BitVec 21) : Mode := if id.toNat % 0x8000 < 0x4000 then .user else .supervisor

/-- A core after a cold reset. -/
def Core.reset (id : BitVec 21) : Core :=
  { id := id, mode := resetMode id, halt := none, stalled := false, point := none, x := .replicate 32 0,
    f := .replicate 32 0, shadow := .replicate 6 0, pc := 0, loop := .reset, loopUser := .reset,
    loopSup := .reset, csr := .reset, dpc := 0, ecause := 0, eval := 0, decl := false, escWaits := false, escServing := false, stepDue := false,
    stepCmd := none, waitMark := 0,
    mcheck := none, reports := [], refusals := [], env := .replicate 8 .reset, hnd := .replicate 8 .reset,
    slots := .replicate 8 .reset, pdesc := ⟨0, 0, 0⟩, pseq := 0, tags := [], sp := [], empty := [],
    remap := remapReset, pool := poolReset, imem := [], locks := .replicate 16 none, deferred := [],
    handed := none, streams := .replicate 6 .reset, sseq := 0, siter := 0, seqs := [], mx := .reset,
    cp := .reset, ni := .reset, layouts := .replicate 8 0, jrn := .reset, handlerEnded := false, blockSaved := false, follow := none,
    followLate := false, lag := [], sig := 0 }

/-- A barrier at launch start (R312). -/
def Barrier.reset : Barrier := ⟨0, 0, 0⟩
/-- An event line with no signal and a free mutex. -/
def EvLine.reset : EvLine := ⟨0, false, none, [], []⟩
/-- A device group with no part. -/
def Group.reset : Group := ⟨0, []⟩

/-- A cluster unit after a cold reset (R162, R366, R418). -/
def Cluster.reset (id : Nat) : Cluster :=
  { id := id, istore := [], sync := [], syncSnap := [], bars := .replicate 32 .reset,
    barsSnap := .replicate 32 .reset, evs := .replicate 32 .reset, evsSnap := .replicate 32 .reset, pred := [],
    predq := [], pwdog := 0, limit := 0, elapsed := 0, why := 0, ftctl := 0x80000010, owner := 0, ownBusy := false,
    ownErr := false, launch := none, key := none, withdrawn := false }

/-- A disabled queue (R347). -/
def Queue.reset : Queue :=
  { base := 0, en := false, cie := false, lsize := 4, pmax := 7, rd := 0, wr := 0, total := 0, rej := false,
    und := false, kill := false, ovr := false, sigf := false, code := 0, index := 0, undCount := 0, pwdog := 0,
    jrn := 0 }

/-- A function after a function-level reset (R353, R434). -/
def HostFn.reset : HostFn :=
  { queues := .replicate 16 .reset, counters := [], trootLo := 0, trootHi := 0, fqctl := 0, fqhead := 0,
    fqtail := 0, records := [], fqwait := [], atcinvLo := 0, atcinvHi := 0, atcBusy := false, atcTaken := 0, ctxLo := 0,
    ctxHi := 0, ctxSize := 0, tfatal := 0, tflaunch := 0, tfva := 0, head := none, victims := [],
    msixTable := Vector.ofFn fun i => if i.val % 4 = 3 then 1 else 0 }

/-- The lease unit before domain bring-up (log 18). -/
def LeaseUnit.reset : LeaseUnit :=
  { tickets := [], gens := [], lbud := [], bundles := [], floors := [], pending := [], serving := none,
    ingress := [], flowgap := [], lanes := [], pins := [], dead := [], deadRx := [], raising := [], paths := [], domain := 1 }

/-- New keys of tenant `t` (R420, R421): free values of draw `n` (log 11). -/
def newKey (n t : Nat) : TenantKeys := ⟨Config.tenantKey n (3 * t), Config.tenantKey n (3 * t + 1), Config.tenantKey n (3 * t + 2), n⟩
/-- New keys of every tenant. -/
def newKeys (n : Nat) : Vector (Option TenantKeys) 32 := Vector.ofFn fun t => some (newKey n t.val)

/-- Flint after the cold reset of a provisioned device (log 19). -/
def Flint.reset : Flint :=
  { life := .provisioned, identity := true, gens := .replicate 32 0, keys := newKeys 0, coldResets := 1,
    roots := .replicate 2 0, minVersion := .replicate 5 0, measures := .replicate 5 0,
    almctl := 0x3C001004, tamper := false, level := 0, count := 0, amb := 0, tcount := [], contained := [],
    qbusy := false, qdone := false, qerr := false, nonce := .replicate 8 0, request := .replicate 8 0, lastNonce := none, qbuf := [],
    sideband := false, rmslot := 0, rmlen := 0, rmbusy := false, rmerr := false, rmdone := false, rmcode := 0,
    rmbuf := [], rmsub := (0, ⟨0, []⟩), ckctl := 0, ckop := 0, ckopAddr := 0, ckLo := 0, ckHi := 0, ckbusy := false, ckerr := false, ckdone := false,
    ckcode := 0, ckgib := 0, ckrx := 0, ckHbm := [], ckBlocks := [], ckImages := [] }

/-- Quartz before the boot (R435); every island is at 425 MHz once step 1 has run. -/
def Quartz.reset : Quartz :=
  { ready := false, recov := false, boot := 0, freq := .replicate 8 850, throttled := [], fatal := false, off := false,
    log := [], alarms := [], records := [], retired := [], spared := [], msix := [], msixPend := [], images := [], loaded := [], checks := [], corrected := [], replies := [],
    hostRead := 0, crs := false }

/-- The package right after a cold reset, with compute core 0 of cluster 0 of die 0 in focus (log 1). -/
def State.reset : State :=
  { core := .reset 0, others := [], unit := .reset 0, units := [], launches := [], fns := [], hbm := [],
    blocks := [], commit := [], sliceJrn := [], syncTab := [], atc := [], walks := [], fabric := [],
    lightOut := [], lightIn := [], away := [], lease := .reset, flint := .reset, quartz := .reset, cycle := 0, inputs := [],
    schedule := [], free := 0 }

end Sys2Proof.Machine
end

