-- ==== Sys2Proof/Machine/Ops.lean ====
section
/-!
DEFINITION. The named operations over registers and memory that every meaning is written with, and the two
that every trap goes through: `raise` takes an exception (R129 to R135, R138) and `perform` runs the body of an
instruction, checks that it decodes here, and retires it, traps or waits.
-/

namespace Sys2Proof.Machine

/-! ## Bits and lists -/

/-- Bits `lo + len - 1 : lo` of `w` replaced by `v`. -/
def setField (w : Word) (lo len v : Nat) : Word :=
  let mask : Word := BitVec.ofNat 32 ((2 ^ len - 1) * 2 ^ lo)
  (w &&& ~~~mask) ||| (BitVec.ofNat 32 (v * 2 ^ lo) &&& mask)

/-- Bit `i` of `w` replaced by `b`. -/
def setBit (w : Word) (i : Nat) (b : Bool) : Word := setField w i 1 b.toNat

/-- `sext(v, n)` of the spec: the low `n` bits of a word, sign-extended. -/
def sextWord (v : Word) (n : Nat) : Word := (v <<< (32 - n)).sshiftRight (32 - n)

/-- The value at key `k` of an association list. -/
def assocGet {α : Type} : List (Nat × α) → Nat → Option α
  | [], _ => none
  | (j, a) :: l, k => if j = k then some a else assocGet l k

/-- The list with `a` at key `k`, keys rising. -/
def assocSet {α : Type} : List (Nat × α) → Nat → α → List (Nat × α)
  | [], k, a => [(k, a)]
  | (j, b) :: l, k, a =>
    if k < j then (k, a) :: (j, b) :: l else if j = k then (k, a) :: l else (j, b) :: assocSet l k a

/-- The list without key `k`. -/
def assocErase {α : Type} (l : List (Nat × α)) (k : Nat) : List (Nat × α) := l.filter (fun e => e.1 != k)

/-- A number put into a rising list once. -/
def insertNat : List Nat → Nat → List Nat
  | [], n => [n]
  | m :: l, n => if n < m then n :: m :: l else if n = m then m :: l else m :: insertNat l n

/-- The list with the first element that `p` picks changed by `f`. -/
def updateFirst {α : Type} (p : α → Bool) (f : α → α) : List α → List α
  | [] => []
  | a :: l => if p a then f a :: l else a :: updateFirst p f l

/-- The list without the first element that `p` picks. -/
def removeFirst {α : Type} (p : α → Bool) : List α → List α
  | [] => []
  | a :: l => if p a then l else a :: removeFirst p l

/-- Every element of a vector changed by `f`. -/
def vmap {α : Type} {n : Nat} (f : α → α) (v : Vector α n) : Vector α n := Vector.ofFn fun i => f v[i]

/-- Element `i` of a vector changed by `f`; nothing if there is none. -/
def vmod {α : Type} {n : Nat} (v : Vector α n) (i : Nat) (f : α → α) : Vector α n :=
  if h : i < n then v.set i (f v[i]) h else v

/-! ## Bytes and memories -/

/-- The low `n` bytes of a number, least significant first (R5). -/
def bytesOf : Nat → Nat → List Byte
  | 0, _ => []
  | n + 1, v => BitVec.ofNat 8 v :: bytesOf n (v / 256)

/-- The number whose bytes, least significant first, are given. -/
def natOfBytes : List Byte → Nat
  | [] => 0
  | b :: l => b.toNat + 256 * natOfBytes l

/-- The byte at an address; an unlisted address reads 0 (log 3). -/
def Memory.get : Memory → Nat → Byte
  | [], _ => 0
  | (k, v) :: m, a => if k = a then v else Memory.get m a

/-- One byte written; the form stays canonical. -/
def Memory.set : Memory → Nat → Byte → Memory
  | [], a, b => if b = 0 then [] else [(a, b)]
  | (k, v) :: m, a, b =>
    if a < k then (if b = 0 then (k, v) :: m else (a, b) :: (k, v) :: m)
    else if a = k then (if b = 0 then m else (a, b) :: m)
    else (k, v) :: Memory.set m a b

/-- The canonical form: addresses strictly rising, every one at least `lo`, no listed byte 0. -/
def Memory.wfFrom : Nat → Memory → Bool
  | _, [] => true
  | lo, (k, v) :: m => decide (lo ≤ k) && v != 0 && Memory.wfFrom (k + 1) m

/-- A memory in its one canonical form. -/
def Memory.wf (m : Memory) : Bool := Memory.wfFrom 0 m

/-- `n` bytes from an address. -/
def Memory.bytes (m : Memory) (a : Nat) : Nat → List Byte
  | 0 => []
  | n + 1 => m.get a :: Memory.bytes m (a + 1) n

/-- `n` bytes from an address as a little-endian number. -/
def Memory.read (m : Memory) (a n : Nat) : Nat := natOfBytes (m.bytes a n)

/-- Bytes written from an address. -/
def Memory.put (m : Memory) (a : Nat) : List Byte → Memory
  | [] => m
  | b :: l => Memory.put (m.set a b) (a + 1) l

/-- The low `n` bytes of a number written from an address. -/
def Memory.write (m : Memory) (a n v : Nat) : Memory := m.put a (bytesOf n v)

/-- Bytes `a` to `a + n - 1` zero. -/
def Memory.clear (m : Memory) (a n : Nat) : Memory := m.filter (fun e => e.1 < a || a + n ≤ e.1)

/-- Bytes `lo` to `hi - 1` as another memory holds them. -/
def Memory.splice (m n : Memory) (lo hi : Nat) : Memory :=
  m.filter (fun e => e.1 < lo) ++ n.filter (fun e => lo ≤ e.1 && e.1 < hi) ++ m.filter (fun e => hi ≤ e.1)

/-- A word of a memory. -/
def Memory.word (m : Memory) (a : Nat) : Word := BitVec.ofNat 32 (m.read a 4)

/-- A word written. -/
def Memory.putWord (m : Memory) (a : Nat) (v : Word) : Memory := m.write a 4 v.toNat

/-- One bit step of CRC-32C, reflected polynomial 0x82F63B78 (PRESUMED, log 9). -/
def crcStep : Nat → Word → Word
  | 0, c => c
  | n + 1, c => crcStep n (if c.getLsbD 0 then (c >>> 1) ^^^ 0x82F63B78 else c >>> 1)

/-- CRC-32C of bytes taken into a running value. -/
def crcBytes (c : Word) (l : List Byte) : Word := l.foldl (fun c b => crcStep 8 (c ^^^ b.setWidth 32)) c

/-- CRC-32C of a whole string: initial and final value all ones. -/
def crc32c (l : List Byte) : Word := ~~~(crcBytes 0xFFFFFFFF l)

/-! ## Who is who (R11, R19, R20) -/

/-- The three kinds of core. -/
inductive CoreKind where
  | compute | steward | memory
  deriving DecidableEq, Repr

/-- The local endpoint of an endpoint identifier. -/
def localOf (e : BitVec 21) : Nat := e.toNat % 0x8000
/-- The package of an endpoint identifier. -/
def pkgOf (e : BitVec 21) : Nat := e.toNat / 0x8000
/-- The kind of core at a local endpoint. -/
def kindAt (l : Nat) : CoreKind := if l < 0x4000 then .compute else if l < 0x4400 then .steward else .memory
/-- The cluster, 0 to 1,023, of a compute core or steward. -/
def clusterAt (l : Nat) : Nat := if l < 0x4000 then l / 16 else l % 0x400
/-- The index of a memory core, 0 to 767. -/
def memCoreAt (l : Nat) : Nat := l - 0x4800
/-- The kind of the core in focus. -/
def State.kind (s : State) : CoreKind := kindAt (localOf s.core.id)
/-- The package. -/
def State.pkg (s : State) : Nat := pkgOf s.core.id
/-- An endpoint identifier of this package. -/
def State.endpoint (s : State) (l : Nat) : BitVec 21 := BitVec.ofNat 21 (s.pkg * 0x8000 + l)
/-- The core in focus is a compute core. -/
def State.compute (s : State) : Bool := s.kind == .compute
/-- The core in focus is a steward. -/
def State.steward (s : State) : Bool := s.kind == .steward
/-- The core in focus is no memory core. -/
def State.notMemory (s : State) : Bool := s.kind != .memory
/-- The core in focus is a compute core in user mode. -/
def State.inUser (s : State) : Bool := s.core.mode == .user
/-- The tenant that the core in focus acts for: SCTX.tenant (R41). -/
def Core.tenant (c : Core) : BitVec 5 := c.csr.sctx.extractLsb' 16 5

/-! ## The focus -/

/-- The core at a local endpoint. -/
def State.coreAt (s : State) (l : Nat) : Core :=
  if localOf s.core.id = l then s.core else (assocGet s.others l).getD (.reset (s.endpoint l))

/-- The core at a local endpoint replaced. -/
def State.setCoreAt (s : State) (l : Nat) (c : Core) : State :=
  if localOf s.core.id = l then { s with core := c } else { s with others := assocSet s.others l c }

/-- The cluster unit of cluster `k`. -/
def State.unitAt (s : State) (k : Nat) : Cluster :=
  if s.unit.id = k then s.unit else (assocGet s.units k).getD (.reset k)

/-- The cluster unit of cluster `k` replaced. -/
def State.setUnitAt (s : State) (k : Nat) (u : Cluster) : State :=
  if s.unit.id = k then { s with unit := u } else { s with units := assocSet s.units k u }

/-- The cluster of local endpoint `l` in focus; a memory core has none. -/
def State.focusUnit (s : State) (k : Nat) : State :=
  if s.unit.id = k then s
  else { s with unit := s.unitAt k, units := assocSet (assocErase s.units k) s.unit.id s.unit }

/-- The core at local endpoint `l`, with its cluster unit, in focus. -/
def State.focus (s : State) (l : Nat) : State :=
  if localOf s.core.id = l then s
  else
    let t := { s with core := s.coreAt l, others := assocSet (assocErase s.others l) (localOf s.core.id) s.core }
    if kindAt l = .memory then t else t.focusUnit (clusterAt l)

/-- `f` done with the core at local endpoint `l` in focus; the focus then returns. -/
def State.at (s : State) (l : Nat) (f : State → State) : State := (f (s.focus l)).focus (localOf s.core.id)

/-- `f` done on each of a list of cores in turn. -/
def State.onCores (s : State) (ls : List Nat) (f : State → State) : State := ls.foldl (fun t l => t.at l f) s

/-- `f` done on the cluster units of a list of clusters. -/
def State.onUnits (s : State) (ks : List Nat) (f : Cluster → Cluster) : State :=
  ks.foldl (fun t k => t.setUnitAt k (f (t.unitAt k))) s

/-- The sixteen compute cores of a cluster, by local endpoint. -/
def coresOf (k : Nat) : List Nat := (List.range 16).map (fun c => 16 * k + c)

/-- The compute cores of a list of clusters. -/
def gangCores (ks : List Nat) : List Nat := ks.foldr (fun k l => coresOf k ++ l) []

/-- The core in focus changed. -/
def State.mapCore (s : State) (f : Core → Core) : State := { s with core := f s.core }
/-- The CSRs of the core in focus changed. -/
def State.mapCsr (s : State) (f : Csrs → Csrs) : State := { s with core := { s.core with csr := f s.core.csr } }
/-- The network interface of the core in focus changed. -/
def State.mapNi (s : State) (f : NetIf → NetIf) : State := { s with core := { s.core with ni := f s.core.ni } }
/-- The cluster unit in focus changed. -/
def State.mapUnit (s : State) (f : Cluster → Cluster) : State := { s with unit := f s.unit }

/-! ## Registers (R27) -/

/-- x register `r`; x0 reads zero. -/
def State.x (s : State) (r : Reg) : Word := if r = 0 then 0 else s.core.x[r.toNat]'(r.isLt)

/-- x register `r` written; a write to x0 is discarded. -/
def State.setX (s : State) (r : Reg) (v : Word) : State :=
  if r = 0 then s else { s with core := { s.core with x := s.core.x.set r.toNat v r.isLt } }

/-- The kept value of f register `r`, whatever stream is mapped to it. -/
def State.f (s : State) (r : Reg) : Word := s.core.f[r.toNat]'(r.isLt)

/-- The kept value of f register `r` written. -/
def State.setF (s : State) (r : Reg) (v : Word) : State :=
  { s with core := { s.core with f := s.core.f.set r.toNat v r.isLt } }

/-- The second register of the pair that begins at the even register `r`. -/
def pairHi (r : Reg) : Reg := r ||| 1

/-- The pair `r`, `r + 1` (R47). -/
def State.xp (s : State) (r : Reg) : DWord := pairOf (s.x r) (s.x (pairHi r))

/-- The pair `r`, `r + 1` written. -/
def State.setXp (s : State) (r : Reg) (v : DWord) : State := (s.setX r v.lo).setX (pairHi r) v.hi

/-- The five-bit field naming an e, h or p register as a number below 8. -/
def low3 (r : Reg) : Nat := r.toNat % 8

/-! ## Launches -/

/-- The launch of an identifier. -/
def State.launch? (s : State) (id : Word) : Option Launch := s.launches.find? (fun l => l.id == id)

/-- The launch that holds the cluster in focus. -/
def State.launch (s : State) : Option Launch := s.unit.launch.bind s.launch?

/-- The launch is pre-empted and its core at local endpoint `l` has taken the entry (R375). -/
def Launch.parks (g : Launch) (l : Nat) : Bool := g.stage == .preempting && (assocGet g.parked l).isSome

/-- The core in focus has taken the entry of a pre-emption that is not over. -/
def State.entered (s : State) : Bool := (s.launch.map fun g => g.parks (localOf s.core.id)).getD false

/-- A launch changed. -/
def State.mapLaunch (s : State) (id : Word) (f : Launch → Launch) : State :=
  { s with launches := updateFirst (fun l => l.id == id) f s.launches }

/-- The launch of the cluster in focus changed. -/
def State.mapMyLaunch (s : State) (f : Launch → Launch) : State :=
  match s.unit.launch with
  | none => s
  | some id => s.mapLaunch id f

/-- The phase of the launch in focus is unreplayable, by the first code of R408. -/
def State.unreplayable (s : State) (code : Nat) : State :=
  s.mapMyLaunch fun l => if l.pkt.replay && l.ureason == 0 then { l with ureason := code } else l

/-- The launch in focus keeps journals (R407). -/
def State.replays (s : State) : Bool := s.compute && ((s.launch.map (fun l => l.pkt.replay)).getD false)

/-- A draw from the counter of free values (log 7). -/
def State.draw (s : State) : State := { s with free := s.free + 1 }

/-! ## Scratchpad (R175 to R177, R190, R407) -/

/-- The physical byte of a W0 address; a steward or memory core has no remap table (R177). -/
def Core.phys (c : Core) (a : Nat) : Nat :=
  match kindAt (localOf c.id) with
  | .compute => ((c.remap[a / 4096]?).getD 0).toNat * 4096 + a % 4096
  | _ => a

/-- A W0 byte. -/
def Core.w0 (c : Core) (a : Nat) : Byte := c.sp.get (c.phys a)

/-- `n` W0 bytes. -/
def Core.w0Bytes (c : Core) (a : Nat) : Nat → List Byte
  | 0 => []
  | n + 1 => c.w0 a :: Core.w0Bytes c (a + 1) n

/-- `n` W0 bytes as a little-endian number. -/
def Core.w0Read (c : Core) (a n : Nat) : Nat := natOfBytes (c.w0Bytes a n)

/-- A W0 word. -/
def Core.w0Word (c : Core) (a : Nat) : Word := BitVec.ofNat 32 (c.w0Read a 4)

/-- The first write of a replayable phase to a 256-byte line journals the line and its 64 full/empty bits; with
no room left the phase becomes unreplayable (R407, R408). -/
def State.journal (s : State) (a : Nat) : State :=
  let line := a / 256 * 256
  if s.replays && !(s.core.jrn.lines.any (fun j => j.line == line)) then
    if s.core.jrn.lines.length < 16 * (s.core.csr.sjournal.toNat % 32) then
      let j : JLine :=
        { line := line, bytes := s.core.w0Bytes line 256,
          empty := s.core.empty.filter (fun w => line / 4 ≤ w && w < line / 4 + 64) }
      s.mapCore fun c => { c with jrn := { c.jrn with lines := j :: c.jrn.lines } }
    else s.unreplayable 1
  else s

/-- One W0 byte written, with its journal entry. -/
def State.w0Set (s : State) (a : Nat) (b : Byte) : State :=
  (s.journal a).mapCore fun c => { c with sp := c.sp.set (c.phys a) b }

/-- W0 bytes written. -/
def State.w0Put (s : State) (a : Nat) : List Byte → State
  | [] => s
  | b :: l => State.w0Put (s.w0Set a b) (a + 1) l

/-- The low `n` bytes of a number written to W0. -/
def State.w0Write (s : State) (a n v : Nat) : State := s.w0Put a (bytesOf n v)

/-- The word at W0 byte `a` is full (R190). -/
def Core.full (c : Core) (a : Nat) : Bool := !(c.empty.contains (a / 4))

/-- The full/empty bit of a word set; the change is journalled as a write of its line (R407). -/
def State.setFull (s : State) (a : Nat) (full : Bool) : State :=
  (s.journal a).mapCore fun c =>
    { c with empty := if full then c.empty.filter (fun w => w != a / 4) else insertNat c.empty (a / 4) }

/-! ## Status bits -/

/-- USTATUS.inh: a user handler is running. -/
def State.inHandler (s : State) : Bool := s.core.csr.ustatus.getLsbD 2

/-- FCSR.flags or-ed with the bits NV 16, DZ 8, OF 4, UF 2, NX 1 (R36, R37). -/
def State.addFlags (s : State) (fl : BitVec 5) : State :=
  s.mapCsr fun c => { c with fcsr := c.fcsr ||| (fl.setWidth 32 <<< 4) }

/-- UIP.cip set: an engine command that asked for notice has completed (R37); UIP acts on compute cores alone (R33). -/
def State.notice (s : State) : State := if s.compute then s.mapCsr fun c => { c with uip := setBit c.uip 2 true } else s

/-- FCSR.rm. -/
def State.frm (s : State) : BitVec 3 := s.core.csr.fcsr.extractLsb' 0 3

/-- FCSR.fz. -/
def State.fz (s : State) : Bool := s.core.csr.fcsr.getLsbD 3

/-- The rounding mode that field `m` names, sampled at issue (R54). -/
def State.rounding (s : State) (m : BitVec 3) : BitVec 3 := if m = 7 then s.frm else m

/-- The R54 check of a rounding field. -/
def State.roundingOk (s : State) (m : BitVec 3) : Bool := m != 7 || decide (s.frm ≤ 4)

/-- The launch is paired (R168). -/
def State.paired (s : State) : Bool := s.core.csr.ganginfo.getLsbD 31

/-- GANGINFO.foll: this core follows its leader in a pair (R168). -/
def State.pairFollower (s : State) : Bool := s.core.csr.ganginfo.getLsbD 30

/-- Bytes taken into the pairing signature (R168). -/
def State.sign (s : State) (l : List Byte) : State :=
  if s.paired then s.mapCore fun c => { c with sig := crcBytes c.sig l } else s

/-! ## Taking an exception -/

/-- The shadow copies of t0 to t5 exchanged with x26 to x31 (R40). -/
def swapShadow (c : Core) : Core :=
  { c with
    x := Vector.ofFn fun i : Fin 32 => if h : 26 ≤ i.val then c.shadow[i.val - 26] else c.x[i]
    shadow := Vector.ofFn fun i : Fin 6 => c.x[i.val + 26] }

/-- Entry to the user handler (R40, R133); the shadow copies are switched in for an interrupt only. DESIGN CHOICE (log 23):
R109 says of the handler's loop state only that it is inactive; start, last and remaining read 0. -/
def enterUser (cause value epc : Word) (interrupt : Bool) (s : State) : State :=
  let c := if interrupt then swapShadow s.core else s.core
  let us := setBit (setBit (setBit (setBit c.csr.ustatus 1 (c.csr.ustatus.getLsbD 0)) 0 false) 2 true) 3 interrupt
  { s with core :=
    { c with
      csr := { c.csr with ucause := cause, uval := value, uepc := epc &&& ~~~3#32, ustatus := us }
      loopUser := c.loop, loop := .reset, pc := c.csr.utvec &&& ~~~3#32 } }

/-- Entry to supervisor mode at STVEC plus an offset (R138). DESIGN CHOICE (log 23): the inactive loop state of the handler
(R109) has start, last and remaining 0. -/
def enterSupervisor (cause value epc offset : Word) (s : State) : State :=
  let c := s.core
  let ss := setBit (setBit (setBit c.csr.sstatus 2 (c.mode == .supervisor)) 1 (c.csr.sstatus.getLsbD 0)) 0 false
  { s with core :=
    { c with
      csr := { c.csr with scause := cause, sval := value, sepc := epc &&& ~~~3#32, sstatus := ss }
      mode := .supervisor, loopSup := c.loop, loop := .reset, pc := (c.csr.stvec &&& ~~~3#32) + offset } }

/-- The core halts with DSTAT.why, its resume address in DPC (R135, R136, R139). -/
def haltAt (why : BitVec 3) (pc : Word) (s : State) : State :=
  s.mapCore fun c => { c with halt := some why, dpc := pc, stalled := false, stepDue := false, stepCmd := none }

/-- An escalation (R135): user CSRs stay, the debug window tells the steward. -/
def escalate (why : BitVec 3) (cause value : Word) (s : State) : State :=
  (haltAt why s.core.pc s).mapCore fun c =>
    { c with ecause := cause, eval := value, decl := why == 2, escWaits := true }

/-- The machine check of R128 and R415: the report is written, and the core enters STVEC + 0x100, or halts when
SSTATUS.mcip was set (R138). -/
def enterMachineCheck (m : MCheck) (s : State) : State :=
  let mk (c : Csrs) : Csrs :=
    if c.mcstat.getLsbD 31 then { c with mcstat := setBit c.mcstat 30 true }
    else { c with
      mcstat := setBit (setBit (setBit (setBit (m.src.setWidth 32) 31 true) 30 false) 29 m.uc) 28 m.addrv
      mcbank := m.bank, mcsynd := m.synd, mcaddr := m.addr }
  let mcip := s.core.csr.sstatus.getLsbD 3
  let t := enterSupervisor 0x80000006 0 s.core.pc 0x100 (s.mapCsr mk)
  if mcip then haltAt 5 s.core.pc (t.mapCore fun c => { c with pc := s.core.pc })
  else t.mapCsr fun c => { c with sstatus := setBit c.sstatus 3 true }

/-- The engine command that a single step launched has neither completed nor faulted (R151). -/
def Core.drains (c : Core) : Bool :=
  match c.stepCmd with
  | none => false
  | some (0#2, q) => c.mx.queue.any fun m => !m.remote && m.seq == q
  | some (1#2, q) => c.cp.queue.any fun m => m.seq == q
  | some (2#2, q) =>
    ((c.slots[q.toNat]?).map fun p => p.state == .exposing).getD false &&
      !(c.reports.any fun r => (r.slot.map fun p => p.toNat) == some q.toNat)
  | some (_, q) => c.seqs.any fun e => e.seq == q

/-- An engine accepts a command of the instruction that issues: a single step with drain-on-step will wait for it. -/
def Core.launches (c : Core) (engine : BitVec 2) (number : BitVec 16) : Core :=
  if c.csr.sdbg.getLsbD 0 && c.csr.sdbg.getLsbD 1 then { c with stepCmd := some (engine, number) } else c

/-- A single step ends here (R150): the core halts with DSTAT.why = 4. With drain-on-step the engine command of
the step is waited for first (R151). -/
def settleStep (s : State) : State :=
  if s.core.csr.sdbg.getLsbD 0 && s.core.halt.isNone then
    if s.core.drains then s.mapCore fun c => { c with stepDue := true } else haltAt 4 s.core.pc s
  else s

/-- A synchronous trap is delivered (R132): to the user handler, by escalation, or to STVEC. The return address
is the pc as it stands. -/
def deliver (cause : Nat) (value : Word) (s : State) : State :=
  let code := BitVec.ofNat 32 cause
  if s.core.mode = .user then
    if cause != 8 && s.core.csr.ustatus.getLsbD 4 && !s.inHandler then enterUser code value s.core.pc false s
    else escalate 1 code value s
  else enterSupervisor code value s.core.pc 0 s

/-- A report at a boundary, with its cause and trap value: no instruction retires, so no single step ends (R150). -/
def report (cause : Nat) (value : Word) (s : State) : State :=
  (deliver cause value s).mapCore fun c => { c with stalled := false }

/-- TAKING AN EXCEPTION: the trap of an instruction, with its cause and trap value; a single step ends with it (R150). -/
def raise (cause : Nat) (value : Word) (s : State) : State := settleStep (report cause value s)

/-- An interrupt taken in supervisor mode on a compute core (R131, R138). -/
def interruptSupervisor (code : Word) (s : State) : State :=
  (enterSupervisor code 0 s.core.pc 0 s).mapCore fun c => { c with stalled := false }

/-- An interrupt taken in the user handler (R40, R133). -/
def interruptUser (code : Word) (s : State) : State :=
  (enterUser code 0 s.core.pc true s).mapCore fun c => { c with stalled := false }

/-- A loop state that a return reinstates: inactive if the resume address lies outside it (R109). -/
def reinstate (l : LoopState) (pc : Word) : LoopState :=
  if l.active && (decide (pc < l.start) || decide (l.last < pc)) then { l with active := false } else l

/-- RETURN FROM A USER HANDLER: the effects of URET (R143), which resumes at UEPC. -/
def returnUser (s : State) : State :=
  let c := if s.core.csr.ustatus.getLsbD 3 then swapShadow s.core else s.core
  let us := setBit (setBit (setBit c.csr.ustatus 0 (c.csr.ustatus.getLsbD 1)) 2 false) 3 false
  let pc := c.csr.uepc &&& ~~~3#32
  { s with core := { c with csr := { c.csr with ustatus := us }, loop := reinstate c.loopUser pc, pc := pc } }

/-- RETURN FROM SUPERVISOR MODE: the effects of SRET (R144). -/
def returnSupervisor (s : State) : State :=
  let c := s.core
  let pc := c.csr.sepc &&& ~~~3#32
  let ss := setBit (setBit c.csr.sstatus 0 (c.csr.sstatus.getLsbD 1)) 3 false
  let m : Mode := if s.compute && !(c.csr.sstatus.getLsbD 2) then .user else .supervisor
  { s with core :=
    { c with csr := { c.csr with sstatus := ss }, mode := m, loop := reinstate c.loopSup pc, pc := pc,
             escServing := false } }

/-! ## Retirement -/

/-- INSTRET counts an instruction that retires in user mode (R37). -/
def countInstr (m : Mode) (s : State) : State :=
  if m = .user then s.mapCsr fun c => { c with instret := c.instret + 1 } else s

/-- What retirement does whatever the next pc: the count, and the end of a single step. -/
def finish (m : Mode) (s : State) : State :=
  settleStep ((countInstr m s).mapCore fun c => { c with stalled := false })

/-- The pc after an instruction that set no next_pc: pc + 4, or the loop-back of R108. -/
def stepPc (c : Core) : Core :=
  if c.loop.active && c.pc == c.loop.last then
    let n := c.loop.remaining - 1
    if n = 0 then { c with pc := c.pc + 4, loop := { c.loop with remaining := n, active := false } }
    else { c with pc := c.loop.start, loop := { c.loop with remaining := n } }
  else { c with pc := c.pc + 4 }

/-- The pc after a taken branch or jump: a target outside an active loop ends it (R109). -/
def jumpPc (t : Word) (c : Core) : Core :=
  if c.loop.active && (decide (t < c.loop.start) || decide (c.loop.last < t)) then
    { c with pc := t, loop := { c.loop with active := false } }
  else { c with pc := t }

/-- Retirement of an instruction that falls through. -/
def retire (s : State) : State := finish s.core.mode (s.mapCore stepPc)

/-- Retirement of a taken branch or jump. -/
def retireTo (t : Word) (s : State) : State := finish s.core.mode (s.mapCore (jumpPc t))

/-- Why a body does not retire. -/
inductive Stop where
  /-- A trap with its cause and value; the state stays as it was (R9, R129). -/
  | trap (cause : Nat) (value : Word)
  /-- A trap after an effect that its rule keeps. -/
  | trapIn (cause : Nat) (value : Word) (s : State)
  /-- The instruction waits; what the wait records is in the state. -/
  | wait (s : State)
  deriving DecidableEq, Repr

/-- A computation that may stop. -/
abbrev Run (α : Type) := Except Stop α

/-- The instruction waits and is issued again (log 13). -/
def waiting (s : State) : State := s.mapCore fun c => { c with stalled := true }

/-- The state after an instruction whose body came to this end. -/
def conclude (s : State) : Run State → State
  | .ok t => t
  | .error (.trap c v) => raise c v s
  | .error (.trapIn c v t) => raise c v t
  | .error (.wait t) => waiting t

/-- An instruction: illegal here (R52, R54) it raises cause 0x02 with its word; otherwise its body runs, which
retires, traps or waits. -/
def performWith (i : Instr) (legal : Bool) (body : State → Run State) (s : State) :
    Host.Outcome State Fault Refusal :=
  .next (if legal then conclude s (body s) else raise 2 (wordOf i) s)

/-- The same for an instruction that falls through. -/
def perform (i : Instr) (legal : Bool) (body : State → Run State) (s : State) :
    Host.Outcome State Fault Refusal :=
  performWith i legal (fun s => (body s).map retire) s

/-- The same for an instruction that neither traps nor waits. -/
def performPure (i : Instr) (legal : Bool) (f : State → State) (s : State) : Host.Outcome State Fault Refusal :=
  .next (if legal then retire (f s) else raise 2 (wordOf i) s)

/-- A device step: an event that is not due changes nothing. -/
def happen (f : State → State) (s : State) : Host.Outcome State Fault Refusal := .next (f s)

/-- The device serves a host request (R404). -/
def hostServed (s : State) : Bool := !s.quartz.fatal && !s.quartz.off

/-- A host request: refused with Completer Abort while the device is Fatal (R404). -/
def hostStep (f : State → State) (s : State) : Host.Outcome State Fault Refusal :=
  happen (fun s => if hostServed s then f s else s) s

/-- A step of an engine of the core in focus: it stands still from the entry of a pre-emption on (R226, R240, R375), and on a Fatal device,
which stops every gang (R404). -/
def engineStep (f : State → State) (s : State) : Host.Outcome State Fault Refusal :=
  happen (fun s => if s.entered || s.quartz.fatal then s else f s) s

end Sys2Proof.Machine
end

