-- ==== Sys2Proof/Machine/Access.lean ====
section
/-!
DEFINITION. Local addresses: the windows of a compute core, the checks of R182 and the conversions of R82
(R174, R179 to R185). The register windows (network interface, event unit, status, debug) stand in
`Machine/Window.lean`.
-/

namespace Sys2Proof.Machine

/-- The parts of a local address map. `elem` is one of the windows W1 to W5; `cu` and `debug` are the
cluster-unit registers and debug windows of a steward; `imem` and `istore` its instruction memories. -/
inductive Area where
  | w0 | elem (k : Nat) | ni | event | status | imem | istore | cu | debug | hole
  deriving DecidableEq, Repr

/-- The base of an element window (R179). -/
def elemBase (k : Nat) : Nat := if k = 5 then 0x600000 else 0x100000 * k

/-- Where an address lies on a compute core (R179). -/
def areaCompute (a : Nat) : Area :=
  if a < 0x40000 then .w0
  else if 0x100000 ≤ a ∧ a < 0x180000 then .elem 1
  else if 0x200000 ≤ a ∧ a < 0x280000 then .elem 2
  else if 0x300000 ≤ a ∧ a < 0x400000 then .elem 3
  else if 0x400000 ≤ a ∧ a < 0x600000 then .elem 4
  else if 0x600000 ≤ a ∧ a < 0x700000 then .elem 5
  else if 0x800000 ≤ a ∧ a < 0x802000 then .ni
  else if 0x900000 ≤ a ∧ a < 0x901000 then .event
  else if 0xA00000 ≤ a ∧ a < 0xA02000 then .status
  else .hole

/-- Where an address lies on a steward (R174). -/
def areaSteward (a : Nat) : Area :=
  if a < 0x40000 then .w0
  else if 0x400000 ≤ a ∧ a < 0x410000 then .imem
  else if 0x500000 ≤ a ∧ a < 0x540000 then .istore
  else if 0x800000 ≤ a ∧ a < 0x802000 then .ni
  else if 0x900000 ≤ a ∧ a < 0x901000 then .event
  else if 0xA00000 ≤ a ∧ a < 0xA02000 then .status
  else if 0xB00000 ≤ a ∧ a < 0xB0000C then .cu
  else if 0xC00000 ≤ a ∧ a < 0xC10000 then .debug
  else .hole

/-- Where an address lies on a memory core (R174). -/
def areaMemory (a : Nat) : Area :=
  if a < 0x40000 then .w0
  else if 0x400000 ≤ a ∧ a < 0x410000 then .imem
  else if 0x800000 ≤ a ∧ a < 0x802000 then .ni
  else if 0xA00000 ≤ a ∧ a < 0xA02000 then .status
  else .hole

/-- Where an address lies on the core in focus. -/
def State.area (s : State) (a : Nat) : Area :=
  match s.kind with
  | .compute => areaCompute a
  | .steward => areaSteward a
  | .memory => areaMemory a

/-- The end of the area that holds an address. -/
def areaEnd : Area → Nat
  | .w0 => 0x40000
  | .elem 1 => 0x180000
  | .elem 2 => 0x280000
  | .elem 3 => 0x400000
  | .elem 4 => 0x600000
  | .elem _ => 0x700000
  | .ni => 0x802000
  | .event => 0x901000
  | .status => 0xA02000
  | .imem => 0x410000
  | .istore => 0x540000
  | .cu => 0xB0000C
  | .debug => 0xC10000
  | .hole => 0

/-- What an access is: its size in bytes, whether it stores, and whether its register is an f register. -/
structure Access where
  size : Nat
  store : Bool
  float : Bool
  deriving DecidableEq, Repr

/-- Whether an area accepts an access (R174, R179). -/
def accepts (ar : Area) (x : Access) : Bool :=
  match ar with
  | .w0 => true
  | .elem _ => x.size == 4 || x.size == 8
  | .ni => !x.float && (x.size == 4 || x.size == 8)
  | .event => !x.float && x.size == 4
  | .status => !x.float && !x.store && (x.size == 4 || x.size == 8)
  | .imem => !x.store
  | .istore => !x.float && x.size == 4
  | .cu => !x.float && x.size == 4
  | .debug => !x.float && x.size == 4
  | .hole => false

/-- Whether an area is addressed in units of four bytes (R179, R180). -/
def wordUnit : Area → Bool
  | .w0 => false
  | .imem => false
  | _ => true

/-- The W0 bytes behind an access of `n` elements from element `e` of window `k`: first byte and count (R180). -/
def elemBytes (k e n : Nat) : Nat × Nat :=
  match k with
  | 1 => (2 * e, 2 * n)
  | 2 => (2 * e, 2 * n)
  | 4 => (e / 2, (e + n - 1) / 2 - e / 2 + 1)
  | _ => (e, n)

/-- The W0 bytes of an access, first and count; none for a register window or an instruction memory. -/
def w0Span (ar : Area) (a size : Nat) : Nat × Nat :=
  match ar with
  | .w0 => (a, size)
  | .elem k => elemBytes k ((a - elemBase k) / 4) (size / 4)
  | _ => (0, 0)

/-- Two lists of spans have a common byte. -/
def meets (as bs : List (Nat × Nat)) : Bool :=
  as.any fun a => bs.any fun b => decide (a.1 < b.1 + b.2) && decide (b.1 < a.1 + a.2)

/-- SCTXFRAMES.jbase: the first journal frame (R41). -/
def Core.jbase (c : Core) : Nat := 58 - c.csr.sjournal.toNat % 32

/-- A W0 byte of the span lies in a supervisor frame (R42). -/
def Core.supFrame (c : Core) (first n : Nat) : Bool := decide (n ≠ 0 ∧ c.jbase * 4096 < first + n)

/-- An access to the span hits the range-lock table of a compute core: any access a write range, a store also a read range (R185). -/
def Core.lockHit (c : Core) (first n : Nat) (store : Bool) : Bool :=
  kindAt (localOf c.id) == .compute && n != 0 && c.locks.toList.any fun o =>
    match o with
    | none => false
    | some l => (l.write || store) && decide (l.first < first + n) && decide (first ≤ l.last)

/-- The checks of R182 in their order: the cause, if one fails. The first check is given by its parts: the area
accepts the access and holds its last byte. -/
def checkAccess (s : State) (a : Nat) (x : Access) : Option Nat :=
  let ar := s.area a
  let sp := w0Span ar a x.size
  if !accepts ar x || decide (areaEnd ar < a + x.size) then some (if x.store then 7 else 5)
  else if wordUnit ar && a % 4 != 0 then some (if x.store then 6 else 4)
  else if s.compute && s.inUser && s.core.supFrame sp.1 sp.2 then some (if x.store then 7 else 5)
  else if s.compute && s.core.lockHit sp.1 sp.2 x.store then some 10
  else none

/-! ## Window conversions (R82) -/

/-- What a load of an element of window `k` gives, from its raw bits. -/
def elemIn (k raw : Nat) : Word :=
  match k with
  | 1 => BitVec.ofNat 32 (raw * 65536)
  | 2 =>
    if raw / 1024 % 32 = 31 then BitVec.ofNat 32 (raw / 32768 * 2 ^ 31 + 255 * 2 ^ 23 + raw % 1024 * 8192)
    else BitVec.ofNat 32 (convert fp16 fp32 0 false raw).1
  | 3 => (BitVec.ofNat 8 raw).signExtend 32
  | 4 => (BitVec.ofNat 4 raw).signExtend 32
  | _ => BitVec.ofNat 32 raw

/-- An integer clamped to a range. -/
def clampInt (lo hi v : Int) : Int := max lo (min hi v)

/-- The raw bits that a store of a word to an element of window `k` writes. -/
def elemOut (k : Nat) (v : Word) : Nat :=
  match k with
  | 1 => (convert fp32 bf16 0 false v.toNat).1
  | 2 => (convert fp32 fp16 0 false v.toNat).1
  | 3 => (BitVec.ofInt 8 (clampInt (-128) 127 v.toInt)).toNat
  | 4 => (BitVec.ofInt 4 (clampInt (-8) 7 v.toInt)).toNat
  | _ => (clampInt 0 255 v.toInt).toNat

/-- The raw bits of element `e` of window `k` (R180). -/
def Core.rawElem (c : Core) (k e : Nat) : Nat :=
  match k with
  | 1 => c.w0Read (2 * e) 2
  | 2 => c.w0Read (2 * e) 2
  | 4 => if e % 2 = 0 then (c.w0 (e / 2)).toNat % 16 else (c.w0 (e / 2)).toNat / 16
  | _ => (c.w0 e).toNat

/-- Element `e` of window `k` as a load reads it (R180). -/
def Core.elem (c : Core) (k e : Nat) : Word := elemIn k (c.rawElem k e)

/-- Raw bits written to element `e` of window `k` (R180). -/
def State.setRaw (s : State) (k e raw : Nat) : State :=
  match k with
  | 1 => s.w0Write (2 * e) 2 raw
  | 2 => s.w0Write (2 * e) 2 raw
  | 4 =>
    let b := (s.core.w0 (e / 2)).toNat
    s.w0Write (e / 2) 1 (if e % 2 = 0 then b / 16 * 16 + raw % 16 else raw % 16 * 16 + b % 16)
  | _ => s.w0Write e 1 raw

/-- Element `e` of window `k` stored (R180). -/
def State.setElem (s : State) (k e : Nat) (v : Word) : State := s.setRaw k e (elemOut k v)

/-- A checked load from W0 or an element window, as up to eight bytes. -/
def loadData (s : State) (ar : Area) (a size : Nat) : Nat :=
  match ar with
  | .w0 => s.core.w0Read a size
  | .elem k =>
    let e := (a - elemBase k) / 4
    if size = 8 then (s.core.elem k e).toNat + 2 ^ 32 * (s.core.elem k (e + 1)).toNat else (s.core.elem k e).toNat
  | _ => 0

/-- A checked store to W0 or an element window. -/
def storeData (s : State) (ar : Area) (a size v : Nat) : State :=
  match ar with
  | .w0 => s.w0Write a size v
  | .elem k =>
    let e := (a - elemBase k) / 4
    let t := s.setElem k e (BitVec.ofNat 32 v)
    if size = 8 then t.setElem k (e + 1) (BitVec.ofNat 32 (v / 2 ^ 32)) else t
  | _ => s

/-- The effective address of a load, store or JALR: base plus sign-extended immediate, modulo 2^32 (R46, R183). -/
def effective (s : State) (a : Reg) (i : BitVec 16) : Word := s.x a + i.signExtend 32

end Sys2Proof.Machine
end

