-- ==== Sys2Proof/Machine/Launch.lean ====
section
/-!
DEFINITION. The operations over functions, launches and the fabric that many steps share: errors and their
reports, homes and readiness of lines, packets and slots, and the ways a phase or a launch ends early
(R152 to R163, R290 to R294, R403 to R411, R413, R414, R433).
-/

namespace Sys2Proof.Machine

/-! ## Host functions (R346, R433) -/

/-- Host function `t`. -/
def State.fn (s : State) (t : Nat) : HostFn := (assocGet s.fns t).getD .reset

/-- Host function `t` changed. -/
def State.mapFn (s : State) (t : Nat) (f : HostFn → HostFn) : State := { s with fns := assocSet s.fns t (f (s.fn t)) }

/-- Queue `q` of function `t`. -/
def State.queue (s : State) (t q : Nat) : Queue := ((s.fn t).queues[q]?).getD .reset

/-- Queue `q` of function `t` changed. -/
def State.mapQueue (s : State) (t q : Nat) (f : Queue → Queue) : State :=
  s.mapFn t fun h => { h with queues := vmod h.queues q f }

/-- Vector `v` is masked by its control word in the function's MSI-X table (log 22). -/
def HostFn.masked (h : HostFn) (v : Nat) : Bool := ((h.msixTable[4 * v + 3]?).getD 0).getLsbD 0

/-- MSI-X vector `v` of function `t` raised (R433): it is delivered, or pends once behind its mask. -/
def State.raiseMsix (s : State) (t v : Nat) : State :=
  let e := (BitVec.ofNat 5 t, BitVec.ofNat 2 v)
  if !(s.fn t).masked v then { s with quartz := { s.quartz with msix := s.quartz.msix ++ [e] } }
  else if s.quartz.msixPend.contains e then s
  else { s with quartz := { s.quartz with msixPend := s.quartz.msixPend ++ [e] } }

/-- Quartz logs an error on function `t` (R403); a Correctable error raises vector 3 of the physical function, a
Non-Fatal one vector 0 of its function (R433). -/
def State.logError (s : State) (c : ErrClass) (t : Nat) : State :=
  let r := { s with quartz := { s.quartz with log := s.quartz.log ++ [(c, BitVec.ofNat 5 t)] } }
  match c with
  | .correctable => r.raiseMsix 0 3
  | .nonFatal => r.raiseMsix t 0
  | .fatal => r

/-- A device Fatal error: every gang stops, nothing is signalled, host requests are refused (R404). -/
def State.deviceFatal (s : State) : State :=
  if s.quartz.fatal then s
  else
    let r := s.logError .fatal 0
    { r with quartz := { r.quartz with fatal := true } }

/-! ## The iteration space (R152 to R157) -/

/-- The extent of dimension `i`. -/
def Launch.extent (l : Launch) (i : Nat) : Nat := (l.pkt.ext[i]?).getD 1

/-- The extent of the sweep axis. -/
def Launch.sweep (l : Launch) : Nat := l.extent (l.pkt.ndim - 1)

/-- The number of lines: the product of the face extents. -/
def Launch.nlines (l : Launch) : Nat := (l.pkt.ext.take (l.pkt.ndim - 1)).foldl (· * ·) 1

/-- The face coordinates of a line: dimension 0 is the most significant (R152). -/
def faceOf : List Nat → Nat → List Nat
  | [], _ => []
  | e :: es, x => x / (es.foldl (· * ·) 1) % e :: faceOf es x

/-- The face coordinates of a line of a launch. -/
def Launch.face (l : Launch) (x : Nat) : List Nat := faceOf (l.pkt.ext.take (l.pkt.ndim - 1)) x

/-- The linear face index of coordinates; none if one lies outside the box. -/
def lineOf : List Nat → List Int → Option Nat
  | [], _ => some 0
  | _ :: _, [] => none
  | e :: es, c :: cs =>
    if 0 ≤ c ∧ c < e then (lineOf es cs).map (fun r => c.toNat * es.foldl (· * ·) 1 + r) else none

/-- The face components of a packed vector (R154). -/
def vecFace (v : BitVec 19) : List Int :=
  [(v.extractLsb' 14 5).toInt, (v.extractLsb' 9 5).toInt, (v.extractLsb' 4 5).toInt]

/-- The sweep component of a packed vector. -/
def vecSweep (v : BitVec 19) : Nat := (v.extractLsb' 0 4).toNat

/-- The line x - d_face; none outside the box. -/
def Launch.minusFace (l : Launch) (x : Nat) (v : BitVec 19) : Option Nat :=
  lineOf (l.pkt.ext.take (l.pkt.ndim - 1)) ((l.face x).zipWith (fun (c : Nat) (d : Int) => (c : Int) - d) (vecFace v))

/-- The counter of a line; a line that is not listed has retired nothing. -/
def Launch.lineSt (l : Launch) (x : Nat) : LineSt := (l.lines.find? (fun e => e.line == x)).getD ⟨x, 0, 0, false⟩

/-- The counter of a line changed. -/
def Launch.mapLine (l : Launch) (x : Nat) (f : LineSt → LineSt) : Launch :=
  { l with lines := f (l.lineSt x) :: l.lines.filter (fun e => e.line != x) }

/-- The local endpoint of the core that runs a line (R156). -/
def Launch.home (l : Launch) (x : Nat) : Nat :=
  (l.cores[x / 2 ^ (l.pkt.place % 16) % (max 1 l.cores.length)]?).getD 0

/-- The test of R157 for one vector. -/
def Launch.passes (l : Launch) (x : Nat) (v : BitVec 19) : Bool :=
  let h := (l.lineSt x).h
  if h < vecSweep v then true
  else
    match l.minusFace x v with
    | none => true
    | some y =>
      let hy := if clusterAt (l.home y) = clusterAt (l.home x) then (l.lineSt y).h else (l.lineSt y).hs
      decide (h - vecSweep v < hy)

/-- The candidate of a line is ready (R157). -/
def Launch.ready (l : Launch) (x : Nat) : Bool :=
  let st := l.lineSt x
  decide (st.h < l.sweep) && !st.hold && l.pkt.vecs.all (l.passes x)

/-- The least ready candidate, in point order, among the lines that a core runs (R153, R158). -/
def Launch.candidate (l : Launch) (core : Nat) : Option Nat :=
  (List.range l.nlines).foldl (fun best x =>
    if l.home x = core ∧ l.ready x then
      match best with
      | none => some x
      | some y => if (l.lineSt x).h < (l.lineSt y).h then some x else best
    else best) none

/-- Some line has a ready candidate. -/
def Launch.anyReady (l : Launch) : Bool := (List.range l.nlines).any l.ready

/-- Every line has run to its end (R160). -/
def Launch.finished (l : Launch) : Bool := (List.range l.nlines).all fun x => l.sweep ≤ (l.lineSt x).h

/-- The local endpoints of the gang's compute cores. -/
def Launch.members (l : Launch) : List Nat := gangCores l.gang

/-- An endpoint of this package is a member of the gang. DESIGN CHOICE (log 23): the stewards of its clusters are none, since their scratchpads
have no journal and no rollback or pre-emption restarts them: what one sends comes from outside the gang, and what goes to one leaves it. -/
def State.member (s : State) (l : Launch) (e : BitVec 21) : Bool :=
  pkgOf e == s.pkg && decide (localOf e < 0x4000) && l.gang.contains (clusterAt (localOf e))

/-- A point of the launch runs on the core. -/
def Core.runs (c : Core) : Bool := c.point.isSome

/-! ## Packets and slots (R21, R290 to R294) -/

/-- A local endpoint that R19 assigns. -/
def assignedEndpoint (l : Nat) : Bool :=
  l < 0x4400 || (0x4800 ≤ l && l < 0x4B00) || (0x5000 ≤ l && l < 0x5300) || (0x7F00 ≤ l && l < 0x7F10) || l == 0x7FFF

/-- An endpoint that can be reached: assigned, its package in the domain (R21). -/
def State.reachable (s : State) (e : BitVec 21) : Bool :=
  assignedEndpoint (localOf e) && (pkgOf e == s.pkg || s.lease.domain.getLsbD (pkgOf e))

/-- Bundle `b`, of either direction; one that is not listed is free with all its lanes. -/
def bundleAt (u : LeaseUnit) (b : Nat) : Bundle :=
  (u.bundles.find? fun x => x.idx == b).getD ⟨b, 0, 0, 0, 0, 0, 0, 0, 64, 64⟩

/-- The transmit bundles of tenant `t` toward package `p` (R386, R388): those granted to it, or, if it holds none,
the base bundles. -/
def State.bundlesTo (s : State) (t : BitVec 5) (p : Nat) : List Nat :=
  let own := (s.lease.tickets.filter fun k => k.tenant == t && k.peer.toNat == p).foldr (fun k l => k.granted ++ l) []
  if own.isEmpty then (assocGet s.lease.paths p).getD [] else own

/-- The live lanes usable by a tenant toward a package, in order of bundle and wavelength (R388); a bundle with fewer than 56 live
lanes is retired (R390). -/
def State.lanesTo (s : State) (t : BitVec 5) (p : Nat) : List Nat :=
  let bs := ((s.bundlesTo t p).filter fun b => decide (56 ≤ (bundleAt s.lease b).txlive)).foldl insertNat []
  (bs.foldr (fun b l => (List.range 64).map (fun w => 64 * b + w) ++ l) []).filter fun n => !s.lease.dead.contains n

/-- The classes of R293. -/
inductive MsgClass where
  | request | forward | reply
  deriving DecidableEq, Repr

/-- The class of a packet, which its route flit carries (R293, R387). -/
def classOf (b : Body) : MsgClass :=
  match b with
  | .reply _ | .pieceData _ | .pieceDone _ _ | .queued | .leaseAns _ _ _ _ => .reply
  | .amoPhys _ _ _ _ _ _ _ | .readPhys _ _ _ _ | .writePhys _ _ _ _ => .forward
  | _ => .request

/-- A packet that travels an ordered channel, or a relaxed flow; replies travel neither (R293, R294). DESIGN CHOICE (log 18): the blocks of a
checkpoint image, which no rule orders, are a relaxed flow. -/
def flowOf (b : Body) : Option Bool :=
  match b with
  | .msg h _ => some (h.getLsbD 42)
  | .ckBlock _ _ _ | .ckFetch _ | .ckGib _ _ => some true
  | _ => if classOf b = .reply then none else some false

/-- The length of a message in 32-byte units (R281). -/
def hdrUnits (h : DWord) : Nat := (h.extractLsb' 39 3).toNat + 1

/-- The payload flits of a link packet (R387). DESIGN CHOICE (log 18): R281 gives the length of a message; any other packet has one
flit for each 32 bytes of its operands, and at least one; the packets of one GiB of a checkpoint image count as one, with as many flits. -/
def unitsOf (b : Body) : Nat :=
  match b with
  | .msg h _ => hdrUnits h
  | .write _ bs => (bs.length + 39) / 32
  | .pieceData l => max 1 ((l.length + 31) / 32)
  | .leaseReq _ _ _ _ _ => 2
  | .ckBlock _ bs _ => (bs.length + 47) / 32
  | .ckGib _ fetch => 2 ^ 24 * (if fetch then 2 else 4) - 1
  | _ => 1

/-- The flits of a link packet: one route flit and its payload (R387). -/
def flitsOf (b : Body) : Nat := 1 + unitsOf b

/-- What is still to go out on a lane. -/
def laneLoad (s : State) (n : Nat) : Nat :=
  (s.lightOut.filter fun f => f.lane == some n).foldl (fun a f => a + f.left) 0

/-- The least loaded of a list of lanes (R388); of equal ones the first (log 18). -/
def leastLoaded (s : State) (ls : List Nat) : Option Nat :=
  ls.foldl (fun best n =>
    match best with
    | none => some n
    | some m => if laneLoad s n < laneLoad s m then some n else best) none

/-- A pair or flow takes lane `n`. -/
def State.setPin (s : State) (p : Packet) (rlx : Bool) (n : Nat) : State :=
  { s with lease := { s.lease with
      pins := ⟨p.src, p.dst, p.tenant, rlx, n / 64, n % 64⟩ ::
        s.lease.pins.filter fun q => !(q.src == p.src && q.dst == p.dst && q.relaxed == rlx) } }

/-- The lane of a packet to another package behind the packets of `before` (R388): an ordered pair keeps its lane while it is usable,
and takes a new one by the formula when nothing of it is under way; a flowlet keeps its lane and begins on the least loaded one; a
reply takes the least loaded one (log 18). None while the packet has to wait. -/
def State.pin (s : State) (before : List Flight) (p : Packet) : Option Nat × State :=
  let ls := s.lanesTo p.tenant (pkgOf p.dst)
  match flowOf p.body with
  | none => (leastLoaded s ls, s)
  | some rlx =>
    let pair := before.filter fun f => f.packet.src == p.src && f.packet.dst == p.dst && flowOf f.packet.body == some rlx
    let old := (s.lease.pins.find? fun q => q.src == p.src && q.dst == p.dst && q.relaxed == rlx).map fun q => 64 * q.bundle + q.wave
    match old.filter ls.contains with
    | some n => if rlx || pair.all (fun f => f.lane == some n) then (some n, s) else (none, s)
    | none =>
      if !rlx && !pair.isEmpty then (none, s)
      else
        match (if rlx then leastLoaded s ls else ls[(p.src.toNat + p.dst.toNat) % ls.length]?) with
        | none => (none, s)
        | some n => (some n, s.setPin p rlx n)

/-- A packet put on the fabric, or on its way to another package (R387, R388). -/
def State.send (s : State) (p : Packet) : State :=
  if pkgOf p.dst = s.pkg then { s with fabric := s.fabric ++ [p] }
  else
    let r := s.pin s.lightOut p
    { r.2 with lightOut := s.lightOut ++ [⟨p, r.1, flitsOf p.body⟩] }

/-- The address by which an engine's piece, which has no slot, is known to its sender: for a translated one the region-0 address of this
package. -/
def pieceAddr (pkg : Nat) (b : Body) : Option DWord :=
  match b with
  | .read a _ | .write a _ | .specRead a _ => some a
  | .readPhys _ va _ _ | .writePhys _ va _ _ => some (BitVec.ofNat 64 (pkg * 2 ^ 58 + va))
  | _ => none

/-- What ends a request packet at its sender. -/
def endOf (pkg : Nat) (b : Body) (r : Reply) : Body :=
  match pieceAddr pkg b with
  | some a => .pieceDone a r
  | none => .reply r

/-- The answer to a request packet. -/
def State.answer (s : State) (p : Packet) (r : Reply) : State :=
  s.send { src := p.dst, dst := p.src, tenant := p.tenant, slot := p.slot, body := endOf s.pkg p.body r }

/-- The tenant-virtual address of a region-0 fabric address (R22). -/
def faVirtual (a : DWord) : Nat := (a.extractLsb' 0 41).toNat

/-- The virtual address of a region-0 request. -/
def packetVa (p : Packet) : Nat :=
  match p.body with
  | .amo _ _ a _ _ | .read a _ | .write a _ | .specRead a _ => faVirtual a
  | _ => 0

/-- A request completes with a non-replayable translation fault of its own address (R368, R374). -/
def State.failXlate (s : State) (p : Packet) : State := s.answer p (.vfault (BitVec.ofNat 32 (packetVa p / 512)))

/-- The lowest free slot of the core in focus, if there is one. -/
def NetIf.freeSlot (n : NetIf) : Option Nat := (List.range 32).find? fun i => ((n.slots[i]?).getD none).isNone

/-- Slot `i` of the network interface. -/
def NetIf.slot (n : NetIf) (i : Nat) : Option Slot := (n.slots[i]?).getD none

/-- Slot `i` set; a slot taken stands behind those in use. -/
def NetIf.setSlot (n : NetIf) (i : Nat) (o : Option Slot) : NetIf :=
  let l := match o with
    | none => n.order.filter (· != i)
    | some _ => if n.order.contains i then n.order else n.order ++ [i]
  { n with slots := n.slots.setIfInBounds i o, order := l }

/-- The slot of the instruction in progress: the one that it took when it began to wait, or the lowest free one. -/
def NetIf.ownSlot (n : NetIf) : Option Nat :=
  match n.reserved with
  | some i => some i
  | none => n.freeSlot

/-- The instruction in progress holds slot `i` while it waits, or none. -/
def State.reserve (s : State) (o : Option Nat) : State := s.mapNi fun n => { n with reserved := o }

/-- A request sent from the core in focus in slot `i`: the slot is taken, and the packet leaves. The follower of a
pair sends nothing and holds no slot (R168). A request that cannot be delivered is answered with NACK (R21). -/
def State.request (s : State) (i : Nat) (kind : ReqKind) (dst : BitVec 21) (timed : Bool) (body : Body) : State :=
  let p : Packet := { src := s.core.id, dst := dst, tenant := s.core.tenant, slot := BitVec.ofNat 5 i, body := body }
  let t := s.mapNi fun n => n.setSlot i (some { kind := kind, packet := p, reply := none, timed := timed })
  if s.pairFollower then s else if s.reachable dst then t.send p else t.answer p (.nack 1)

/-- A request that the issuing interface refuses itself: the slot is taken and answered (R25, R308). -/
def State.refuseRequest (s : State) (i : Nat) (kind : ReqKind) (timed : Bool) (body : Body) : State :=
  let p : Packet :=
    { src := s.core.id, dst := s.core.id, tenant := s.core.tenant, slot := BitVec.ofNat 5 i, body := body }
  let t := s.mapNi fun n => n.setSlot i (some { kind := kind, packet := p, reply := none, timed := timed })
  if s.pairFollower then s else t.answer p (.nack 1)

/-- The trap value of a refused or failed request (R130). -/
def refusalValue (sub : BitVec 4) (i : Nat) : Word := BitVec.ofNat 32 (sub.toNat * 2 ^ 28 + i % 32)

/-! ## Ending work early (R163, R408 to R411) -/

/-- What a core drops when its work is abandoned: point, engine commands, streams, loops, slots and waits (R163).
Its memory, handles and CSRs stay, with the shadow copies of t0 to t5 (R40); SSTATUS.mcip is cleared (R406), and the phase
abort and the pre-emption that were pending have had their effect. -/
def abandon (k : Core) : Core :=
  let c := if k.csr.ustatus.getLsbD 3 then swapShadow k else k
  { c with
    mode := resetMode c.id, halt := none, stalled := false, point := none, loop := .reset, stepDue := false, stepCmd := none,
    escWaits := false, mcheck := none, reports := [], refusals := [], slots := .replicate 8 .reset,
    locks := .replicate 16 none, deferred := [], handed := none, seqs := [], follow := none, lag := [],
    streams := vmap (fun t => { t with mapped := false }) c.streams,
    csr := { c.csr with sstatus := setBit c.csr.sstatus 3 false, sip := setBit (setBit c.csr.sip 4 false) 1 false,
                        ustatus := setBit (setBit c.csr.ustatus 2 false) 3 false },
    mx := { c.mx with queue := [] }, cp := { c.cp with queue := [], got := [] },
    ni := { c.ni with slots := .replicate 32 none, order := [], reserved := none } }

/-- The takes that wait at core `c` and came from outside the gang are refused (R309). -/
def refuseWaiters (l : Launch) (c : Core) (s : State) : State :=
  c.deferred.foldl (fun t w =>
    match w.src with
    | none => t
    | some (e, i) =>
      if s.member l e then t
      else t.send { src := c.id, dst := e, tenant := c.tenant, slot := i, body := .reply (.nack 1) }) s

/-- The arrivals held at a core: those of members are dropped, others refused with NACK, and what was accepted before stays (R298). -/
def refuseHeld (l : Launch) (s : State) : State :=
  let t := s.core.ni.held.foldl (fun t h =>
    if h.ack && !(s.member l h.packet.src) then t.answer h.packet (.nack 1) else t) s
  let stay := s.core.ni.held.filter fun h => h.kept
  t.mapNi fun n => { n with held := stay, heldFlag := !stay.isEmpty }

/-- Every arrival held at the core in focus is refused, or is lost with what it was accepted for. -/
def dropHeld (s : State) : State :=
  let t := s.core.ni.held.foldl (fun t h => if h.ack then t.answer h.packet (.nack 1) else t) s
  t.mapNi fun n => { n with held := [], heldFlag := false }

/-- The packet is a member's own request, or an answer to a member. -/
def State.ofGang (s : State) (l : Launch) (p : Packet) : Bool :=
  let e := match p.body with
    | .reply _ => p.dst
    | .queued => p.dst
    | _ => p.src
  s.member l e

/-- What comes for a request that nobody waits for any more: bytes without a taker, of the same length. -/
def silence (f : Flight) : Flight := { f with packet := { f.packet with body := .pieceData [] } }

/-- The pieces that `p` picks are forgotten by their senders (R232): what they still do in another package is nobody's. Slot 1 marks
them, for a piece has no slot. -/
def forgetPieces (p : Away → Bool) (s : State) : State :=
  let gone := s.away.filter p
  let mine (e : BitVec 21) (a : DWord) : Bool := gone.any fun x => x.src == e && x.addr == a
  let out (f : Flight) : Flight := match f.packet.body with
    | .write a _ => if mine f.packet.src a then { f with packet := { f.packet with slot := 1 } } else f
    | _ => f
  let back (f : Flight) : Flight := match f.packet.body with
    | .pieceDone a _ => if mine f.packet.dst a then { f with packet := { f.packet with slot := 1 } } else f
    | _ => f
  { s with away := s.away.filter fun x => !p x, lightOut := s.lightOut.map out, lightIn := s.lightIn.map back }

/-- Answers from other packages to members find nobody. -/
def quietReplies (l : Launch) (s : State) : State :=
  let quiet (f : Flight) : Flight := match f.packet.body with
    | .reply _ | .queued => if s.ofGang l f.packet then silence f else f
    | _ => f
  { s with lightIn := s.lightIn.map quiet }

/-- A row of the launch's movement plan has not been accepted by another package yet (R231, R242). -/
def planAway (s : State) (id : Word) : Bool := s.away.any fun x => x.plan == some id

/-- Packets of members that are still under way, and replies to members, leave the fabric, the walks and the fault
records; what comes from another package finds nobody. -/
def dropTraffic (l : Launch) (s : State) : State :=
  let keep (ps : List Packet) : List Packet := ps.filter fun p => !s.ofGang l p
  let clean (r : FRec) : FRec :=
    { r with reqs := keep r.reqs, asks := r.asks.filter fun a => !s.member l a.2.1 }
  let u := quietReplies l (forgetPieces (fun x => x.plan.isNone && s.member l x.src) s)
  let t := { u with fabric := keep s.fabric, walks := s.walks.filter (fun w => !s.ofGang l w.packet) }
  t.mapFn l.fn.toNat fun h => { h with records := h.records.map clean, fqwait := h.fqwait.map clean }


/-- The request of a slot stands in the deferred list of a core. -/
def Core.holdsTake (c : Core) (x : Slot) : Bool := c.deferred.any fun w => w.src == some (x.packet.src, x.packet.slot)

/-- A take of this package waits at its target, which may be pre-empted (R309). -/
def waitsAt (s : State) (x : Slot) : Bool :=
  let l := localOf x.packet.dst
  pkgOf x.packet.dst == s.pkg &&
    ((s.coreAt l).holdsTake x || s.launches.any fun g => ((assocGet g.parked l).map fun c => c.holdsTake x).getD false)

/-- The takes in the deferred list, which holds 64; one more entry is the core's own TAKE, which waits outside it (R191). -/
def Core.takes (c : Core) : List Waiter := c.deferred.take 64

/-- A full word taken: its value, and the word is empty. -/
def takeWord (a : Nat) (s : State) : Word × State := (s.core.w0Word a, s.setFull a false)

/-- An entry of the list is free: the core's own TAKE that waited outside has joined, and takes its word if it is full by now
(R191). -/
def joinTake (s : State) : State :=
  match s.core.deferred[63]? with
  | some w =>
    if w.src.isNone && s.core.deferred.length == 64 && s.core.full w.addr then
      (takeWord w.addr s).2.mapCore fun c => { c with deferred := c.deferred.take 63, handed := some (s.core.w0Word w.addr) }
    else s
  | none => s

/-- A core whose deferred list is without the request of a slot. -/
def Core.forgetTake (c : Core) (x : Slot) : Core :=
  { c with deferred := c.deferred.filter fun w => w.src != some (x.packet.src, x.packet.slot) }

/-- A take leaves the deferred list of its target, and of what a launch keeps of it. -/
def dropWaiter (x : Slot) (s : State) : State :=
  let l := localOf x.packet.dst
  let t := s.at l fun v => joinTake (v.mapCore fun c => c.forgetTake x)
  { t with launches := t.launches.map fun g =>
      { g with parked := g.parked.map fun e => if e.1 = l then (e.1, e.2.forgetTake x) else e } }

/-- The lookups of the core in focus for the slots that `p` picks are withdrawn (R243). -/
def dropLookups (p : BitVec 3 → Bool) (s : State) : State :=
  s.mapUnit fun u => { u with predq := u.predq.filter fun r => match r with
    | .lookup c q => !(c == s.core.id && p q)
    | .train _ _ => true }

/-- The request is a training update. -/
def isTraining : PredReq → Bool
  | .lookup _ _ => false
  | .train _ _ => true

/-- Every core of the gang abandons its work; the lookups of its slots are withdrawn. -/
def abandonGang (l : Launch) (s : State) : State :=
  dropTraffic l ((s.onCores l.members fun t => (refuseHeld l (refuseWaiters l t.core t)).mapCore abandon).onUnits l.gang
    fun u => { u with predq := u.predq.filter isTraining })

/-- The launch leaves its clusters: they are free again, and its key is erased (R147). Training that waits still runs (R244). -/
def freeClusters (l : Launch) (s : State) : State :=
  s.onUnits l.gang fun u => { u with launch := none, key := none, predq := u.predq.filter isTraining }

/-- The value of a counter slot (R353). -/
def HostFn.counter (h : HostFn) (i : Nat) : Nat := (assocGet h.counters i).getD 0

/-- A request or piece that writes memory. -/
def writesMemory (b : Body) : Bool :=
  match b with
  | .store _ _ _ | .amo _ _ _ _ _ | .take _ | .ttake _ _ | .put _ _ | .msg _ _ | .write _ _ => true
  | _ => false

/-- A write of function `t` is on its way to another package and belongs to no launch that is left: no slot and no command of a core
that a launch holds waits for it (R355). -/
def strayWrites (s : State) (t : BitVec 5) : Bool :=
  s.lightOut.any fun f =>
    let p := f.packet
    let c := s.coreAt (localOf p.src)
    let held := (s.unitAt (clusterAt (localOf p.src))).launch.isSome
    let waited := match p.body with
      | .write a _ => s.away.any fun x => x.src == p.src && x.addr == a && (x.plan.isSome || held)
      | _ => held && ((c.ni.slot p.slot.toNat).map fun x => x.packet == p).getD false
    p.tenant == t && writesMemory p.body && !waited

/-- A bound launch may become eligible: its counter holds 0 and, with acq, no earlier launch of its queue is left, and what those wrote
to other packages has arrived (R353, R355). -/
def canRun (s : State) (l : Launch) : Bool :=
  (s.fn l.fn.toNat).counter l.pkt.cslot == 0 &&
    (!l.pkt.acq ||
      (!((s.launches.takeWhile fun x => x.id != l.id).any fun x => x.fn == l.fn && x.queue == l.queue) && !strayWrites s l.fn))

/-- Bound launches that may run become eligible; a marker then only has to complete (R350, R353). -/
def settleEligible (s : State) : State :=
  let turn (l : Launch) : Launch :=
    if l.stage == .bound && canRun s l then
      { l with stage := if l.pkt.type = 2 then .closed else .eligible, eligAt := s.cycle.toNat }
    else l
  { s with launches := s.launches.map turn }

/-- The counter of a launch that is not eligible yet returns to 0, as unbound slots do (R354). -/
def unbind (l : Launch) (s : State) : State :=
  if l.stage = .bound then s.mapFn l.fn.toNat fun h => { h with counters := assocSet h.counters l.pkt.cslot 0 } else s

/-- The launch is gone from the package. -/
def State.dropLaunch (s : State) (id : Word) : State :=
  let s := forgetPieces (fun x => x.plan == some id) s
  settleEligible
    { s with
      launches := s.launches.filter (fun l => l.id != id)
      commit := s.commit.filter (fun h => h.launch != id)
      sliceJrn := s.sliceJrn.filter (fun e => e.launch != id) }

/-- A kill: the launch ends with a Non-Fatal error; held writes and journals are discarded, and the launch counts
as complete without signal or decrement (R356, R411). -/
def State.kill (s : State) (id : Word) : State :=
  match s.launch? id with
  | none => s
  | some l =>
    let u := l.backlog.foldl (fun t p => t.answer p (.nack 1)) (unbind l s)
    let t := (if l.stage = .saved then l.parked.foldl (fun t e => refuseWaiters l e.2 t) u
      else freeClusters l ((abandonGang l u).onCores l.members dropHeld)).dropLaunch id
    (t.mapQueue l.fn.toNat l.queue.toNat fun q => { q with kill := true }).logError .nonFatal l.fn.toNat

/-- R408 allows a rollback of the phase. -/
def Launch.canRollBack (l : Launch) : Bool := l.pkt.replay && l.ureason == 0 && decide (l.tries < 2)

/-- Every compute core of the gang has the phase-abort interrupt pending (R131, R162). -/
def signalAbort (l : Launch) (s : State) : State :=
  s.onCores l.members fun t => t.mapCsr fun c => { c with sip := setBit c.sip 4 true }

/-- The cause of an abort recorded in the launch and in PREC of its clusters (R409). -/
def setWhy (l : Launch) (why : BitVec 4) (s : State) : State :=
  (s.onUnits l.gang fun u => { u with why := why }).mapLaunch l.id fun l => { l with why := why }

/-- A phase abort with its PREC.why: rollback or kill by R408; one that meets an abort in progress is merged, and a
pre-emption in progress waits for the repeated phase (R409). Where the watchdog fired, the interrupts have been
signalled already. -/
def State.abort (s : State) (id : Word) (why : BitVec 4) : State :=
  match s.launch? id with
  | none => s
  | some l =>
    let die := (setWhy l why s).kill id
    let begun := (setWhy l why s).mapLaunch id fun l =>
      { l with stage := .aborting, preempt := l.preempt || l.stage == .preempting }
    match l.stage with
    | .awaitAct => if l.canRollBack then begun else die
    | .running => if l.canRollBack then signalAbort l begun else die
    | .preempting => if l.canRollBack then signalAbort l begun else die
    | .bound | .eligible | .placed | .aborting | .saved | .closed => s

/-- An uncorrectable error consumed by a compute core or steward of a running gang starts a phase abort (R406). -/
def State.consume (s : State) : State :=
  if s.notMemory then
    match s.unit.launch with
    | none => s
    | some id => s.abort id 2
  else s

/-- The requests that wait in the fault queue of a tenant complete as non-replayable (R413); later answers to their
records are ignored. -/
def endWaiting (t : Nat) (s : State) : State :=
  let all_ := (s.fn t).records ++ (s.fn t).fqwait
  let s1 := all_.foldl (fun u r => r.reqs.foldl State.failXlate u) s
  s1.mapFn t fun h =>
    { h with records := h.records.map fun r => { r with answered := true, reqs := [], asks := [] }, fqwait := [] }

/-- A tenant fatal fault (R413): TFATAL, its launches, its queues; a second one before acknowledgement is a device
Fatal error (R414). -/
def State.tenantFatal (s : State) (t : Nat) (kind : BitVec 3) (src : BitVec 21) (launch : Word) (va : Nat) :
    State :=
  if ((s.fn t).tfatal).getLsbD 31 then s.deviceFatal
  else
    let s1 := (endWaiting t s).mapFn t fun h =>
      { h with
        tfatal := 1#1 ++ kind ++ 0#7 ++ src, tflaunch := launch, tfva := BitVec.ofNat 32 (va / 512)
        queues := vmap (fun q => { q with en := false }) h.queues, fqctl := setBit h.fqctl 31 false }
    let s2 := (s1.raiseMsix t 0).logError .nonFatal t
    ((s2.launches.filter (fun l => l.fn.toNat == t)).map (fun l => l.id)).foldl (fun u id => u.kill id) s2

/-! ## Locks and prediction slots -/

/-- Lock entries of an owner released (R186). -/
def Core.unlock (c : Core) (engine : BitVec 2) (owner : BitVec 16) : Core :=
  { c with locks := vmap (fun o => match o with
      | some l => if l.engine == engine && l.owner == owner then none else some l
      | none => none) c.locks }

/-- The number of free lock entries. -/
def Core.freeLocks (c : Core) : Nat := (c.locks.toList.filter (fun o => o.isNone)).length

/-- A range of W0 bytes that a command reads or writes: whether it writes, its first and its last byte. -/
structure Range where
  write : Bool
  first : Nat
  last : Nat
  deriving DecidableEq, Repr

/-- A range that nothing hits, for an operand that no window holds: its command will fault. -/
def Range.nothing (write : Bool) : Range := ⟨write, 0x40000, 0⟩

/-- Two ranges overlap, and either is a write range (R186). -/
def Range.conflict (a b : Range) : Bool :=
  (a.write || b.write) && decide (a.first ≤ b.last) && decide (b.first ≤ a.last) && decide (a.first ≤ a.last) &&
    decide (b.first ≤ b.last)

/-- The range of a lock entry. -/
def Lock.range (l : Lock) : Range := ⟨l.write, l.first, l.last⟩

/-- A stamp later than that of every entry. -/
def Core.nextStamp (c : Core) : Nat :=
  c.locks.toList.foldl (fun n o => match o with
    | some l => max n (l.stamp + 1)
    | none => n) 0

/-- Entries with one stamp, each in the lowest free place. -/
def Core.lockAll (c : Core) (engine : BitVec 2) (owner : BitVec 16) (stamp : Nat) : List Range → Core
  | [] => c
  | r :: rs =>
    match (List.range 16).find? (fun i => ((c.locks[i]?).getD none).isNone) with
    | none => c
    | some i =>
      Core.lockAll { c with locks := c.locks.setIfInBounds i (some ⟨r.write, engine, r.first, r.last, owner, stamp⟩) }
        engine owner stamp rs

/-- The ranges of an accepted command entered in the lock table (R185, R186). -/
def Core.lock (c : Core) (engine : BitVec 2) (owner : BitVec 16) (rs : List Range) : Core :=
  c.lockAll engine owner c.nextStamp rs

/-- The entry is that of an exposed slot, which no longer counts as an incomplete command (R258). -/
def Core.exposedLock (c : Core) (l : Lock) : Bool :=
  l.engine == 2 && ((c.slots[l.owner.toNat]?).map fun p => p.state == .exposed).getD false

/-- A command waits for an earlier one of the same core whose ranges conflict with its own (R186, R258). The owner of
a prediction slot's entry is its number. -/
def Core.lockWaits (c : Core) (engine : BitVec 2) (owner : BitVec 16) : Bool :=
  let all : List Lock := c.locks.toList.filterMap fun o => match o with
    | some l => if c.exposedLock l then none else some l
    | none => none
  let mine := all.filter fun l => l.engine == engine && l.owner == owner
  all.any fun o =>
    !(o.engine == engine && o.owner == owner) &&
      mine.any fun m => decide (o.stamp < m.stamp) && o.range.conflict m.range

/-- All prediction slots freed with their frames and locks (R32, R43). -/
def Core.freeSlots (c : Core) : Core :=
  { c with
    slots := .replicate 8 .reset
    locks := vmap (fun o => match o with
      | some l => if l.engine == 2 then none else some l
      | none => none) c.locks }

end Sys2Proof.Machine
end

