-- ==== Sys2Proof/Machine/Repair.lean ====
section
/-!
DEFINITION. Field-test records, retirement of units (R210, R417, R419), and what a machine check contains (R415).
-/

namespace Sys2Proof.Machine

/-- Seconds since cold reset (R419; log 7). -/
def State.now (s : State) : Nat := Config.seconds s.cycle.toNat

/-- A unit of the compute core or steward at a local endpoint; a die has no cluster. -/
def unitName (kind : BitVec 4) (l : Nat) (sub : Nat) : UnitName :=
  let k := clusterAt l
  { kind := kind, die := BitVec.ofNat 3 (k / 128), cluster := if kind = 1 then 0 else BitVec.ofNat 7 (k % 128),
    core := if l < 0x4000 then BitVec.ofNat 4 (l % 16) else 0, sub := BitVec.ofNat 6 sub }

/-- The record describes the unit. -/
def FtRec.names (r : FtRec) (u : UnitName) : Bool :=
  r.kind == u.kind && r.die == u.die && r.cluster == u.cluster && r.core == u.core && r.sub == u.sub

/-- The record of a unit, if it is not good. -/
def State.ftRec (s : State) (u : UnitName) : Option FtRec := s.quartz.records.find? (fun r => r.names u)

/-- The global cluster number of a unit. -/
def UnitName.clusterNo (u : UnitName) : Nat := u.die.toNat * 128 + u.cluster.toNat

/-- The local endpoint of the core that holds a unit. -/
def UnitName.coreNo (u : UnitName) : Nat := u.clusterNo * 16 + u.core.toNat

/-- A cluster withdrawn from placement (R415, R417). -/
def State.withdraw (s : State) (k : Nat) : State := s.setUnitAt k { s.unitAt k with withdrawn := true }

/-- The spare rows of a core that are in use; two exist (R210). The store holds core * 64 + row. -/
def State.sparesUsed (s : State) (l : Nat) : Nat := (s.quartz.spared.filter (fun e => e / 64 == l)).length

/-- A record put in place of the unit's older one; the store holds at most 4,096 (R419). -/
def State.putRec (s : State) (r : FtRec) (u : UnitName) : State :=
  let l := s.quartz.records.filter (fun x => !(x.names u))
  { s with quartz := { s.quartz with records := if l.length < 4096 then l ++ [r] else l } }

/-- A failure now of a unit that leaves it in a state: in its record, or in a new one. -/
def State.failRec (s : State) (state : BitVec 2) (u : UnitName) : State :=
  match s.ftRec u with
  | some r => s.putRec { r with state := if r.state = 3 then 3 else state, fails := min (r.fails + 1) 0xFFFF, streak := 0, at_ := s.now } u
  | none =>
    s.putRec
      { kind := u.kind, state := state, die := u.die, cluster := u.cluster, core := u.core, sub := u.sub, passes := 0, fails := 1,
        streak := 0, at_ := s.now } u

/-- A compute core retired from placement (R417), with its record (R419). -/
def State.retireCore (s : State) (l : Nat) : State :=
  { s with quartz := { s.quartz with retired := insertNat s.quartz.retired l } }.failRec 3 (unitName 3 l 0)

/-- What a second failure within 24 hours makes of a unit (R417): its state code, and the repair. -/
def secondFailure (u : UnitName) (s : State) : BitVec 2 × State :=
  match u.kind with
  | 1#4 => (3, s.onUnits ((List.range 128).map fun c => u.die.toNat * 128 + c) fun k => { k with withdrawn := true })
  | 2#4 => (3, s.withdraw u.clusterNo)
  | 4#4 =>
    if s.sparesUsed u.coreNo < 2 then
      (2, { s with quartz := { s.quartz with spared := insertNat s.quartz.spared (u.coreNo * 64 + u.sub.toNat) } })
    else (3, s.retireCore u.coreNo)
  | 5#4 => (3, s)
  | _ => (3, s.retireCore u.coreNo)

/-- From `s` to `t` the state of the unit may have changed, which raises vector 3 (R433). -/
def noteUnit (u : UnitName) (s t : State) : State :=
  if (s.ftRec u).map (fun r => r.state) = (t.ftRec u).map (fun r => r.state) then t else t.raiseMsix 0 3

/-- One failure of a unit, from a test or a charge (R417). -/
def chargeUnit (u : UnitName) (s : State) : State :=
  match s.ftRec u with
  | none => noteUnit u s (s.failRec 1 u)
  | some r =>
    let r1 := { r with fails := min (r.fails + 1) 0xFFFF, streak := 0, at_ := s.now }
    if r.state = 1 ∧ s.now - r.at_ < 86400 then
      let (c, t) := secondFailure u s
      noteUnit u s (t.putRec { r1 with state := c } u)
    else s.putRec r1 u

/-- The core in focus is retired (R415, R417). -/
def retireHere (s : State) : State :=
  let l := localOf s.core.id
  noteUnit (unitName 3 l 0) s (s.retireCore l)

/-- One pass of a unit: 64 passes with no failure make a suspect unit good, and its record is lost (R417, R419). -/
def passUnit (u : UnitName) (s : State) : State :=
  match s.ftRec u with
  | none => s
  | some r =>
    if r.state = 1 ∧ 63 ≤ r.streak then
      ({ s with quartz := { s.quartz with records := s.quartz.records.filter (fun x => !(x.names u)) } }).raiseMsix 0 3
    else s.putRec { r with passes := r.passes + 1, streak := r.streak + 1 } u

/-- The unit under which Quartz counts the errors of a memory core: a kind that no record has (log 20). -/
def memoryUnit (l : Nat) : UnitName :=
  { kind := 8, die := 0, cluster := BitVec.ofNat 7 (memCoreAt l / 16), core := BitVec.ofNat 4 (memCoreAt l % 16), sub := 0 }

/-- The unit that an error of the core at a local endpoint names: of a compute core a scratchpad bank, an array row, or the core; of a
steward, which R419 does not list by itself, its cluster; or the memory core (log 20). -/
def checkedUnit (l : Nat) (m : MCheck) : UnitName :=
  match kindAt l with
  | .memory => memoryUnit l
  | .steward => unitName 2 l 0
  | .compute =>
    if m.src = 2 then unitName 6 l (bitsNat m.bank 5 0)
    else if m.src = 4 ∧ bitsNat m.bank 23 0 < 34 then unitName 4 l (bitsNat m.bank 5 0)
    else unitName 3 l 0

/-- Quartz counts a corrected error of a unit (R415). -/
def countCorrected (u : UnitName) : List (UnitName × Nat) → List (UnitName × Nat)
  | [] => [(u, 1)]
  | (v, n) :: l => if v = u then (v, n + 1) :: l else (v, n) :: countCorrected u l

/-- A corrected error of a unit: counted and logged as Correctable (R403, R415). -/
def correctedError (u : UnitName) (s : State) : State :=
  State.logError { s with quartz := { s.quartz with corrected := countCorrected u s.quartz.corrected } } .correctable 0

/-- The unit under which Quartz counts the corrected errors of an HBM stack: a kind that no record has (log 20). -/
def stackUnit (pa : Nat) : UnitName := { kind := 7, die := 0, cluster := BitVec.ofNat 7 (pa / 2 ^ 36), core := 0, sub := 0 }

/-- An error of the core in focus that was corrected; a mismatch that the re-execution cleared charges the unit, if it is one of R419
(R127, R416). -/
def corrected (m : MCheck) (s : State) : State :=
  let u := checkedUnit (localOf s.core.id) m
  correctedError u (if m.src = 1 ∧ s.kind ≠ .memory then chargeUnit u s else s)

/-- The function on which an error of the cluster in focus is reported: its launch's, or its owner's (R403). -/
def homeFn (s : State) : Nat :=
  match s.launch with
  | some l => l.fn.toNat
  | none => s.unit.owner.toNat

/-- The launch of the cluster in focus is killed; without one the error is reported alone (R403, R415). -/
def lostLaunch (s : State) : State :=
  match s.unit.launch with
  | none => s.logError .nonFatal (homeFn s)
  | some id => s.kill id

/-- The launch of the cluster in focus has begun and not closed, so that a consumption aborts its phase, or is merged into an abort
(R406, R409). -/
def consumes (s : State) : Bool :=
  match s.launch with
  | none => false
  | some l => l.stage != .placed && l.stage != .closed

/-- What a machine check on the core in focus contains (R404, R406, R415); `again`: SSTATUS.mcip was set. -/
def contain (m : MCheck) (again : Bool) (s : State) : State :=
  let l := localOf s.core.id
  let s := { s with quartz := { s.quartz with checks := (s.core.id, m) :: s.quartz.checks } }
  match s.kind with
  | .memory => s.deviceFatal
  | .steward => lostLaunch (noteUnit (unitName 2 l 0) s ((s.withdraw s.unit.id).failRec 1 (unitName 2 l 0)))
  | .compute =>
    if again then lostLaunch (retireHere s)
    else
      let t := if m.src = 1 then retireHere s else chargeUnit (checkedUnit l m) s
      if consumes t then t.consume else t.logError .nonFatal (homeFn t)

end Sys2Proof.Machine
end

