-- ==== Sys2Proof/Machine/Hbm.lean ====
section
/-!
DEFINITION. HBM: translation of tenant-virtual addresses (R367 to R370), the fault queue (R373, R374), owner tags,
poison and integrity failures (R405, R420 to R424), and writes with their commit buffer (R241, R407).
-/

namespace Sys2Proof.Machine

/-! ## Blocks -/

/-- The number of the 64-byte block of a physical address. -/
def blockOf (pa : Nat) : Nat := pa / 64

/-- The metadata of a block; an unlisted block is clean and owned by tenant 0, generation 0. -/
def State.block (s : State) (b : Nat) : BlockMeta := (s.blocks.find? (fun m => m.block == b)).getD ⟨b, false, 0, 0, .clean, none⟩

/-- Block metadata put into a list in block order; metadata that say nothing are not listed. -/
def putBlock : List BlockMeta → BlockMeta → List BlockMeta
  | [], m => if m = ⟨m.block, false, 0, 0, .clean, none⟩ then [] else [m]
  | n :: l, m =>
    if m.block < n.block then (if m = ⟨m.block, false, 0, 0, .clean, none⟩ then n :: l else m :: n :: l)
    else if m.block = n.block then (if m = ⟨m.block, false, 0, 0, .clean, none⟩ then l else m :: l)
    else n :: putBlock l m

/-- The metadata of a block changed. -/
def State.mapBlock (s : State) (b : Nat) (f : BlockMeta → BlockMeta) : State :=
  { s with blocks := putBlock s.blocks (f (s.block b)) }

/-- The key generation of a tenant (R420). -/
def State.gen (s : State) (t : BitVec 5) : BitVec 3 := s.flint.gens[t.toNat]'(t.isLt)

/-- A block's owner tag is the tenant's own (R421). -/
def State.owns (s : State) (t : BitVec 5) (b : Nat) : Bool := (s.block b).tenant == t && (s.block b).gen == s.gen t

/-- The name of a tenant's MAC key, while it has one (R420). -/
def State.macKey (s : State) (t : BitVec 5) : Option (Nat × Nat) := (s.flint.keys[t.toNat]'(t.isLt)).map fun k => (s.pkg, k.draw)

/-- What the next read of a block under its owner tag finds (R420, R422): its MAC fails under another key than the one that wrote it.
DESIGN CHOICE (log 11): a MAC made under one key never passes under another. -/
def State.errAt (s : State) (b : Nat) : MemErr :=
  let m := s.block b
  if m.mac.isNone || m.mac == s.macKey m.tenant then m.err
  else
    match m.err with
    | .clean | .late | .mac => .mac
    | .corrected | .macAmb => .macAmb
    | .media => .media

/-- The physical address exists: 24 stacks of 64 GiB (R11, R367). -/
def physOk (pa : Nat) : Bool := decide (pa / 2 ^ 36 < 24)

/-- The level-3 action of the alarm (R424): keys erased, device Fatal, lifecycle locked. -/
def alarmErase (tamper : Bool) (s : State) : State :=
  if s.flint.level = 3 then s
  else
    let t := s.deviceFatal
    { t with flint := { t.flint with
        keys := .replicate 32 none, level := 3, tamper := tamper,
        life := if t.flint.life = .decommissioned then .decommissioned else .locked } }

/-- An integrity failure at virtual address `va` counted (R424). -/
def alarmCount (t : BitVec 5) (va : Nat) (src : BitVec 21) (launch : Word) (s : State) : State :=
  let n := ((assocGet s.flint.tcount t.toNat).getD 0) + 1
  let d := s.flint.count + 1
  let s1 := { s with flint := { s.flint with
    tcount := assocSet s.flint.tcount t.toNat (min n 255), count := min d 255,
    level := if s.flint.level = 0 then 1 else s.flint.level } }
  if bitsNat s.flint.almctl 15 8 ≤ d then alarmErase false s1
  else if bitsNat s.flint.almctl 7 0 ≤ n && !s.flint.contained.contains t.toNat then
    let s2 := { s1 with flint := { s1.flint with
      contained := s1.flint.contained ++ [t.toNat], level := if s1.flint.level < 2 then 2 else s1.flint.level } }
    s2.tenantFatal t.toNat 3 src launch va
  else s1

/-- An integrity failure of tenant `t` at physical address `pa` (R422, R424): its block is poisoned, the failure is reported on the
tenant's function, and Quartz logs tenant, address and class. -/
def integrityFailure (t : BitVec 5) (pa : Nat) (amb : Bool) (s : State) : State :=
  let s1 := (s.mapBlock (blockOf pa) fun m => { m with err := .clean, poison := true }).logError .nonFatal t.toNat
  { s1 with quartz := { s1.quartz with alarms := (t, pa, amb) :: s1.quartz.alarms } }

/-- A demand read under the owner tag of tenant `o` finds what the metadata of its block hold (R421, R422): nothing where the tag is
another's; a media error or an integrity failure poisons the block, and the failure is reported and counted for tenant `t`. An access
that has no virtual address names 0. -/
def examineFor (o t : BitVec 5) (va pa : Nat) (src : BitVec 21) (launch : Word) (s : State) : State :=
  let b := blockOf pa
  if (s.block b).poison || !s.owns o b then s
  else
    match s.errAt b with
    | .clean => s
    | .late => s
    | .corrected => correctedError (stackUnit pa) (s.mapBlock b fun m => { m with err := .clean })
    | .media => s.mapBlock b fun m => { m with err := .clean, poison := true }
    | .mac => alarmCount t va src launch (integrityFailure t pa false s)
    | .macAmb =>
      let s1 := integrityFailure t pa true s
      { s1 with flint := { s1.flint with
        amb := min (s1.flint.amb + 1) 0xFFFF, level := if s1.flint.level = 0 then 1 else s1.flint.level } }

/-- A demand read of a tenant's own block. -/
def examine (t : BitVec 5) (va pa : Nat) (src : BitVec 21) (launch : Word) (s : State) : State := examineFor t t va pa src launch s

/-- Bytes inside one block as tenant `t` reads them: zero where the owner tag differs (R421). -/
def readBlock (t : BitVec 5) (pa n : Nat) (s : State) : List Byte :=
  if s.owns t (blockOf pa) then s.hbm.bytes pa n else List.replicate n 0

/-- Bytes inside one block written for tenant `t`: the write claims the block, whose other bytes read as they did
for that tenant; a write of the whole block clears poison (R405, R420, R421). -/
def writeBlock (t : BitVec 5) (pa : Nat) (bs : List Byte) (s : State) : State :=
  let b := blockOf pa
  let m := if s.owns t b then s.hbm else s.hbm.clear (64 * b) 64
  let s1 := { s with hbm := m.put pa bs }
  s1.mapBlock b fun m =>
    { m with tenant := t, gen := s.gen t, poison := m.poison && bs.length != 64, err := .clean, mac := s.macKey t }

/-! ## Translation (R367 to R370) -/

/-- What a walk finds (R368): a leaf with the physical address, its write and speculation attributes and its page
size; a replayable fault with its record's why; a malformed table; or poison in the tables. -/
inductive Xlate where
  | leaf (pa : Nat) (w spec : Bool) (bits : Nat)
  | replay (why : BitVec 4)
  | malformed
  | tablePoison (pa : Nat)
  deriving DecidableEq, Repr

/-- The level-1 root of a tenant (R371). -/
def HostFn.root (h : HostFn) : Nat := bitsNat h.trootHi 8 0 * 2 ^ 32 + h.trootLo.toNat / 2 ^ 14 * 2 ^ 14

/-- The page-size bits of a level. -/
def levelBits (level : Nat) : Nat := if level = 1 then 30 else if level = 2 then 21 else 16

/-- The physical address of the entry that a walk reads in a table. -/
def entryAddr (va level table : Nat) : Nat :=
  table + 8 * (va / 2 ^ levelBits level % (if level = 1 then 2048 else if level = 2 then 512 else 32))

/-- A table entry is poison to the walker: its block, which is tenant 0's, has an uncorrectable error or an integrity failure (R405,
R413, R420, R422). -/
def entryBad (s : State) (ea : Nat) : Bool :=
  let e := s.errAt (blockOf ea)
  s.owns 0 (blockOf ea) && ((s.block (blockOf ea)).poison || e == .media || e == .mac || e == .macAmb)

/-- One level of a walk: what its entry ends the walk with, or the table of the next level. -/
def walkEntry (s : State) (va level table : Nat) : Xlate ⊕ Nat :=
  let bits := levelBits level
  let ea := entryAddr va level table
  if !physOk ea then .inl .malformed
  else if entryBad s ea then .inl (.tablePoison ea)
  else
    let e := natOfBytes (readBlock 0 ea 8 s)
    if e % 2 = 0 then .inl (.replay 1)
    else if e / 2 ^ 41 ≠ 0 ∨ e / 16 % 16 ≠ 0 then .inl .malformed
    else
      let pa := e / 256 % 2 ^ 33 * 256
      if !physOk pa then .inl .malformed
      else if e / 2 % 2 = 1 then
        if pa % 2 ^ bits ≠ 0 then .inl .malformed
        else .inl (.leaf (pa + va % 2 ^ bits) (e / 4 % 2 == 1) (e / 8 % 2 == 1) bits)
      else if level = 3 then .inl .malformed
      else if pa % (if level = 1 then 4096 else 256) ≠ 0 then .inl .malformed
      else .inr pa

/-- The levels of a walk from a table; `fuel` counts those that remain. -/
def walkFrom (s : State) (va : Nat) : Nat → Nat → Nat → Xlate
  | 0, _, _ => .malformed
  | fuel + 1, level, table =>
    match walkEntry s va level table with
    | .inl x => x
    | .inr pa => walkFrom s va fuel (level + 1) pa

/-- The entries that a walk reads, in order. -/
def walkTrail (s : State) (va : Nat) : Nat → Nat → Nat → List Nat
  | 0, _, _ => []
  | fuel + 1, level, table =>
    entryAddr va level table ::
      match walkEntry s va level table with
      | .inl _ => []
      | .inr pa => walkTrail s va fuel (level + 1) pa

/-- A walk of a tenant's tables. -/
def walk (s : State) (t va : Nat) : Xlate := walkFrom s va 3 1 (s.fn t).root

/-- What a walk by the unit at `src` finds in the metadata of the entries that it reads (R403, R422). DESIGN CHOICE (log 11): an integrity
failure there counts for the tenant whose tables they are. -/
def walkSeen (t va : Nat) (src : BitVec 21) (launch : Word) (s : State) : State :=
  ((walkTrail s va 3 1 (s.fn t).root).filter physOk).foldl (fun u ea => examineFor 0 (BitVec.ofNat 5 t) va ea src launch u) s

/-- The memory core that translates a region-0 address of this package (R369). -/
def translatorOf (va : Nat) : Nat := va / 2 ^ 16 % 768

/-- The cached leaf that a unit holds for an address (R370). -/
def atcFind (s : State) (unit t va : Nat) : Option AtcEnt :=
  s.atc.find? fun e => e.unit == unit && e.tenant.toNat == t && e.va == va / 2 ^ e.bits * 2 ^ e.bits

/-- The capacity of a unit's ATC: 512 entries at a memory core, 1,024 at a gateway (R370). -/
def atcSize (unit : Nat) : Nat := if unit < 768 then 512 else 1024

/-- A leaf cached at a unit; the oldest entry of a full ATC gives way. -/
def atcAdd (s : State) (unit t va pa bits : Nat) (w spec : Bool) : State :=
  let e : AtcEnt :=
    { unit := unit, tenant := BitVec.ofNat 5 t, va := va / 2 ^ bits * 2 ^ bits, bits := bits,
      pa := pa / 2 ^ bits * 2 ^ bits, w := w, spec := spec }
  let own := s.atc.filter fun x => x.unit == unit
  let l := if own.length < atcSize unit then s.atc else removeFirst (fun x => x.unit == unit) s.atc
  { s with atc := l ++ [e] }

/-- A translation with the ATC of `unit`: a hit answers at once, a miss walks and caches a valid leaf. -/
def translate (unit t va : Nat) (write : Bool) (src : BitVec 21) (launch : Word) (s : State) : Xlate × State :=
  let allow (x : Xlate) : Xlate := match x with
    | .leaf pa w sp b => if write && !w then .replay 2 else .leaf pa w sp b
    | y => y
  match atcFind s unit t va with
  | some e => (allow (.leaf (e.pa + va % 2 ^ e.bits) e.w e.spec e.bits), s)
  | none =>
    let u := walkSeen t va src launch s
    match walk s t va with
    | .leaf pa w sp b => (allow (.leaf pa w sp b), atcAdd u unit t va pa b w sp)
    | y => (y, u)

/-! ## The fault queue (R373, R374) -/

/-- FQCTL.en of a tenant: without it a replayable fault is non-replayable (R368). -/
def State.fqOn (s : State) (t : Nat) : Bool := (s.fn t).fqctl.getLsbD 31

/-- A fault record as its first request makes it (R373). -/
def mkRecord (s : State) (va : Nat) (kind why : BitVec 4) (src : BitVec 21) (launch phase : Word)
    (reqs : List Packet) (asks : List (BitVec 4 × BitVec 21 × Nat)) : FRec :=
  { slot := 0, va := va, kind := kind, why := why, src := src, launch := launch, phase := phase, waiters := 1,
    time := s.cycle, answered := false, reqs := reqs, asks := asks }

/-- A record written at slot head mod 64, with its interrupt (R374). -/
def fqWrite (t : Nat) (r : FRec) (s : State) : State :=
  let h := s.fn t
  let s1 := s.mapFn t fun h =>
    { h with records := h.records.filter (fun x => x.slot != h.fqhead % 64) ++ [{ r with slot := h.fqhead % 64 }],
             fqhead := (h.fqhead + 1) % 128 }
  if h.fqctl.getLsbD 30 then s1.raiseMsix t 1 else s1

/-- There is room for a record: (head - tail) mod 128 below 64, and the record that the slot held is answered. -/
def HostFn.fqRoom (h : HostFn) : Bool :=
  decide ((h.fqhead + 128 - h.fqtail) % 128 < 64) &&
    !(h.records.any fun r => r.slot == h.fqhead % 64 && !r.answered)

/-- The records of a function that match a fault: unanswered, the same 64 KiB granule and why. -/
def sameFault (va : Nat) (why : BitVec 4) (r : FRec) : Bool :=
  !r.answered && r.va / 2 ^ 16 == va / 2 ^ 16 && r.why == why

/-- A request joins a record (R374). -/
def FRec.join (x r : FRec) : FRec :=
  { x with waiters := min (x.waiters + 1) 0xFFFF, reqs := x.reqs ++ r.reqs, asks := x.asks ++ r.asks }

/-- A replayable fault of tenant `t` enters the queue: it joins a matching record, writes a new one, or waits for
room (R374). A request that is an engine's or a unit's own leaves no packet and asks again. -/
def fqEnter (t : Nat) (r : FRec) (s : State) : State :=
  let h := s.fn t
  if h.records.any (sameFault r.va r.why) then
    s.mapFn t fun h => { h with records := updateFirst (sameFault r.va r.why) (fun x => x.join r) h.records }
  else if h.fqwait.any (sameFault r.va r.why) then
    s.mapFn t fun h => { h with fqwait := updateFirst (sameFault r.va r.why) (fun x => x.join r) h.fqwait }
  else if h.fqRoom then fqWrite t r s
  else s.mapFn t fun h => { h with fqwait := h.fqwait ++ [r] }

/-- An engine's or unit's own fault enters once: while it waits in an unanswered record, asking again adds nothing. -/
def fqEnterOnce (t : Nat) (r : FRec) (s : State) : State :=
  let h := s.fn t
  let mine (x : FRec) : Bool := sameFault r.va r.why x && r.asks.all x.asks.contains
  if h.records.any mine || h.fqwait.any mine then s else fqEnter t r s

/-- Records that waited for room enter as slots free (R374). -/
def fqDrain : Nat → Nat → State → State
  | 0, _, s => s
  | n + 1, t, s =>
    match (s.fn t).fqwait with
    | [] => s
    | r :: rest =>
      if (s.fn t).fqRoom then fqDrain n t (fqWrite t r (s.mapFn t fun h => { h with fqwait := rest })) else s

/-! ## Tenant-virtual bytes -/

/-- Who reads or writes, for translation and for records; `part` tells apart the engines of one endpoint. -/
structure Who where
  tenant : Nat
  kind : BitVec 4
  src : BitVec 21
  launch : Word
  phase : Word
  part : Nat
  deriving DecidableEq, Repr

/-- The name under which an engine or unit waits in a record. -/
def Who.ask (w : Who) : BitVec 4 × BitVec 21 × Nat := (w.kind, w.src, w.part)

/-- A record of this granule in which the engine or unit waits was answered with fail (R374). -/
def failedFor (w : Who) (va : Nat) (r : FRec) : Bool := r.answered && r.va / 2 ^ 16 == va / 2 ^ 16 && r.asks.contains w.ask

/-- A failure of software's is taken by the engine or unit that it answers. -/
def takeFailure (w : Who) (va : Nat) (s : State) : State :=
  let taken (r : FRec) : FRec := if failedFor w va r then { r with asks := r.asks.filter (· != w.ask) } else r
  s.mapFn w.tenant fun h => { h with records := h.records.map taken }

/-- How a virtual access can fail: a replayable fault, recorded in the state, which waits; a non-replayable fault;
poison; or a fatal fault of the tenant. -/
inductive VErr where
  | waits (s : State)
  | fault (va : Nat) (s : State)
  | poison (va : Nat) (s : State)
  deriving DecidableEq, Repr

/-- The outcome of a virtual access. -/
abbrev VRun (α : Type) := Except VErr α

/-- The physical address of a virtual one, with its faults settled (R368, R374, R413). -/
def resolve (w : Who) (va : Nat) (write : Bool) (s : State) : VRun (Nat × State) :=
  if (s.fn w.tenant).records.any (failedFor w va) then .error (.fault va (takeFailure w va s))
  else
    match translate (translatorOf va) w.tenant va write w.src w.launch s with
    | (.leaf pa _ _ _, t) => .ok (pa, t)
    | (.malformed, t) => .error (.fault va t)
    | (.tablePoison _, t) =>
      .error (.fault va (t.tenantFatal w.tenant 1 w.src w.launch va))
    | (.replay why, t) =>
      if !t.fqOn w.tenant then .error (.fault va t)
      else .error (.waits (fqEnterOnce w.tenant (mkRecord t va w.kind why w.src w.launch w.phase [] [w.ask]) t))

/-- The pieces of a span that lie each in one block: address and length; `fuel` bounds their number. -/
def pieces : Nat → Nat → Nat → List (Nat × Nat)
  | 0, _, _ => []
  | fuel + 1, a, n =>
    if n = 0 then []
    else
      let k := min n (64 - a % 64)
      (a, k) :: pieces fuel (a + k) (n - k)

/-- The pieces of `n` bytes from `a`. -/
def piecesOf (a n : Nat) : List (Nat × Nat) := pieces (n / 64 + 2) a n

/-- Pieces read in order. -/
def readPieces (w : Who) : List (Nat × Nat) → State → VRun (List Byte × State)
  | [], s => .ok ([], s)
  | (va, n) :: l, s => do
    let (pa, s) ← resolve w va false s
    let s := examine (BitVec.ofNat 5 w.tenant) va pa w.src w.launch s
    if (s.block (blockOf pa)).poison && s.owns (BitVec.ofNat 5 w.tenant) (blockOf pa) then .error (.poison va s)
    else do
      let bs := readBlock (BitVec.ofNat 5 w.tenant) pa n s
      let (rest, s) ← readPieces w l s
      return (bs ++ rest, s)

/-- `n` bytes read from a tenant-virtual address. -/
def readVirtual (w : Who) (va n : Nat) (s : State) : VRun (List Byte × State) := readPieces w (piecesOf va n) s

/-- The 64 MiB commit buffer of a die has room for one more block of a launch (R407). The die is that of the
physical stack. -/
def commitRoom (s : State) (id : Word) (pa : Nat) : Bool :=
  let held := s.commit.filter fun h => h.pa / 2 ^ 36 == pa / 2 ^ 36
  (held.any fun h => h.launch == id && blockOf h.pa == blockOf pa) ||
    decide (((held.map fun h => blockOf h.pa).eraseDups).length < 2 ^ 20)

/-- One byte held for closure, in place of an older one. -/
def holdByte (id : Word) (s : State) (e : Nat × Byte) : State :=
  { s with commit := ⟨id, e.1, e.2⟩ :: s.commit.filter (fun h => !(h.launch == id && h.pa == e.1)) }

/-- The held bytes of one block. -/
def heldOf (s : State) (id : Word) (b : Nat) : List HeldByte :=
  s.commit.filter fun h => h.launch == id && blockOf h.pa == b

/-- The home slice of a physical address, counted from 0: stack and channel (R367). -/
def sliceOf (pa : Nat) : Nat := pa / 2 ^ 36 * 32 + pa / 256 % 32

/-- The held writes of a launch to one block are committed: a partial write, whose merge reads the block, is dropped and logged where the
block is poisoned by then (R405, R422). -/
def commitBlock (t : BitVec 5) (id : Word) (b : Nat) (s : State) : State :=
  let hs := heldOf s id b
  let s0 := { s with commit := s.commit.filter fun h => !(h.launch == id && blockOf h.pa == b) }
  let s1 := if hs.length < 64 then examine t 0 (64 * b) (s.endpoint (0x5000 + sliceOf (64 * b))) id s0 else s0
  if hs.isEmpty then s
  else if (s1.block b).poison && hs.length < 64 then s1.logError .correctable 0
  else
    let old := readBlock t (64 * b) 64 s1
    let new := (List.range 64).map fun i =>
      ((hs.find? fun h => h.pa == 64 * b + i).map (fun h => h.byte)).getD ((old[i]?).getD 0)
    writeBlock t (64 * b) new s1

/-- Everything a launch holds in the commit buffers of a set of stacks is committed (R160, R408 code 3). -/
def commitAll (t : BitVec 5) (id : Word) (sel : Nat → Bool) (s : State) : State :=
  let bs := ((s.commit.filter fun h => h.launch == id && sel h.pa).map fun h => blockOf h.pa).eraseDups
  bs.foldl (fun u b => commitBlock t id b u) s

/-- The launch whose writes are held until closure: it runs a replayable phase whose buffer has not overflowed (R407). -/
def heldFor (id : Option Word) (s : State) : Option Launch := (id.bind s.launch?).filter fun l => l.pkt.replay && !l.direct

/-- Room made for a write of a launch: a full commit buffer is emptied, and from then on the launch writes at once (R407,
R408 code 3). -/
def makeRoom (t : BitVec 5) (id : Option Word) (pa : Nat) (s : State) : State :=
  match heldFor id s with
  | none => s
  | some l =>
    if commitRoom s l.id pa then s
    else
      (commitAll t l.id (fun p => p / 2 ^ 36 == pa / 2 ^ 36) s).mapLaunch l.id fun l =>
        { l with ureason := if l.ureason == 0 then 3 else l.ureason, direct := true }

/-- Held bytes of a launch that a later write of its own covers: the older ones never reach HBM (R241). -/
def overtake (id : Option Word) (pa n : Nat) (s : State) : State :=
  { s with commit := s.commit.filter fun h => !(id == some h.launch && decide (pa ≤ h.pa) && decide (h.pa < pa + n)) }

/-- Bytes inside one block written at a physical address: held in the commit buffer in a replayable phase (R407),
else at once, in place of older ones that the launch still holds for another stack. `id` is the launch that writes, if there is one. -/
def writePhys (t : BitVec 5) (id : Option Word) (pa : Nat) (bs : List Byte) (s : State) : State :=
  match heldFor id s with
  | none => writeBlock t pa bs (overtake id pa bs.length s)
  | some l => ((List.range bs.length).map (pa + ·)).zip bs |>.foldl (holdByte l.id) s

/-- Pieces written in order. A partial write to a poisoned block is not performed and consumes (R405); one that is
held reads nothing until it is merged. -/
def writePieces (w : Who) (id : Option Word) : List (Nat × Nat) → List Byte → State → VRun State
  | [], _, s => .ok s
  | (va, n) :: l, bs, s => do
    let (pa, s) ← resolve w va true s
    let s := makeRoom (BitVec.ofNat 5 w.tenant) id pa s
    let heldLater := (heldFor id s).isSome
    let s := if n = 64 || heldLater then s else examine (BitVec.ofNat 5 w.tenant) va pa w.src w.launch s
    if (s.block (blockOf pa)).poison && n != 64 && !heldLater then .error (.poison va s)
    else writePieces w id l (bs.drop n) (writePhys (BitVec.ofNat 5 w.tenant) id pa (bs.take n) s)

/-- Bytes written to a tenant-virtual address. -/
def writeVirtual (w : Who) (id : Option Word) (va : Nat) (bs : List Byte) (s : State) : VRun State :=
  writePieces w id (piecesOf va bs.length) bs s

end Sys2Proof.Machine
end

