-- ==== Sys2Proof/Machine/Net.lean ====
section
/-!
DEFINITION. The receive ring, the overflow area and the arrival of messages (R39, R279 to R289, R298), and the
answers that reach a remote-request slot (R284, R290 to R292).
-/

namespace Sys2Proof.Machine

/-! ## Headers (R281) -/

/-- The destination endpoint of a header as written, or the source of one as delivered. -/
def hdrEp (h : DWord) : BitVec 21 := h.extractLsb' 43 21
/-- Bit 42: relaxed channel, or pad. -/
def hdrBit (h : DWord) : Bool := h.getLsbD 42
/-- The header as delivered: the source in place of the destination, pad clear. -/
def delivered (src : BitVec 21) (h : DWord) : DWord := src ++ 0#1 ++ h.extractLsb' 0 42
/-- A pad record: pad set, every other bit zero (R285). -/
def padHeader : DWord := 0x0000040000000000

/-! ## The ring (R285, R288) -/

/-- The ring's length in units, and its base byte in W0. -/
def Core.ringSize (c : Core) : Nat := (bitsNat c.csr.mrcfg 11 8 + 1) * 128
/-- The first W0 byte of the ring. -/
def Core.ringBase (c : Core) : Nat := bitsNat c.csr.mrcfg 5 0 * 4096
/-- MRCFG.en. -/
def Core.ringOn (c : Core) : Bool := c.csr.mrcfg.getLsbD 31
/-- The ring holds an unread message: wr and rd differ (R285). -/
def Core.unread (c : Core) : Bool := c.ni.wr != c.ni.rd

/-- The bytes of a message as it lies in the ring. -/
def msgBytes (m : Msg) : List Byte := bytesOf 8 m.hdr.toNat ++ m.payload

/-- A message placed by the two rows of R285; none when it has to wait. -/
def place (m : Msg) (s : State) : Option State :=
  let c := s.core
  let size := c.ringSize
  let u := hdrUnits m.hdr
  let used := (c.ni.wr + size - c.ni.rd) % size
  if u ≤ size - c.ni.wr && decide (used + u ≤ size - 1) then
    some ((s.w0Put (c.ringBase + 32 * c.ni.wr) (msgBytes m)).mapNi fun n => { n with wr := (n.wr + u) % size })
  else if size - c.ni.wr < u && decide (used + (size - c.ni.wr) + u ≤ size - 1) then
    let t := s.w0Put (c.ringBase + 32 * c.ni.wr) (bytesOf 8 padHeader.toNat)
    some ((t.w0Put c.ringBase (msgBytes m)).mapNi fun n => { n with wr := u })
  else none

/-- The read offset moved past a pad record (R288). -/
def skipPad (s : State) : State :=
  if hdrBit (BitVec.ofNat 64 (s.core.w0Read (s.core.ringBase + 32 * s.core.ni.rd) 8)) then
    s.mapNi fun n => { n with rd := 0 }
  else s

/-- The header of the record at the read offset. -/
def headHeader (s : State) : DWord := BitVec.ofNat 64 (s.core.w0Read (s.core.ringBase + 32 * s.core.ni.rd) 8)

/-! ## The overflow area (R286, R287) -/

/-- The rank of a cluster in a gang. -/
def Launch.rankOf (l : Launch) (k : Nat) : Nat := (l.gang.findIdx? (· == k)).getD 0

/-- The context region of a function: its first byte and its length (R371). -/
def HostFn.ctxBase (h : HostFn) : Nat := bitsNat h.ctxHi 8 0 * 2 ^ 32 + h.ctxLo.toNat / 2 ^ 16 * 2 ^ 16
/-- CTXSIZE in bytes. -/
def HostFn.ctxBytes (h : HostFn) : Nat := bitsNat h.ctxSize 15 0 * 2 ^ 20

/-- The bytes that the frontier image of a launch may take, in whole 64 KiB (R381). -/
def Launch.imageBytes (l : Launch) : Nat := (64 + 8 * l.nlines + 65535) / 65536 * 65536

/-- The length of a launch's context span (R381). -/
def Launch.spanBytes (l : Launch) : Nat := l.imageBytes + 65536 * l.gang.length + 524288 * 16 * l.gang.length

/-- The tenant-virtual address of a core's block in the context region (R381); `span` holds 1 plus the offset of
the launch's span, or 0 for none. -/
def coreBlock (s : State) (l : Launch) (core : Nat) : Option Nat :=
  if l.span = 0 then none
  else
    some ((s.fn l.fn.toNat).ctxBase + (l.span - 1) + l.imageBytes + 65536 * l.gang.length
      + 524288 * (16 * l.rankOf (clusterAt core) + core % 16))

/-- Units in use in the overflow area, with those freed and not yet reusable; its 128 KiB hold 4,096 (R379). -/
def NetIf.ovfUsed (n : NetIf) : Nat := n.overflow.foldl (fun a m => a + hdrUnits m.hdr) n.ovfFreed

/-- The tenant-virtual bytes of a message of `u` units that begins at unit `at_` of the overflow area, whose records follow one
another around its end (log 15): one run, or two. -/
def overflowRuns (block at_ u : Nat) : List (Nat × Nat) :=
  let i := at_ % 4096
  let k := min u (4096 - i)
  (block + 0x60000 + 32 * i, 32 * k) :: if k < u then [(block + 0x60000, 32 * (u - k))] else []

/-- The overflow area of the core in focus: who reads and writes it, and its core's block; none while the launch has no place in the
context region. DESIGN CHOICE (log 23): a steward has none, since R381 lays out blocks for compute cores alone: what it cannot place stays
held. -/
def overflowPlace (s : State) : Option (Who × Nat) :=
  (if s.compute then s.launch else none).bind fun l => (coreBlock s l (localOf s.core.id)).map fun b =>
    ({ tenant := l.fn.toNat, kind := 5, src := s.core.id, launch := l.id, phase := l.phase, part := 0 }, b)

/-- Bytes written to runs of tenant-virtual memory. -/
def writeSpans (w : Who) : List (Nat × Nat) → List Byte → State → VRun State
  | [], _, s => .ok s
  | (va, n) :: l, bs, s => do
    let s ← writeVirtual w none va (bs.take n) s
    writeSpans w l (bs.drop n) s

/-- Bytes read from runs of tenant-virtual memory. -/
def readSpans : Who → List (Nat × Nat) → State → VRun (List Byte × State)
  | _, [], s => .ok ([], s)
  | w, (va, n) :: l, s => do
    let (a, s) ← readVirtual w va n s
    let (b, s) ← readSpans w l s
    return (a ++ b, s)

/-- The overflow area could not be reached (R287): the access waits in the fault queue, a non-replayable fault ends the receiving
launch, and poison is consumed (R405). -/
def overflowFailed (w : Who) : VErr → State
  | .waits t => t
  | .fault _ t => t.kill w.launch
  | .poison _ t => t.consume

/-- A message appended to the overflow area of the core in focus, in HBM: none while it has no room or no place, or its bytes could
not be written (R286, R287). -/
def appendOverflow (m : Msg) (s : State) : Option State × State :=
  if s.core.ni.ovfUsed + hdrUnits m.hdr > 4096 then (none, s)
  else
    match overflowPlace s with
    | none => (none, s)
    | some (w, b) =>
      let at_ := s.core.ni.overflow.foldl (fun a m => a + hdrUnits m.hdr) s.core.ni.ovfAt
      match writeSpans w (overflowRuns b at_ (hdrUnits m.hdr)) (msgBytes m) s with
      | .error e => (none, overflowFailed w e)
      | .ok t =>
        let t := if m.member then t else t.unreplayable 5
        (some (t.mapNi fun n => { n with overflow := n.overflow ++ [m], ovf := true }), t)

/-- The oldest message of the overflow area as HBM holds it. -/
def readOverflow (w : Who) (b : Nat) (m : Msg) (s : State) : VRun (Msg × State) := do
  let (bs, s) ← readSpans w (overflowRuns b s.core.ni.ovfAt (hdrUnits m.hdr)) s
  return ({ m with hdr := BitVec.ofNat 64 (natOfBytes (bs.take 8)), payload := bs.drop 8 }, s)

/-- The oldest message leaves the overflow area; in a replayable phase its place is not used again before closure (R298). -/
def NetIf.leaveOverflow (n : NetIf) (keep : Bool) : NetIf :=
  match n.overflow with
  | [] => n
  | m :: rest =>
    let u := hdrUnits m.hdr
    { n with overflow := rest, ovfAt := (n.ovfAt + u) % 4096, ovfFreed := if keep then n.ovfFreed + u else n.ovfFreed }

/-- Messages of the overflow area move into the ring, oldest first, while there is room (R286). -/
def drainOverflow : Nat → State → State
  | 0, s => s
  | n + 1, s =>
    match s.core.ni.overflow with
    | [] => s.mapNi fun n => { n with ovf := false }
    | m :: _ =>
      match overflowPlace s with
      | none => s
      | some (w, b) =>
        if (place m s).isNone then s
        else
          match readOverflow w b m s with
          | .error e => overflowFailed w e
          | .ok (x, t) =>
            match place x t with
            | none => t
            | some u => drainOverflow n (u.mapNi fun n => n.leaveOverflow s.replays)

/-- The message that a packet carries, as delivered; nothing for a packet of another kind. -/
def messageOf (s : State) (p : Packet) : Option Msg :=
  match p.body with
  | .msg h payload =>
    some { hdr := delivered p.src h, payload := payload, member := (s.launch.map fun l => s.member l p.src).getD false }
  | _ => none

/-- The spill ring, of 2,048 units, has room for a message (R380). -/
def NetIf.spillRoom (n : NetIf) (m : Msg) : Bool :=
  decide (n.spill.foldl (fun a x => a + hdrUnits x.hdr) 0 + hdrUnits m.hdr ≤ 2047)

/-- A held arrival is accepted: its acknowledgement leaves (R283). -/
def acceptHeld (h : Held) (s : State) : State := if h.ack then s.answer h.packet .ack else s

/-- Held arrivals are placed, oldest first, while the ring is on and no message waits in the overflow area. -/
def placeHeld : Nat → State → State
  | 0, s => s
  | n + 1, s =>
    match s.core.ni.held with
    | [] => s.mapNi fun n => { n with heldFlag := false }
    | h :: rest =>
      if !s.core.ringOn || !s.core.ni.overflow.isEmpty then s
      else
        match messageOf s h.packet with
        | none => placeHeld n (s.mapNi fun n => { n with held := rest })
        | some m =>
          match place m s with
          | none => s
          | some t =>
            let t := if m.member then t else t.unreplayable 5
            placeHeld n (acceptHeld h (t.mapNi fun n => { n with held := rest }))

/-- Held arrivals go to the overflow area in order, as far as it takes them (R286). -/
def spillHeld : Nat → State → State
  | 0, s => s
  | n + 1, s =>
    match s.core.ni.held with
    | [] => s.mapNi fun n => { n with heldFlag := false }
    | h :: rest =>
      match messageOf s h.packet with
      | none => spillHeld n (s.mapNi fun n => { n with held := rest })
      | some m =>
        match appendOverflow m s with
        | (none, t) => t
        | (some t, _) => spillHeld n (acceptHeld h (t.mapNi fun n => { n with held := rest }))

/-- Ring space or the ring itself became free: the overflow area drains first, then held arrivals are placed. -/
def settleRing (s : State) : State :=
  if s.core.ringOn then
    let t := drainOverflow (s.core.ni.overflow.length + 1) s
    placeHeld (t.core.ni.held.length + 1) t
  else spillHeld (s.core.ni.held.length + 1) s

/-- An arrival at the core in focus (R285, R286): behind what is held or in the overflow area; into the ring; or
held by backpressure. -/
def arrive (p : Packet) (ack : Bool) (s : State) : State :=
  let h : Held := { packet := p, ack := ack, kept := false }
  if !s.core.ni.held.isEmpty then s.mapNi fun n => { n with held := n.held ++ [h] }
  else
    match messageOf s p with
    | none => s
    | some m =>
      if !s.core.ringOn || s.core.ni.ovf then
        match appendOverflow m s with
        | (some t, _) => acceptHeld h t
        | (none, t) => t.mapNi fun n => { n with held := [h], heldFlag := true }
      else
        match place m s with
        | some t => acceptHeld h (if m.member then t else t.unreplayable 5)
        | none => s.mapNi fun n => { n with held := [h], heldFlag := true }

/-! ## Configuring the ring (R39) -/

/-- Base and size fields of MRCFG. -/
def ringFields (v : Word) : Word := v &&& 0xF3F#32

/-- A write to MRCFG (R39). -/
def writeMrcfg (v : Word) (s : State) : State :=
  let old := s.core.csr.mrcfg
  if old.getLsbD 31 then
    if v.getLsbD 31 then s
    else
      (s.mapCsr fun c => { c with mrcfg := ringFields old }).mapNi fun n => { n with ringCfg := ringFields old }
  else if !v.getLsbD 31 then s.mapCsr fun c => { c with mrcfg := ringFields v }
  else
    let f := ringFields v
    let tooHigh := decide (s.core.jbase ≤ bitsNat v 5 0 + bitsNat v 11 8)
    let other := f != s.core.ni.ringCfg
    if tooHigh || (other && s.core.unread) then s.mapCsr fun c => { c with cfgerr := true }
    else
      let t := s.mapCsr fun c => { c with mrcfg := f ||| 0x80000000#32 }
      settleRing (if other then t.mapNi fun n => { n with wr := 0, rd := 0, ringCfg := f } else t)

/-! ## Answers (R284, R290, R292) -/

/-- Whether a request's refusal is reported at a later boundary (R284) rather than at an instruction that waits. -/
def reported : ReqKind → Bool
  | .msend => true
  | .rstore => true
  | .amoNr => true
  | .amoAcq => true
  | .put => true
  | .evsig => true
  | .lease => false
  | .rload => false
  | .amo => false
  | .mcmd => false
  | .radv => false
  | .take => false
  | .ttake => false

/-- An answer reaches slot `i` of the core in focus. A request that nothing waits for frees its slot, and a refusal
is reported (R284); any other answer stays in the slot for the instruction that collects it. Poison starts a phase
abort (R406). -/
def deliverReply (i : Nat) (r : Reply) (s : State) : State :=
  match s.core.ni.slot i with
  | none => s
  | some sl =>
    let t :=
      if reported sl.kind then
        let t := s.mapNi fun n => n.setSlot i none
        match r with
        | .nack sub => t.mapCore fun c => { c with refusals := c.refusals ++ [refusalValue sub i] }
        | .vfault va => t.mapCore fun c => { c with reports := c.reports ++ [⟨0x15, va, none, none⟩] }
        | _ => t
      else if sl.reply.isSome then s
      else s.mapNi fun n => n.setSlot i (some { sl with reply := some r })
    if r = .nack 2 then t.consume else t

end Sys2Proof.Machine
end

