-- ==== Sys2Proof/Machine/Sync.lean ====
section
/-!
DEFINITION. Release and fences over outstanding requests (R317, R323, R326), the cluster unit's barriers, device
groups and event lines (R310 to R314), and the SYNC group.
-/

namespace Sys2Proof.Machine
open Sys2Proof

/-! ## Outstanding requests -/

/-- What a request does to memory: it reads, it writes (R317, R326). -/
def accessOf : ReqKind → Bool × Bool
  | .rload => (true, false)
  | .rstore => (false, true)
  | .amo => (true, true)
  | .amoNr => (true, true)
  | .amoAcq => (true, true)
  | .msend => (false, true)
  | .mcmd => (false, false)
  | .radv => (false, false)
  | .take => (true, true)
  | .ttake => (true, true)
  | .put => (true, true)
  | .evsig => (false, false)
  | .lease => (false, false)

/-- An endpoint lies in the scope of the core in focus: 0 its own scratchpad, 1 cluster, 2 device, 3 system (R318, R326). -/
def inScope (s : State) (scope : Nat) (e : BitVec 21) : Bool :=
  match scope with
  | 0 => e == s.core.id
  | 1 => pkgOf e == s.pkg && decide (localOf e < 0x4400) && clusterAt (localOf e) == clusterAt (localOf s.core.id)
  | 2 => pkgOf e == s.pkg
  | _ => true

/-- The request of a slot counts as performed for its issuer: it was answered, and a refused RLOAD was collected (R317). -/
def Slot.performed (x : Slot) : Bool :=
  match x.reply with
  | none => false
  | some (.nack _) => x.kind != .rload
  | some _ => true

/-- A request of the core in focus that reads (`r`) or writes (`w`), to an endpoint in scope, is not performed. -/
def outstanding (s : State) (scope : Nat) (r w : Bool) : Bool :=
  s.core.ni.slots.toList.any fun o =>
    match o with
    | none => false
    | some sl =>
      !sl.performed && ((r && (accessOf sl.kind).1) || (w && (accessOf sl.kind).2)) && inScope s scope sl.packet.dst

/-- Every earlier access in scope is performed: a release at that scope may go ahead (R323, R326). Accesses of the core's own
memories are performed when they issue (log 6). -/
def released (s : State) (scope : Nat) : Bool := !(outstanding s scope true true)

/-- Every earlier request of the core in focus to an endpoint in scope is answered: the issue of an engine command may go ahead. Its
release is to the core's own engines (R214, R318, R323), and a remote slot that waits delays no command on local operands (R362). -/
def settledFor (s : State) (scope : Nat) : Bool :=
  !(s.core.ni.slots.toList.any fun o =>
    match o with
    | none => false
    | some sl => sl.reply.isNone && ((accessOf sl.kind).1 || (accessOf sl.kind).2) && inScope s scope sl.packet.dst)

/-- The trap by which the leader of a pair left the instruction that the core in focus, its follower, issues (R169). -/
def leaderTrap (s : State) : Option (Nat × Word) :=
  if s.pairFollower then s.core.lag.head?.bind (fun e => e.trapped) else none

/-- What the leader of a pair received where the core in focus, its follower, issues the same instruction: only
the leader's request leaves (R168). -/
def leaderValue (s : State) : Option DWord :=
  if s.pairFollower then s.core.lag.head?.map (fun e => e.value) else none

/-- What an instruction does on a follower of a pair that leaves its effect to the leader: it traps as the leader did (R169), or
`f` is done. -/
def followed (f : State → Run α) (s : State) : Run α :=
  match leaderTrap s with
  | some (c, v) => .error (.trap c v)
  | none => f s

/-! ## Members -/

/-- The member number of the core in focus: a compute core 0 to 15, the steward 16 (R310). -/
def memberNo (s : State) : Nat := if s.compute then localOf s.core.id % 16 else 16

/-- Generation `a` is after generation `b`: the signed difference is positive (R313). -/
def genAfter (a b : Word) : Bool := decide (0 < (a - b).toInt)

/-! ## Barriers of a cluster (R311, R313) -/

/-- Barrier `n`. -/
def barOf (u : Cluster) (n : Nat) : Barrier := (u.bars[n]?).getD .reset

/-- A barrier closes when its generation holds an arrival and every member has arrived (R311). -/
def closeBar (b : Barrier) : Barrier :=
  if b.arrived != 0 && (b.members &&& ~~~b.arrived) == 0 then { b with gen := b.gen + 1, arrived := 0 } else b

/-- The barrier with the arrival of member `m`. -/
def arriveBar (m : Nat) (b : Barrier) : Barrier := closeBar { b with arrived := b.arrived ||| BitVec.ofNat 17 (2 ^ m) }

/-! ## Device groups (R311, R313) -/

/-- Group `n` of the launch in focus; without a launch a group has no part. -/
def groupOf (s : State) (n : Nat) : Group := ((s.launch.bind fun l => l.groups[n]?)).getD .reset

/-- Group `n` changed. -/
def mapGroup (n : Nat) (f : Group → Group) (s : State) : State :=
  s.mapMyLaunch fun l => { l with groups := vmod l.groups n f }

/-- The rank of the cluster in focus. -/
def myRank (s : State) : Nat := (s.launch.map fun l => l.rankOf s.unit.id).getD 0

/-- The part of a rank. -/
def Group.part (g : Group) (r : Nat) : GroupPart := (g.parts.find? (fun p => p.rank == r)).getD ⟨r, 0, 0⟩

/-- The part of a rank replaced. -/
def Group.setPart (g : Group) (p : GroupPart) : Group := { g with parts := p :: g.parts.filter (fun q => q.rank != p.rank) }

/-- A group closes when its generation holds an arrival and every member of every part has arrived. -/
def closeGroup (g : Group) : Group :=
  if g.parts.any (fun p => p.arrived != 0) && g.parts.all (fun p => (p.members &&& ~~~p.arrived) == 0) then
    { gen := g.gen + 1, parts := g.parts.map fun p => { p with arrived := 0 } }
  else g

/-! ## Both levels -/

/-- Generation, members and arrivals of this cluster, of a barrier (level 0) or a group (level 1). -/
def syncView (s : State) (level : Bool) (n : Nat) : Barrier :=
  if level then
    let g := groupOf s n
    let p := g.part (myRank s)
    { gen := g.gen, members := p.members, arrived := p.arrived }
  else barOf s.unit n

/-- The arrival of the core in focus recorded. -/
def arriveAt (level : Bool) (n : Nat) (s : State) : State :=
  let v := syncView s level n
  let m := BitVec.ofNat 17 (2 ^ memberNo s)
  if level then
    mapGroup n (fun g => closeGroup (g.setPart { rank := myRank s, members := v.members, arrived := v.arrived ||| m })) s
  else s.mapUnit fun u => { u with bars := vmod u.bars n (arriveBar (memberNo s)) }

/-- This cluster's members set. -/
def setMembers (level : Bool) (n : Nat) (m : BitVec 17) (s : State) : State :=
  if level then mapGroup n (fun g => closeGroup (g.setPart { rank := myRank s, members := m, arrived := 0 })) s
  else s.mapUnit fun u => { u with bars := vmod u.bars n fun b => closeBar { b with members := m } }

/-- A bit of a member set. -/
def hasMember (v : BitVec 17) (m : Nat) : Bool := v.getLsbD m

/-- A load of BARW or GRPW (R310): the generation, once the core has no open arrival. -/
def portBarrier (level : Bool) (n : Nat) (s : State) : Run (Word × State) :=
  match leaderValue s with
  | some v => .ok (v.lo, s)
  | none =>
    let v := syncView s level n
    if hasMember v.arrived (memberNo s) then .error (.wait s) else .ok (v.gen, s)

/-! ## Event lines (R310, R314) -/

/-- Event line `n`. -/
def evOf (u : Cluster) (n : Nat) : EvLine := (u.evs[n]?).getD .reset

/-- Event line `n` of the cluster in focus changed. -/
def mapEv (n : Nat) (f : EvLine → EvLine) (s : State) : State := s.mapUnit fun u => { u with evs := vmod u.evs n f }

/-- A list with `m` at its end, once. -/
def enlist (l : List Nat) (m : Nat) : List Nat := if l.contains m then l else l ++ [m]

/-- EVWAIT on line `n`: the count taken, when the line has a signal and no older waiter; otherwise the core waits. -/
def evWait (n : Nat) (s : State) : Run (Word × State) :=
  let e := evOf s.unit n
  let m := memberNo s
  match leaderValue s with
  | some v => .ok (v.lo, s)
  | none =>
    if 0 < e.count ∧ (e.waiters = [] ∨ e.waiters.head? = some m) then
      .ok (BitVec.ofNat 32 e.count,
        mapEv n (fun e => { e with count := e.count - 1, waiters := e.waiters.filter (fun w => w != m) }) s)
    else .error (.wait (mapEv n (fun e => { e with waiters := enlist e.waiters m }) s))

/-- One signal of a line (R314). -/
def evSignal (e : EvLine) : EvLine := if e.count = 255 then { e with ovf := true } else { e with count := e.count + 1 }

/-- EVSIG of line `n` in the own cluster: a release at cluster scope. -/
def evSigOwn (n : Nat) (s : State) : Run State :=
  if !released s 1 then .error (.wait s)
  else if s.pairFollower then .ok s
  else .ok (mapEv n evSignal s)

/-- EVLOCK of line `n`; `word` is the trap value of an owner that locks again. -/
def evLock (n : Nat) (word : Word) (s : State) : Run State :=
  let e := evOf s.unit n
  let m := memberNo s
  if s.pairFollower then followed .ok s
  else
    match e.owner with
    | none => .ok (mapEv n (fun e => { e with owner := some m, lockers := e.lockers.filter (fun w => w != m) }) s)
    | some o =>
      if o = m then
        if e.lockers.contains m then .ok (mapEv n (fun e => { e with lockers := e.lockers.filter (fun w => w != m) }) s)
        else .error (.trap 0x13 word)
      else .error (.wait (mapEv n (fun e => { e with lockers := enlist e.lockers m }) s))

/-- EVUNLOCK of line `n`: the mutex goes to the oldest requester, or is free. -/
def evUnlock (n : Nat) (word : Word) (s : State) : Run State :=
  let e := evOf s.unit n
  if s.pairFollower then followed .ok s
  else if e.owner = some (memberNo s) then
    if !released s 1 then .error (.wait s)
    else .ok (mapEv n (fun e => { e with owner := e.lockers.head? }) s)
  else .error (.trap 0x13 word)

/-! ## The SYNC group -/

/-- ARRIVE (R313): a release at cluster scope, or device scope for a group, then the arrival; a member that has arrived waits for the next generation. -/
def execArrive (d : Reg) (l : Bool) (n : BitVec 5) : State → Host.Outcome State Fault Refusal :=
  fun s => perform (.arrive d l n) s.notMemory (fun s =>
    if !released s (if l then 2 else 1) then .error (.wait s)
    else
      match leaderValue s with
      | some v => followed (fun s => .ok (s.setX d v.lo)) s
      | none =>
        let v := syncView s l n.toNat
        if !hasMember v.members (memberNo s) then .error (.trap 0x13 (wordOf (.arrive d l n)))
        else if hasMember v.arrived (memberNo s) then .error (.wait s)
        else .ok ((arriveAt l n.toNat s).setX d v.gen)) s

/-- BWAIT (R313). -/
def execBwait (a : Reg) (l : Bool) (n : BitVec 5) : State → Host.Outcome State Fault Refusal :=
  fun s => perform (.bwait a l n) s.notMemory (fun s =>
    if s.pairFollower || genAfter (syncView s l n.toNat).gen (s.x a) then .ok s else .error (.wait s)) s

/-- BGROUP (R313): the member part changes while it holds no arrival. -/
def execBgroup (a : Reg) (l : Bool) (n : BitVec 5) : State → Host.Outcome State Fault Refusal :=
  fun s => perform (.bgroup a l n) s.notMemory (fun s =>
    let v := syncView s l n.toNat
    if s.pairFollower then followed .ok s
    else if v.arrived = 0 then .ok (setMembers l n.toNat ((s.x a).extractLsb' 0 17) s)
    else if hasMember v.members (memberNo s) && !hasMember v.arrived (memberNo s) then
      .error (.trap 0x13 (wordOf (.bgroup a l n)))
    else .error (.wait s)) s

/-- EVWAIT (R314). -/
def execEvwait (d : Reg) (n : BitVec 5) : State → Host.Outcome State Fault Refusal :=
  fun s => perform (.evwait d n) s.notMemory (fun s => do
    let (v, s) ← evWait n.toNat s
    return s.setX d v) s

/-- EVLOCK (R314). -/
def execEvlock (n : BitVec 5) : State → Host.Outcome State Fault Refusal :=
  fun s => perform (.evlock n) s.notMemory (evLock n.toNat (wordOf (.evlock n))) s

/-- EVUNLOCK (R314). -/
def execEvunlock (n : BitVec 5) : State → Host.Outcome State Fault Refusal :=
  fun s => perform (.evunlock n) s.notMemory (evUnlock n.toNat (wordOf (.evunlock n))) s

end Sys2Proof.Machine
end

