-- ==== Sys2Proof/Machine/Fabric.lean ====
section
/-!
DEFINITION. Fabric addresses (R22, R25, R279), and the shape of an instruction that waits for its own reply.
-/

namespace Sys2Proof.Machine
open Sys2Proof

/-- Package of a fabric address. -/
def faPkg (a : DWord) : Nat := (a.extractLsb' 58 6).toNat
/-- Region of a fabric address. -/
def faRegion (a : DWord) : Nat := (a.extractLsb' 55 3).toNat
/-- The window, local or sync-space address below the index of a region-1 to region-4 address. -/
def faLocal (a : DWord) : Nat := (a.extractLsb' 0 24).toNat
/-- The ten-bit index of a region-2, region-3 or region-4 address. -/
def faIndex (a : DWord) : Nat := (a.extractLsb' 24 10).toNat

/-- The fields shown as zero are zero, and the index lies in its range (R22, R25). -/
def faValid (a : DWord) : Bool :=
  match faRegion a with
  | 0 => a.extractLsb' 41 14 == 0
  | 1 => a.extractLsb' 38 17 == 0
  | 2 => a.extractLsb' 34 21 == 0 && a.extractLsb' 20 4 == 0 && decide (faIndex a < 768)
  | 3 => a.extractLsb' 34 21 == 0
  | 4 => a.extractLsb' 34 21 == 0 && decide (faIndex a < 768)
  | 5 => a.extractLsb' 32 23 == 0
  | _ => false

/-- The endpoint that serves a region-1 to region-5 address (R22). -/
def faEndpoint (a : DWord) : BitVec 21 :=
  let l := match faRegion a with
    | 1 => (a.extractLsb' 24 14).toNat
    | 2 => 0x5000 + faIndex a
    | 3 => 0x4000 + faIndex a
    | 4 => 0x4800 + faIndex a
    | _ => 0x7FFF
  BitVec.ofNat 21 (faPkg a * 0x8000 + l)

/-- The core in focus may send a remote access to the address: R25, and R279 for a compute core in user mode. -/
def faAllowed (s : State) (a : DWord) : Bool :=
  faValid a && (!(s.compute && s.inUser) || faRegion a == 1 || faRegion a == 2)

/-- The bits of a fabric address that are shown as zero (R22). -/
def faZero (a : DWord) : Nat :=
  match faRegion a with
  | 0 => (a.extractLsb' 41 14).toNat
  | 1 => (a.extractLsb' 38 17).toNat
  | 2 => (a.extractLsb' 34 21).toNat * 16 + (a.extractLsb' 20 4).toNat
  | 5 => (a.extractLsb' 32 23).toNat
  | _ => (a.extractLsb' 34 21).toNat

/-- Where a request for an address of another package enters it: its endpoint, or a gateway for HBM. DESIGN CHOICE (log 23): the
gateway is the one that virtual bits 40:36 name, modulo 16. -/
def peerEndpoint (a : DWord) : BitVec 21 :=
  if faRegion a = 0 then BitVec.ofNat 21 (faPkg a * 0x8000 + 0x7F00 + faVirtual a / 2 ^ 36 % 16) else faEndpoint a

/-- How another package refuses what reaches it, which the `n`-th free value says (log 12); none where it performs it: NACK (R24, R185), poison
of HBM (R405), a translation fault (R368), an unmapped tenant (R365), or a refusal for a retry (R293, R309). -/
def peerRefusal (n : Nat) (b : Body) : Option Reply :=
  let r : Nat := match b with
    | .load a _ | .store a _ _ | .amo _ _ a _ _ | .read a _ | .write a _ => faRegion a
    | _ => 1
  let again : Bool := match b with
    | .amo _ _ _ _ _ | .take _ | .put _ _ => true
    | _ => false
  let va : Nat := match b with
    | .amo _ _ a _ _ | .read a _ | .write a _ => faVirtual a
    | _ => 0
  match (Config.peerAnswer n).1.toNat with
  | 1 => some (.nack 1)
  | 2 => if r = 0 ∨ r = 2 then some (.nack 2) else none
  | 3 => if r = 0 then some (.vfault (BitVec.ofNat 32 (va / 512))) else none
  | 4 => some (.nack 4)
  | 5 => if again then some (.nack 0) else none
  | _ => none

/-- How a refused piece ends its row (R130, R232, R368). A refusal of another package does not tell the check of R24 from another NACK: a
free value says which it was (log 12). -/
def rowEnd (n : Nat) (r : Reply) : Option RowEnd :=
  match r with
  | .nack 2 => some (.code 4)
  | .nack _ => some (.code (if (Config.openWord n).getLsbD 0 then 2 else 3))
  | .vfault va => some (.xlate (512 * va.toNat))
  | .data _ | .ack => none

/-- A request that goes to a core outside the gang, or to another package, leaves the gang's journals (R408, 4). -/
def leavesGang (s : State) (dst : BitVec 21) : Bool :=
  pkgOf dst != s.pkg ||
    (decide (localOf dst < 0x5000) && !((s.launch.map fun l => s.member l dst).getD false))

/-- The phase becomes unreplayable if the request leaves the gang's journals. -/
def noteLeaving (dst : BitVec 21) (s : State) : State :=
  if s.compute && leavesGang s dst then s.unreplayable 4 else s

/-- A request to another package makes the phase unreplayable (R408, 4). -/
def notePeer (dst : BitVec 21) (s : State) : State := if s.compute && pkgOf dst != s.pkg then s.unreplayable 4 else s

/-- The slot that the instruction in progress holds: one of kind `k`. -/
def slotOf (s : State) (k : ReqKind) : Option (Nat × Slot) :=
  (List.range 32).findSome? fun i =>
    match s.core.ni.slot i with
    | some sl => if sl.kind = k then some (i, sl) else none
    | none => none

/-- Slot `i` freed. -/
def freeSlotAt (i : Nat) (s : State) : State := s.mapNi fun n => n.setSlot i none

/-- What an instruction does once it is answered by a refusal (R130); a CB.RADV or MCMD that waited too long retires, and its
refusal is reported at a later boundary (R284, R292). -/
def refused (k : ReqKind) (sub : BitVec 4) (i : Nat) (s : State) : Run State :=
  if (k = .mcmd ∨ k = .radv) ∧ sub = 3 then
    .ok ((freeSlotAt i s).mapCore fun c => { c with refusals := c.refusals ++ [refusalValue sub i] })
  else .error (.trapIn 0x0B (refusalValue sub i) (freeSlotAt i s))

/-- A request sent from the slot that the instruction takes, the lowest free one; the slot is taken before the wait for `ready`
(R283, R292). -/
def sendOnce (ready : Bool) (start : Nat → State → State) (sent : State → Run State) (s : State) : Run State :=
  match s.core.ni.ownSlot with
  | none => .error (.wait s)
  | some i => if ready then sent (start i (s.reserve none)) else .error (.wait (s.reserve (some i)))

/-- An instruction that takes a slot, sends a request and waits for its reply (R290, R305): `ready` says that it may
send, `start i` sends from slot `i`, and `done` uses the reply. A refusal raises cause 0x0B with subcode and slot, a
translation fault cause 0x15 (R130). The follower of a pair gets what its leader got (R168). -/
def roundTrip (k : ReqKind) (ready : Bool) (start : Nat → State → State) (done : DWord → State → State)
    (s : State) : Run State :=
  match leaderValue s, slotOf s k with
  | some v, _ =>
    match leaderTrap s with
    | some (c, w) => .error (.trapIn c w (start 0 s))
    | none => .ok (done v (start 0 s))
  | none, some (i, sl) =>
    match sl.reply with
    | none => .error (.wait s)
    | some (.data v) => .ok (done v (freeSlotAt i s))
    | some .ack => .ok (done 0 (freeSlotAt i s))
    | some (.nack sub) => refused k sub i s
    | some (.vfault va) => .error (.trapIn 0x15 va (freeSlotAt i s))
  | none, none => sendOnce ready start (fun t => .error (.wait t)) s

/-- A request that retires once it is sent (R291, R305). -/
def posted (ready : Bool) (start : Nat → State → State) (s : State) : Run State :=
  if s.pairFollower then .ok (start 0 s) else sendOnce ready start .ok s

/-- A signal sent to another cluster of the gang (R314): a slot, a release at device scope; a rank that the gang
does not have is refused. -/
def evSigRemote (n : BitVec 5) (rank : Nat) (s : State) : Run State :=
  posted (released s 2) (fun i t =>
    match (t.launch.bind fun l => l.gang[rank]?) with
    | none => t.refuseRequest i .evsig true (.evsig rank n)
    | some k => t.request i .evsig (t.endpoint (0x4000 + k)) true (.evsig rank n)) s

/-- EVSIG (R314): rs1 = x0 names the own cluster. -/
def execEvsig (a : Reg) (n : BitVec 5) : State → Host.Outcome State Fault Refusal :=
  fun s => perform (.evsig a n) s.notMemory (fun s =>
    if a = 0 then evSigOwn n.toNat s else evSigRemote n (bitsNat (s.x a) 9 0) s) s

/-! ## The order of requests (R294, R321) -/

/-- The packet travels the ordered channel of its source and target. -/
def isOrdered (p : Packet) : Bool := flowOf p.body == some false

/-- A translated request is on its way to its home slice (R369). -/
def isForward (p : Packet) : Bool :=
  match p.body with
  | .amoPhys _ _ _ _ _ _ _ => true
  | .readPhys _ _ _ _ => true
  | .writePhys _ _ _ _ => true
  | _ => false

/-- The target that a request was issued to: for a forwarded one, the unit that translated it. -/
def issuedTo (p : Packet) : BitVec 21 :=
  match p.body with
  | .amoPhys via _ _ _ _ _ _ => via
  | .readPhys via _ _ _ => via
  | .writePhys via _ _ _ => via
  | _ => p.dst

/-- Requests of a tenant that wait in a fault record or for room in the queue. -/
def faulted (s : State) (t : Nat) : List Packet :=
  ((s.fn t).records ++ (s.fn t).fqwait).foldr (fun r l => r.reqs ++ l) []

/-- The bytes that a request names, as an interval of fabric addresses. -/
def bytesNamed (b : Body) : Option (Nat × Nat) :=
  match b with
  | .load a z => some (a.toNat, z)
  | .store a z _ => some (a.toNat, z)
  | .amo _ _ a _ _ => some (a.toNat, 4)
  | .take a => some (a.toNat, 4)
  | .ttake a _ => some (a.toNat, 4)
  | .put a _ => some (a.toNat, 4)
  | .read a n => some (a.toNat, n)
  | .write a bs => some (a.toNat, bs.length)
  | _ => none

/-- Two requests name a common byte. -/
def sameBytes (a b : Body) : Bool :=
  match bytesNamed a, bytesNamed b with
  | some x, some y => decide (x.1 < y.1 + y.2) && decide (y.1 < x.1 + x.2)
  | _, _ => false

/-- The reply that ends the request of a slot is on its way. -/
def replyComes (s : State) (x : Slot) : Bool :=
  (s.fabric ++ s.lightIn.map fun f => f.packet).any fun p =>
    p.dst == x.packet.src && p.slot == x.packet.slot && (match p.body with
      | .reply r => r != .nack 0
      | _ => false)

/-- A message, and a request that names bytes of its receiver: whether the message comes to lie on them is settled when it is accepted. -/
def messageMeets (x y : Packet) : Bool :=
  match x.body with
  | .msg _ _ => x.dst == y.dst && (bytesNamed y.body).isSome
  | _ => false

/-- Of two requests of one core, the later waits for the earlier: to one target on an ordered channel (R294), or to the same
bytes (R321). -/
def ordered (x y : Packet) : Bool := (isOrdered x && isOrdered y && x.dst == y.dst) || sameBytes x.body y.body || messageMeets x y

/-- An earlier request of the same core that has to be performed first is not, wherever it stands; for a source in another
package, an earlier ordered request to the same target. -/
def behind (s : State) (p : Packet) : Bool :=
  if pkgOf p.src = s.pkg then
    let n := (s.coreAt (localOf p.src)).ni
    match flowOf p.body, n.slot p.slot.toNat with
    | some _, some x =>
      (n.order.takeWhile (· != p.slot.toNat)).any fun j =>
        match n.slot j with
        | some y => y.reply.isNone && !replyComes s y && ordered y.packet x.packet
        | none => false
    | _, _ => false
  else
    let same (q : Packet) : Bool := isOrdered q && q.src == p.src && issuedTo q == issuedTo p
    isOrdered p &&
      ((s.fabric.takeWhile fun q => q != p).any same ||
        (!isForward p &&
          ((s.fabric.any fun q => isForward q && same q) || (s.walks.any fun w => same w.packet) ||
            (faulted s p.tenant.toNat).any same)))

end Sys2Proof.Machine
end

