-- ==== Sys2Proof/Machine/Message.lean ====
section
/-!
DEFINITION. The MSG group (R282 to R284, R288, R290, R291, R295, R296) and the remote full/empty ports (R308).
-/

namespace Sys2Proof.Machine
open Sys2Proof

/-- Bits 31:0 of a fabric address, as a trap value. -/
def faLow (a : DWord) : Word := a.lo

/-- A remote access sent in slot `i`, or refused by the own network interface (R25, R279). -/
def sendAccess (i : Nat) (k : ReqKind) (a : DWord) (body : Body) (s : State) : State :=
  if faAllowed s a then s.request i k (faEndpoint a) true body else s.refuseRequest i k true body

/-- The checks of RLOAD and RSTORE: no path to HBM, and alignment (R290, R291). -/
def remoteCheck (a : DWord) (z : Nat) (store : Bool) : Option (Nat × Word) :=
  if faRegion a = 0 then some (if store then 7 else 5, faLow a)
  else if a.toNat % z ≠ 0 then some (if store then 6 else 4, faLow a)
  else none

/-- The size of an access with or without `.d`. -/
def sizeOf (p : Bool) : Nat := if p then 8 else 4

/-- RLOAD (R290): the slot number goes to rd. -/
def execRload (d a : Reg) (p : Bool) : State → Host.Outcome State Fault Refusal :=
  perform (.rload d a p) true fun s =>
    match remoteCheck (s.xp a) (sizeOf p) false with
    | some (c, v) => .error (.trap c v)
    | none =>
      posted true (fun i t =>
        (notePeer (faEndpoint (s.xp a)) (sendAccess i .rload (s.xp a) (.load (s.xp a) (sizeOf p)) t)).setX d
          (((leaderValue s).map fun v => v.lo).getD (BitVec.ofNat 32 i))) s

/-- The slot holds an uncollected RLOAD of size `z`. -/
def isLoadSlot (sl : Slot) (z : Nat) : Bool :=
  match sl.packet.body with
  | .load _ n => sl.kind == .rload && n == z
  | _ => false

/-- A loaded value collected from slot `i` into `d`, or into its pair. -/
def loaded (p : Bool) (d : Reg) (i : Nat) (v : DWord) (s : State) : State :=
  if p then (freeSlotAt i s).setXp d v else (freeSlotAt i s).setX d v.lo

/-- RWAIT (R290). -/
def execRwait (d a : Reg) (p : Bool) : State → Host.Outcome State Fault Refusal :=
  perform (.rwait d a p) true fun s =>
    let i := bitsNat (s.x a) 4 0
    match leaderValue s, s.core.ni.slot i with
    | some v, _ =>
      match leaderTrap s with
      | some (c, w) => .error (.trap c w)
      | none => .ok (if p then s.setXp d v else s.setX d v.lo)
    | none, none => .error (.trap 2 (wordOf (.rwait d a p)))
    | none, some sl =>
      if !isLoadSlot sl (sizeOf p) then .error (.trap 2 (wordOf (.rwait d a p)))
      else
        match sl.reply with
        | none => .error (.wait s)
        | some (.data v) => .ok (loaded p d i v s)
        | some .ack => .ok (loaded p d i 0 s)
        | some (.nack sub) => .error (.trapIn 0x0B (refusalValue sub i) (freeSlotAt i s))
        | some (.vfault va) => .error (.trapIn 0x15 va (freeSlotAt i s))

/-- RSTORE (R291). -/
def execRstore (a b : Reg) (p : Bool) : State → Host.Outcome State Fault Refusal :=
  perform (.rstore a b p) true fun s =>
    match remoteCheck (s.xp a) (sizeOf p) true with
    | some (c, v) => .error (.trap c v)
    | none =>
      let v : DWord := if p then s.xp b else (s.x b).setWidth 64
      posted true (fun i t =>
        (noteLeaving (faEndpoint (s.xp a)) (sendAccess i .rstore (s.xp a) (.store (s.xp a) (sizeOf p) v) t)).sign
          (bytesOf 8 (s.xp a).toNat ++ bytesOf (sizeOf p) v.toNat)) s

/-- The header in NIBUF. -/
def nibufHeader (s : State) : DWord := BitVec.ofNat 64 (s.core.ni.buf.read 0 8)

/-- The message in NIBUF sent from slot `i` (R283). -/
def sendMessage (i : Nat) (s : State) : State :=
  let h := nibufHeader s
  let payload := s.core.ni.buf.bytes 8 (32 * hdrUnits h - 8)
  let t := (s.request i .msend (hdrEp h) true (.msg h payload)).mapNi fun n => { n with sent := n.sent + 1 }
  (noteLeaving (hdrEp h) t).sign (bytesOf 8 h.toNat ++ payload)

/-- Every earlier RSTORE, remote AMO and MSEND of the core is acknowledged (R283). -/
def acknowledged (s : State) : Bool :=
  s.core.ni.slots.toList.all fun o => match o with
    | none => true
    | some x => x.reply.isSome || !(x.kind == .rstore || x.kind == .amo || x.kind == .amoNr || x.kind == .amoAcq || x.kind == .msend)

/-- The scope of an endpoint: its cluster's, the package's or the system's (R283). -/
def scopeOf (s : State) (e : BitVec 21) : Nat := if inScope s 1 e then 1 else if inScope s 2 e then 2 else 3

/-- MSEND (R283): takes a slot, waits for earlier requests, snapshots NIBUF and sends; a release at the destination's scope. -/
def execMsend (s : State) : Host.Outcome State Fault Refusal :=
  perform .msend true
    (fun s => posted (acknowledged s && released s (scopeOf s (hdrEp (nibufHeader s)))) sendMessage s) s

/-- MRECV (R288). -/
def execMrecv (d : Reg) : State → Host.Outcome State Fault Refusal :=
  perform (.mrecv d) true fun s =>
    if !s.core.ringOn then .error (.trap 2 (wordOf (.mrecv d)))
    else if !s.core.unread then .error (.wait s)
    else
      let t := skipPad s
      .ok (t.setX d (BitVec.ofNat 32 (t.core.ringBase + 32 * t.core.ni.rd)))

/-- The message at the read offset consumed (R288). -/
def popMessage (s : State) : State :=
  if !s.core.unread then s
  else
    let t := skipPad s
    let u := hdrUnits (headHeader t)
    settleRing (t.mapNi fun n => { n with rd := (n.rd + u) % t.core.ringSize })

/-- MPOP (R288). -/
def execMpop (s : State) : Host.Outcome State Fault Refusal := performPure .mpop true popMessage s

/-! ## Field layouts (R295, R296) -/

/-- The field widths of a layout record: its bytes before the first zero byte. -/
def widthsOf (r : DWord) : List Nat := ((bytesOf 8 r.toNat).takeWhile (fun b => b != 0)).map (fun b => b.toNat)

/-- A valid record: zero bytes only after the fields, widths up to 64, their sum up to 64. -/
def validLayout (r : DWord) : Bool :=
  let w := widthsOf r
  ((bytesOf 8 r.toNat).drop w.length).all (fun b => b == 0) && w.all (fun n => decide (n ≤ 64)) &&
    decide (w.foldl (· + ·) 0 ≤ 64)

/-- The registers that a field of a width uses. -/
def fieldRegs (w : Nat) : Nat := if 32 < w then 2 else 1

/-- The registers that a layout uses. -/
def layoutRegs (ws : List Nat) : Nat := (ws.map fieldRegs).foldl (· + ·) 0

/-- Fields taken from consecutive registers, the first at bit `pos`. -/
def packFields (s : State) : List Nat → Nat → Nat → Nat
  | [], _, _ => 0
  | w :: ws, r, pos =>
    let lo := (s.x (BitVec.ofNat 5 r)).toNat
    let v := if 32 < w then lo + 2 ^ 32 * (s.x (BitVec.ofNat 5 (r + 1))).toNat else lo
    v % 2 ^ w * 2 ^ pos + packFields s ws (r + fieldRegs w) (pos + w)

/-- Fields written to consecutive registers. -/
def parseFields (v : Nat) : List Nat → Nat → Nat → State → State
  | [], _, _, s => s
  | w :: ws, r, pos, s =>
    let f := v / 2 ^ pos % 2 ^ w
    let t := s.setX (BitVec.ofNat 5 r) (BitVec.ofNat 32 f)
    let t := if 32 < w then t.setX (BitVec.ofNat 5 (r + 1)) (BitVec.ofNat 32 (f / 2 ^ 32)) else t
    parseFields v ws (r + fieldRegs w) (pos + w) t

/-- The widths of layout `l`. -/
def layoutOf (s : State) (l : BitVec 3) : List Nat := widthsOf (s.core.layouts[l.toNat]'(l.isLt))

/-- HDR.PACK (R296). -/
def execHdrPack (d a : Reg) (l : BitVec 3) : State → Host.Outcome State Fault Refusal :=
  perform (.hdrPack d a l) true fun s =>
    let ws := layoutOf s l
    if 32 < a.toNat + layoutRegs ws then .error (.trap 2 (wordOf (.hdrPack d a l)))
    else .ok (s.setXp d (BitVec.ofNat 64 (packFields s ws a.toNat 0)))

/-- HDR.PARSE (R296). -/
def execHdrParse (d a : Reg) (l : BitVec 3) : State → Host.Outcome State Fault Refusal :=
  perform (.hdrParse d a l) true fun s =>
    let ws := layoutOf s l
    if 32 < d.toNat + layoutRegs ws then .error (.trap 2 (wordOf (.hdrParse d a l)))
    else .ok (parseFields (s.xp a).toNat ws d.toNat 0 s)

/-- A W0 address checked as a load or store of `n` bytes, at a multiple of `al`: the cause, if a check fails. The
order is that of R182. -/
def checkW0 (s : State) (a n al : Nat) (store : Bool) : Option Nat :=
  let acc : Access := ⟨n, store, false⟩
  if s.area a ≠ .w0 ∨ 0x40000 < a + n then some (if store then 7 else 5)
  else if a % al ≠ 0 then some (if store then 6 else 4)
  else checkAccess s a acc

/-- HDR.LAY (R295). -/
def execHdrLay (a : Reg) (l : BitVec 3) : State → Host.Outcome State Fault Refusal :=
  perform (.hdrLay a l) true fun s =>
    match checkW0 s (s.x a).toNat 8 8 false with
    | some c => .error (.trap c (s.x a))
    | none =>
      let r : DWord := BitVec.ofNat 64 (s.core.w0Read (s.x a).toNat 8)
      if validLayout r then
        .ok (s.mapCore fun c => { c with layouts := c.layouts.set l.toNat r l.isLt })
      else .error (.trap 2 (wordOf (.hdrLay a l)))

/-! ## Remote full/empty words (R308) -/

/-- RFA. -/
def rfa (s : State) : DWord := pairOf s.core.ni.rfaLo s.core.ni.rfaHi

/-- A take or put sent in slot `i`: only a region-1 address that R25 admits leaves the interface. -/
def sendWord (i : Nat) (k : ReqKind) (body : Body) (s : State) : State :=
  if faRegion (rfa s) = 1 ∧ faValid (rfa s) then
    noteLeaving (faEndpoint (rfa s)) (s.request i k (faEndpoint (rfa s)) true body)
  else s.refuseRequest i k true body

/-- A load of RFTAKE: the value, once the reply is there. -/
def portTake (d : Reg) (s : State) : Run State :=
  roundTrip .take true (fun i t => sendWord i .take (.take (rfa s)) t) (fun v t => t.setX d v.lo) s

/-- A load of RFTTAKE. -/
def portTtake (d : Reg) (s : State) : Run State :=
  roundTrip .ttake true (fun i t => sendWord i .ttake (.ttake (rfa s) s.core.ni.rfsent) t) (fun v t => t.setX d v.lo) s

/-- A store to RFPUT: a release at device scope. -/
def portPut (v : Word) (s : State) : Run State :=
  posted (released s 2) (fun i t => sendWord i .put (.put (rfa s) v) t) s

end Sys2Proof.Machine
end

