-- ==== Sys2Proof/Machine/Atomic.lean ====
section
/-!
DEFINITION. The AMO group (R299 to R306).
-/

namespace Sys2Proof.Machine
open Sys2Proof

/-- FADD: FP32 sum, RNE, subnormals kept, canonical NaN (R304). -/
def amoFadd (a b : Word) : Word := BitVec.ofNat 32 (fAdd fp32 0 false a.toNat b.toNat false).1

/-- The new value, and whether it is written (R303). -/
def amoNew (op : BitVec 4) (old v cmp : Word) : Word × Bool :=
  match op with
  | 0#4 => (old + v, true)
  | 1#4 => (old &&& v, true)
  | 2#4 => (old ||| v, true)
  | 3#4 => (old ^^^ v, true)
  | 4#4 => (if old.slt v then old else v, true)
  | 5#4 => (if v.slt old then old else v, true)
  | 6#4 => (if old < v then old else v, true)
  | 7#4 => (if v < old then old else v, true)
  | 8#4 => (v, true)
  | 9#4 => (v, old == cmp)
  | 10#4 => if old < v then (old + 1, true) else (old, false)
  | _ => (amoFadd old v, true)

/-- Order field: release or acqrel; acquire or acqrel (R51). -/
def isRelease (o : BitVec 2) : Bool := o.getLsbD 1
/-- Acquire or acqrel. -/
def isAcquire (o : BitVec 2) : Bool := o.getLsbD 0

/-- The address check of a core-scope AMO (R306); one that waits has passed it (R186). -/
def amoCheckCore (s : State) (a : Nat) : Option Nat :=
  if s.core.stalled then none else if s.area a ≠ .w0 ∨ 0x40000 < a + 4 then some 7 else checkAccess s a ⟨4, true, false⟩

/-- A core-scope AMO, checked: the old value goes to rd unless `n`. -/
def amoCore (op : BitVec 4) (d a b : Reg) (n : Bool) (s : State) : State :=
  let addr := (s.x a).toNat
  let old := s.core.w0Word addr
  let r := amoNew op old (s.x b) (s.x d)
  let t := if r.2 then s.w0Write addr 4 r.1.toNat else s
  if n then t else t.setX d old

/-- A cluster-scope AMO, checked, at the cluster's atomic unit; the follower of a pair takes its leader's value. -/
def amoCluster (op : BitVec 4) (d a b : Reg) (n : Bool) (s : State) : State :=
  match leaderValue s with
  | some v => if n then s else s.setX d v.lo
  | none =>
    let addr := (s.x a).toNat
    let old := s.unit.sync.word addr
    let r := amoNew op old (s.x b) (s.x d)
    let t := if r.2 then s.mapUnit fun u => { u with sync := u.sync.putWord addr r.1 } else s
    if n then t else t.setX d old

/-- Where a device-scope or system-scope AMO goes: the home slice or gateway port of a region-2 word; the memory core
that translates a region-0 word of the own package; the gateway of another package (R299, R369). DESIGN CHOICE (log 23): a
region-0 word of another package goes to the gateway that its virtual bits 40:36 name, modulo 16; its stack, which R299 names,
is known only once that package has translated it. -/
def amoEndpoint (s : State) (a : DWord) (sys : Bool) : BitVec 21 :=
  let l :=
    if faRegion a = 2 then (if sys then 0x7F00 + faIndex a / 32 % 16 else 0x5000 + faIndex a)
    else 0x4800 + translatorOf (faVirtual a)
  if faRegion a ≠ 2 ∧ faPkg a ≠ s.pkg then peerEndpoint a else BitVec.ofNat 21 (faPkg a * 0x8000 + l)

/-- The request of a remote AMO sent in slot `i`. -/
def sendAmo (i : Nat) (k : ReqKind) (op : BitVec 4) (sys : Bool) (a : DWord) (v cmp : Word) (s : State) : State :=
  let body : Body := .amo op sys a v cmp
  let t :=
    if faValid a then notePeer (amoEndpoint s a sys) (s.request i k (amoEndpoint s a sys) true body)
    else s.refuseRequest i k true body
  t.sign (bytesOf 8 a.toNat ++ bytesOf 4 v.toNat)

/-- A remote AMO, checked (R305): with `n` it retires once sent, otherwise it waits for its reply. -/
def amoRemote (op : BitVec 4) (d a b : Reg) (c o : BitVec 2) (n : Bool) (s : State) : Run State :=
  let ready := !isRelease o || released s c.toNat
  let send (k : ReqKind) (i : Nat) (t : State) : State := sendAmo i k op (c == 3) (s.xp a) (s.x b) (s.x d) t
  if n then posted ready (send (if isAcquire o then .amoAcq else .amoNr)) s
  else roundTrip .amo ready (send .amo) (fun v t => t.setX d v.lo) s

/-- An AMO (R302): alignment, the checks of R306, the release, and the operation at the unit of its scope. -/
def amo (op : BitVec 4) (d a b : Reg) (c o : BitVec 2) (n : Bool) (s : State) : Run State :=
  let ready := !isRelease o || released s c.toNat
  if c = 0 then
    if (s.x a).toNat % 4 ≠ 0 then .error (.trap 6 (s.x a))
    else
      match amoCheckCore s (s.x a).toNat with
      | some k => .error (.trap k (s.x a))
      | none =>
        if ready then .ok ((amoCore op d a b n s).sign (bytesOf 4 (s.x a).toNat ++ bytesOf 4 (s.x b).toNat))
        else .error (.wait s)
  else if c = 1 then
    if (s.x a).toNat % 4 ≠ 0 then .error (.trap 6 (s.x a))
    else if 0xFFC < (s.x a).toNat ∨ !s.notMemory then .error (.trap 7 (s.x a))
    else if ready then .ok ((amoCluster op d a b n s).sign (bytesOf 4 (s.x a).toNat ++ bytesOf 4 (s.x b).toNat))
    else .error (.wait s)
  else if (s.xp a).toNat % 4 ≠ 0 then .error (.trap 6 (faLow (s.xp a)))
  else if (faRegion (s.xp a) ≠ 0 ∧ faRegion (s.xp a) ≠ 2) ∨ (c = 2 ∧ faPkg (s.xp a) ≠ s.pkg) then
    .error (.trap 7 (faLow (s.xp a)))
  else amoRemote op d a b c o n s

/-- AMOADD (R303). -/
def execAmoadd (d a b : Reg) (c o : BitVec 2) (n : Bool) : State → Host.Outcome State Fault Refusal :=
  perform (.amoadd d a b c o n) true (amo 0 d a b c o n)

/-- AMOAND (R303). -/
def execAmoand (d a b : Reg) (c o : BitVec 2) (n : Bool) : State → Host.Outcome State Fault Refusal :=
  perform (.amoand d a b c o n) true (amo 1 d a b c o n)

/-- AMOOR (R303). -/
def execAmoor (d a b : Reg) (c o : BitVec 2) (n : Bool) : State → Host.Outcome State Fault Refusal :=
  perform (.amoor d a b c o n) true (amo 2 d a b c o n)

/-- AMOXOR (R303). -/
def execAmoxor (d a b : Reg) (c o : BitVec 2) (n : Bool) : State → Host.Outcome State Fault Refusal :=
  perform (.amoxor d a b c o n) true (amo 3 d a b c o n)

/-- AMOMIN (R303). -/
def execAmomin (d a b : Reg) (c o : BitVec 2) (n : Bool) : State → Host.Outcome State Fault Refusal :=
  perform (.amomin d a b c o n) true (amo 4 d a b c o n)

/-- AMOMAX (R303). -/
def execAmomax (d a b : Reg) (c o : BitVec 2) (n : Bool) : State → Host.Outcome State Fault Refusal :=
  perform (.amomax d a b c o n) true (amo 5 d a b c o n)

/-- AMOMINU (R303). -/
def execAmominu (d a b : Reg) (c o : BitVec 2) (n : Bool) : State → Host.Outcome State Fault Refusal :=
  perform (.amominu d a b c o n) true (amo 6 d a b c o n)

/-- AMOMAXU (R303). -/
def execAmomaxu (d a b : Reg) (c o : BitVec 2) (n : Bool) : State → Host.Outcome State Fault Refusal :=
  perform (.amomaxu d a b c o n) true (amo 7 d a b c o n)

/-- AMOSWAP (R303). -/
def execAmoswap (d a b : Reg) (c o : BitVec 2) (n : Bool) : State → Host.Outcome State Fault Refusal :=
  perform (.amoswap d a b c o n) true (amo 8 d a b c o n)

/-- AMOCAS (R303): rd holds the comparand, and takes the old value. -/
def execAmocas (d a b : Reg) (c o : BitVec 2) : State → Host.Outcome State Fault Refusal :=
  perform (.amocas d a b c o) true (amo 9 d a b c o false)

/-- AMOINCB (R303). -/
def execAmoincb (d a b : Reg) (c o : BitVec 2) (n : Bool) : State → Host.Outcome State Fault Refusal :=
  perform (.amoincb d a b c o n) true (amo 10 d a b c o n)

/-- AMOFADD (R303). -/
def execAmofadd (d a b : Reg) (c o : BitVec 2) (n : Bool) : State → Host.Outcome State Fault Refusal :=
  perform (.amofadd d a b c o n) true (amo 11 d a b c o n)

end Sys2Proof.Machine
end

