-- ==== Sys2Proof/Machine/EnvUnit.lean ====
section
/-!
DEFINITION. The envelope unit (R263 to R276). Every decision is an exact comparison of integers; a rational number
is a pair of numerator and positive denominator.
-/

namespace Sys2Proof.Machine
open Sys2Proof

/-! ## Rationals and lines -/

/-- A rational number: numerator and positive denominator. -/
abbrev Ratio := Int × Int

/-- Less than. -/
def Ratio.lt (a b : Ratio) : Bool := decide (a.1 * b.2 < b.1 * a.2)

/-- A number rounded to the nearest integer, ties to even. -/
def Ratio.rne (a : Ratio) : Int :=
  let q := a.1.fdiv a.2
  let r := 2 * (a.1 - q * a.2)
  if r < a.2 then q else if a.2 < r then q + 1 else if q % 2 = 0 then q else q + 1

/-- The number is no integer. -/
def Ratio.inexact (a : Ratio) : Bool := a.1 - a.1.fdiv a.2 * a.2 != 0

/-- The value of a line at a number, times 2^16 and its denominator (R274). -/
def EnvLine.at (l : EnvLine) (x : Ratio) : Int := l.s.toInt * x.1 + l.c.toInt * 65536 * x.2

/-- Where two lines of rising slope meet, in raw Q16.16 (R265). -/
def meet (a b : EnvLine) : Ratio := ((a.c.toInt - b.c.toInt) * 65536, b.s.toInt - a.s.toInt)

/-- The value fits a signed word. -/
def fitsWord (v : Int) : Bool := decide (-(2 ^ 31) ≤ v) && decide (v < 2 ^ 31)

/-- A line of exact sums; none outside the signed range (R271). -/
def mkLine (s c : Int) (tag : BitVec 16) : Option EnvLine :=
  if fitsWord s && fitsWord c then some ⟨BitVec.ofInt 32 s, BitVec.ofInt 32 c, tag⟩ else none

/-- -inf in a domain word (R93). -/
def negInf : Word := 0x80000000
/-- +inf in a domain word. -/
def posInf : Word := 0x7FFFFFFF

/-- The greater of two domain words. -/
def maxWord (a b : Word) : Word := if a.slt b then b else a
/-- The lesser of two domain words. -/
def minWord (a b : Word) : Word := if b.slt a then b else a

/-! ## The canonical envelope (R264, R265) -/

/-- A candidate put among lines of rising slope: the larger intercept wins, the earlier candidate on a tie. -/
def insertLine : List EnvLine → EnvLine → List EnvLine
  | [], e => [e]
  | x :: l, e =>
    if e.s.slt x.s then e :: x :: l
    else if e.s = x.s then (if x.c.slt e.c then e :: l else x :: l)
    else x :: insertLine l e

/-- Line `j` between `i` and `k` is redundant (R265). -/
def redundant (i j k : EnvLine) : Bool :=
  decide ((j.c.toInt - i.c.toInt) * (k.s.toInt - i.s.toInt) ≤ (k.c.toInt - i.c.toInt) * (j.s.toInt - i.s.toInt))

/-- The lines that a new line of greater slope leaves on a hull kept with the greatest slope first. -/
def hullPop (k : EnvLine) : List EnvLine → List EnvLine
  | j :: i :: l => if redundant i j k then hullPop k (i :: l) else j :: i :: l
  | l => l

/-- The upper hull of lines of rising slope. -/
def hull (l : List EnvLine) : List EnvLine := (l.foldl (fun h e => e :: hullPop e h) []).reverse

/-- The winner at a number: the greatest value, the larger slope on ties (R264, rule 3). -/
def winner (x : Ratio) : List EnvLine → Option EnvLine
  | [] => none
  | e :: l => some (l.foldl (fun best y => if best.at x ≤ y.at x then y else best) e)

/-- A line of the hull wins an interval of positive length within the domain (R264, rule 4). -/
def keeps (lo hi : Word) (h : List EnvLine) (i : Nat) (e : EnvLine) : Bool :=
  let left : List Ratio :=
    (if lo = negInf then [] else [(lo.toInt, 1)]) ++
      (match i with
       | 0 => []
       | j + 1 => match h[j]? with
         | some d => [meet d e]
         | none => [])
  let right : List Ratio :=
    (if hi = posInf then [] else [(hi.toInt, 1)]) ++
      (match h[i + 1]? with
       | some d => [meet e d]
       | none => [])
  left.all fun a => right.all fun b => a.lt b

/-- The canonical envelope of candidates on a domain. -/
def canonical (cand : List EnvLine) (lo hi : Word) : List EnvLine :=
  let h := hull (cand.foldl insertLine [])
  if lo = hi then (winner (lo.toInt, 1) h).toList
  else ((List.range h.length).zip h).filterMap fun p => if keeps lo hi h p.1 p.2 then some p.2 else none

/-! ## Capacity (R275) -/

/-- The excess of a line; none where it is unbounded. -/
def excess (lo hi : Word) (l : List EnvLine) (j : Nat) : Option Ratio :=
  let above (x : Ratio) (a b : EnvLine) : Ratio := (a.at x - b.at x, x.2 * 65536)
  match l[j]? with
  | none => none
  | some e =>
    if l.length ≤ 1 then none
    else if j = 0 then
      match l[1]? with
      | some b => if lo = negInf then none else some (above (lo.toInt, 1) e b)
      | none => none
    else
      match l[j - 1]?, l[j + 1]? with
      | some a, some b => some (above (meet a b) e a)
      | some a, none => if hi = posInf then none else some (above (hi.toInt, 1) e a)
      | none, _ => none

/-- The line of least excess, the smaller slope on ties. -/
def leastExcess (lo hi : Word) (l : List EnvLine) : Option (Nat × Ratio) :=
  (List.range l.length).foldl (fun best j =>
    match excess lo hi l j, best with
    | none, b => b
    | some x, none => some (j, x)
    | some x, some b => if x.lt b.2 then some (j, x) else some b) none

/-- Lines removed until `cap` remain; none where R275 traps. The number of removals is bounded by `fuel`. -/
def squeeze (lo hi : Word) (cap : Nat) (etol : Word) : Nat → List EnvLine → Option (List EnvLine)
  | 0, l => if l.length ≤ cap then some l else none
  | fuel + 1, l =>
    if l.length ≤ cap then some l
    else if etol = 0 then none
    else
      match leastExcess lo hi l with
      | none => none
      | some (j, x) =>
        if Ratio.lt (etol.toNat, 1) x then none else squeeze lo hi cap etol fuel (l.eraseIdx j)

/-! ## Sums and conjugates (R271, R272) -/

/-- The breakpoints of lines in slope order. -/
def breaks : List EnvLine → List Ratio
  | a :: b :: l => meet a b :: breaks (b :: l)
  | _ => []

/-- A number put into a rising list once. -/
def insertRatio : List Ratio → Ratio → List Ratio
  | [], x => [x]
  | y :: l, x => if Ratio.lt x y then x :: y :: l else if Ratio.lt y x then y :: insertRatio l x else y :: l

/-- A number strictly between two bounds, where each may be absent. -/
def between : Option Ratio → Option Ratio → Ratio
  | none, none => (0, 1)
  | none, some b => (b.1 - b.2, b.2)
  | some a, none => (a.1 + a.2, a.2)
  | some a, some b => (a.1 * b.2 + b.1 * a.2, 2 * a.2 * b.2)

/-- One number inside each interval that the cuts make from `left` to `right`. -/
def insides (left right : Option Ratio) : List Ratio → List Ratio
  | [] => [between left right]
  | c :: l => between left (some c) :: insides (some c) right l

/-- The cuts of ESUM: breakpoints of either operand strictly inside the domain. -/
def cutsOf (a b : List EnvLine) (lo hi : Word) : List Ratio :=
  ((breaks a ++ breaks b).filter fun x =>
    (lo == negInf || Ratio.lt (lo.toInt, 1) x) && (hi == posInf || x.lt (hi.toInt, 1))).foldl insertRatio []

/-- The candidates of ESUM; none where a sum leaves the signed range. -/
def sumLines (a b : List EnvLine) (lo hi : Word) : Option (List EnvLine) :=
  let at_ : List Ratio :=
    if lo = hi then [(lo.toInt, 1)]
    else
      insides (if lo = negInf then none else some (lo.toInt, 1)) (if hi = posInf then none else some (hi.toInt, 1))
        (cutsOf a b lo hi)
  at_.foldr (fun x r =>
    match winner x a, winner x b, r with
    | some p, some q, some l => (mkLine (p.s.toInt + q.s.toInt) (p.c.toInt + q.c.toInt) p.tag).map fun e => e :: l
    | _, _, some l => some l
    | _, _, none => none) (some [])

/-- The greatest value of lines at a raw Q16.16 number, in Q32.32. -/
def topValue (l : List EnvLine) (x : Int) : Int := ((winner (x, 1) l).map fun e => e.at (x, 1)).getD 0

/-- One candidate of the conjugate at slope `x`, and whether its intercept is inexact. -/
def conjLine (l : List EnvLine) (x : Int) (tag : BitVec 16) : Option (EnvLine × Bool) :=
  let q : Ratio := (topValue l x, 65536)
  (mkLine x (-q.rne) tag).map fun e => (e, q.inexact)

/-- The conjugate's candidates at breakpoints. -/
def conjBreaks (all : List EnvLine) : List EnvLine → Option (List EnvLine × Bool)
  | a :: b :: l =>
    let x := meet a b
    match conjLine all x.rne b.tag, conjBreaks all (b :: l) with
    | some (e, i), some (r, j) => some (e :: r, i || j || x.inexact)
    | _, _ => none
  | _ => some ([], false)

/-- An envelope and the inexact flag, or why there is none: `false` for a value out of range, `true` for the
empty-result rule. -/
abbrev EnvRun := Except Bool (Envelope × Bool)

/-- The candidates of the conjugate with their domain (R272). -/
def conjugate (e : Envelope) : EnvRun :=
  match e.lines, e.lines.getLast? with
  | first :: _, some last =>
    let ends (finite : Bool) (x : Int) (tag : BitVec 16) : Option (List EnvLine × Bool) :=
      if finite then (conjLine e.lines x tag).map fun p => ([p.1], p.2) else some ([], false)
    let lo := if e.lo = negInf then first.s else negInf
    let hi := if e.hi = posInf then last.s else posInf
    match ends (e.lo != negInf) e.lo.toInt first.tag, conjBreaks e.lines e.lines,
      ends (e.hi != posInf) e.hi.toInt last.tag with
    | some (a, i), some (b, j), some (c, k) =>
      match a ++ b ++ c with
      | [] =>
        match mkLine 0 (-first.c.toInt) first.tag with
        | some z => .ok (⟨lo, hi, [z]⟩, false)
        | none => .error false
      | cand => .ok (⟨lo, hi, cand⟩, i || j || k)
    | _, _, _ => .error false
  | _, _ => .error true

/-- The canonical form of an envelope of candidates. -/
def Envelope.canon (e : Envelope) : Envelope := { e with lines := canonical e.lines e.lo e.hi }

/-- Two operands on the intersection of their domains; the empty-result rule where it is empty. -/
def onBoth (a b : Envelope) (f : Word → Word → Except Bool (List EnvLine)) : EnvRun :=
  let lo := maxWord a.lo b.lo
  let hi := minWord a.hi b.hi
  if hi.slt lo then .error true else (f lo hi).map fun l => (⟨lo, hi, l⟩, false)

/-- The candidates of ESUM (R271): an empty operand makes the result empty. -/
def envSum (a b : Envelope) : EnvRun :=
  onBoth a b fun lo hi =>
    if a.lines.isEmpty || b.lines.isEmpty then .ok []
    else
      match sumLines a.lines b.lines lo hi with
      | some l => .ok l
      | none => .error false

/-- The candidates of EICV (R273): conjugate, sum, conjugate. -/
def envConvolve (a b : Envelope) : EnvRun := do
  let (ca, i) ← conjugate a
  let (cb, j) ← conjugate b
  let (m, _) ← envSum ca.canon cb.canon
  let (r, k) ← conjugate m.canon
  return (r, i || j || k)

/-! ## Writing a register (R268, R275, R276) -/

/-- The trap of an envelope instruction: eop and register (R130, R276). -/
def envTrap (cause eop : Nat) (r : Reg) : Stop := .trap cause (BitVec.ofNat 32 (eop * 32 + low3 r))

/-- Envelope register `r`. -/
def envAt (s : State) (r : Reg) : Envelope := (s.core.env[low3 r]?).getD .reset

/-- An envelope written whole, with the sticky bits of ESTAT (R37, R268). -/
def writeEnv (r : Reg) (e : Envelope) (simp inex : Bool) (s : State) : State :=
  s.mapCore fun c =>
    { c with
      env := c.env.setIfInBounds (low3 r) e
      csr := { c.csr with
        estat := c.csr.estat ||| BitVec.ofNat 32 (e.lines.isEmpty.toNat * 4 + simp.toNat * 2 + inex.toNat) } }

/-- Candidates made canonical, fitted by `fit` and written; a failure traps (R275, R276). DESIGN CHOICE (log 23): where an EICV ends in
the empty-result rule with ECTL.empty = 1, a rounding in its ECNJ steps leaves ESTAT.inex alone, and a range trap of a conjugate comes
first, in the order of the steps (R273). -/
def fitEnv (fit : Word → Word → List EnvLine → Option (List EnvLine)) (eop : Nat) (r : Reg) (x : EnvRun) (s : State) : Run State :=
  match x with
  | .error false => .error (envTrap 0x11 eop r)
  | .error true =>
    if s.core.csr.ectl.getLsbD 8 then .ok (writeEnv r .reset false false s) else .error (envTrap 0x11 eop r)
  | .ok (e, inex) =>
    let l := canonical e.lines e.lo e.hi
    match fit e.lo e.hi l with
    | none => .error (envTrap 0x10 eop r)
    | some m => .ok (writeEnv r { e with lines := m } (m.length != l.length) inex s)

/-- Candidates made canonical, brought to capacity and written (R275). -/
def settleEnv (eop : Nat) (r : Reg) (x : EnvRun) (s : State) : Run State :=
  fitEnv (fun lo hi l => squeeze lo hi (bitsNat s.core.csr.ectl 7 0) s.core.csr.etol l.length l) eop r x s

/-! ## The instructions -/

/-- ECLR (R269). -/
def execEclr (d : Reg) (s : State) : Host.Outcome State Fault Refusal :=
  performPure (.eclr d) s.notMemory (writeEnv d .reset false false) s

/-- EINS (R269): the line already in the register comes first. -/
def execEins (d a b : Reg) (s : State) : Host.Outcome State Fault Refusal :=
  perform (.eins d a b) s.notMemory
    (fun s =>
      let e := envAt s d
      let n : EnvLine := ⟨s.x a, s.x (pairHi a), (s.x b).truncate 16⟩
      settleEnv 1 d (.ok ({ e with lines := e.lines ++ [n] }, false)) s) s

/-- The three words of a line in a memory image (R266). -/
def lineOfWords (c : Core) (a : Nat) : Option EnvLine :=
  if c.w0Word (a + 8) &&& 0xFFFF0000 = 0 then some ⟨c.w0Word a, c.w0Word (a + 4), (c.w0Word (a + 8)).truncate 16⟩
  else none

/-- The slopes rise strictly. -/
def rising : List EnvLine → Bool
  | a :: b :: l => a.s.slt b.s && rising (b :: l)
  | _ => true

/-- The lines of an image; none where a rule of R266 fails. -/
def imageLines (c : Core) (a n : Nat) : Option (List EnvLine) :=
  let l := (List.range n).filterMap fun i => lineOfWords c (a + 16 + 12 * i)
  if l.length = n ∧ rising l = true then some l else none

/-- A valid header: bounds, count and reserved fields (R266). -/
def headerOk (c : Core) (a : Nat) : Bool :=
  let lo := c.w0Word a
  let hi := c.w0Word (a + 4)
  lo != posInf && hi != negInf && !hi.slt lo && decide ((c.w0Word (a + 8)).toNat ≤ 128) && c.w0Word (a + 12) == 0

/-- The body of ELD (R270). -/
def loadEnv (d : Reg) (a : Word) (s : State) : Run State :=
  match checkW0 s a.toNat 16 4 false with
  | some c => .error (.trap c a)
  | none =>
    if !headerOk s.core a.toNat then .error (envTrap 0x11 2 d)
    else
      let n := (s.core.w0Word (a.toNat + 8)).toNat
      match checkW0 s a.toNat (16 + 12 * n) 4 false with
      | some c => .error (.trap c a)
      | none =>
        match imageLines s.core a.toNat n with
        | none => .error (envTrap 0x11 2 d)
        | some l => settleEnv 2 d (.ok (⟨s.core.w0Word a.toNat, s.core.w0Word (a.toNat + 4), l⟩, false)) s

/-- ELD (R270). -/
def execEld (d a : Reg) (s : State) : Host.Outcome State Fault Refusal :=
  perform (.eld d a) s.notMemory (loadEnv d (s.x a)) s

/-- The memory image of an envelope (R266). -/
def imageOf (e : Envelope) : List Byte :=
  bytesOf 4 e.lo.toNat ++ bytesOf 4 e.hi.toNat ++ bytesOf 4 e.lines.length ++ bytesOf 4 0 ++
    (e.lines.map fun l => bytesOf 4 l.s.toNat ++ bytesOf 4 l.c.toNat ++ bytesOf 4 l.tag.toNat).flatten

/-- EST (R270): every byte is checked before any is written; a pair signs it as a store (R168). -/
def execEst (d a : Reg) (s : State) : Host.Outcome State Fault Refusal :=
  perform (.est d a) s.notMemory
    (fun s =>
      let im := imageOf (envAt s d)
      match checkW0 s (s.x a).toNat im.length 4 true with
      | some c => .error (.trap c (s.x a))
      | none => .ok ((s.w0Put (s.x a).toNat im).sign (bytesOf 4 (s.x a).toNat ++ im))) s

/-- EMAX (R271). -/
def execEmax (d a b : Reg) (s : State) : Host.Outcome State Fault Refusal :=
  perform (.emax d a b) s.notMemory
    (fun s => settleEnv 4 d
      (onBoth (envAt s a) (envAt s b) fun _ _ => .ok ((envAt s a).lines ++ (envAt s b).lines)) s) s

/-- ESUM (R271). -/
def execEsum (d a b : Reg) (s : State) : Host.Outcome State Fault Refusal :=
  perform (.esum d a b) s.notMemory (fun s => settleEnv 5 d (envSum (envAt s a) (envAt s b)) s) s

/-- EICV (R273). -/
def execEicv (d a b : Reg) (s : State) : Host.Outcome State Fault Refusal :=
  perform (.eicv d a b) s.notMemory (fun s => settleEnv 6 d (envConvolve (envAt s a) (envAt s b)) s) s

/-- ECNJ (R272). -/
def execEcnj (d a : Reg) (s : State) : Host.Outcome State Fault Refusal :=
  perform (.ecnj d a) s.notMemory (fun s => settleEnv 7 d (conjugate (envAt s a)) s) s

/-- The argument lies in the domain of a non-empty envelope (R274). -/
def inDomain (e : Envelope) (x : Word) : Bool :=
  !e.lines.isEmpty && (e.lo == negInf || !x.slt e.lo) && (e.hi == posInf || !e.hi.slt x)

/-- EEVAL (R274). -/
def execEeval (d a b : Reg) (q : BitVec 2) (s : State) : Host.Outcome State Fault Refusal :=
  perform (.eeval d a b q) s.notMemory
    (fun s =>
      let e := envAt s a
      let v : DWord := BitVec.ofInt 64 (topValue e.lines (s.x b).toInt)
      let t := ((winner ((s.x b).toInt, 1) e.lines).map fun l => l.tag).getD 0
      if inDomain e (s.x b) then
        .ok (s.setX d (if q = 0 then v.hi else if q = 1 then v.lo else t.setWidth 32))
      else .error (envTrap 0x11 8 a)) s

/-- Lines shifted by exact sums; none where one leaves the signed range. -/
def shiftLines (a b : Int) : List EnvLine → Option (List EnvLine)
  | [] => some []
  | l :: ls =>
    match mkLine (l.s.toInt + a) (l.c.toInt + b) l.tag, shiftLines a b ls with
    | some x, some r => some (x :: r)
    | _, _ => none

/-- ESHF (R269). -/
def execEshf (d a b : Reg) (s : State) : Host.Outcome State Fault Refusal :=
  perform (.eshf d a b) s.notMemory
    (fun s =>
      let e := envAt s d
      match shiftLines (s.x a).toInt (s.x b).toInt e.lines with
      | some l => .ok (writeEnv d { e with lines := l } false false s)
      | none => .error (envTrap 0x11 9 d)) s

/-- ECNT (R269). -/
def execEcnt (d a : Reg) (s : State) : Host.Outcome State Fault Refusal :=
  performPure (.ecnt d a) s.notMemory (fun s => s.setX d (BitVec.ofNat 32 (envAt s a).lines.length)) s

/-- EDOM.CLIP (R269, R276): the lines are canonicalised, and the capacity is not tested. -/
def execEdomClip (d a b : Reg) (s : State) : Host.Outcome State Fault Refusal :=
  perform (.edomClip d a b) s.notMemory
    (fun s =>
      let e := envAt s d
      if s.x a = posInf ∨ s.x b = negInf then .error (envTrap 0x11 11 d)
      else fitEnv (fun _ _ l => some l) 11 d (onBoth e ⟨s.x a, s.x b, []⟩ fun _ _ => .ok e.lines) s) s

/-- EDOM.LO (R269). -/
def execEdomLo (d a : Reg) (s : State) : Host.Outcome State Fault Refusal :=
  performPure (.edomLo d a) s.notMemory (fun s => s.setX d (envAt s a).lo) s

/-- EDOM.HI (R269). -/
def execEdomHi (d a : Reg) (s : State) : Host.Outcome State Fault Refusal :=
  performPure (.edomHi d a) s.notMemory (fun s => s.setX d (envAt s a).hi) s

end Sys2Proof.Machine
end

