-- ==== Sys2Proof/Machine/Csr.lean ====
section
/-!
DEFINITION. The control and status registers: what a read gives and what a write does (R33 to R43, R148), and the
instructions of the CSR group.
-/

namespace Sys2Proof.Machine
open Sys2Proof

/-- The cores of the steward's cluster that wait with an escalation (R135), lowest number first. -/
def escalating (s : State) : List Nat :=
  (coresOf (clusterAt (localOf s.core.id))).filter fun l => (s.coreAt l).escWaits

/-- SIP as read (R41): on a steward bit 5 tells of a waiting escalation. -/
def sipOf (s : State) : Word :=
  if s.steward then setBit s.core.csr.sip 5 (!(escalating s).isEmpty) else s.core.csr.sip

/-- UIP as read (R37): maip is the unread message of the ring. It acts on compute cores alone, so that elsewhere no bit of it is
pending (R33, R146). -/
def uipOf (s : State) : Word := if s.compute then setBit s.core.csr.uip 5 s.core.unread else 0

/-- MRSTAT as read (R37). -/
def mrstatOf (c : Core) : Word :=
  BitVec.ofNat 32
    (c.ni.ovf.toNat * 2 ^ 31 + c.csr.cfgerr.toNat * 2 ^ 30 + c.ni.heldFlag.toNat * 2 ^ 29 + c.ni.wr * 2 ^ 16 + c.ni.rd)

/-- SCTXFRAMES as read (R41). -/
def sctxFramesOf (c : Core) : Word := BitVec.ofNat 32 (c.csr.ctxsaved.toNat * 2 ^ 31 + c.jbase * 2 ^ 8 + 58)

/-- LBUDGET of the tenant in SCTX.tenant (R43). -/
def lbudgetOf (s : State) : Word := BitVec.ofNat 32 ((assocGet s.lease.lbud s.core.tenant.toNat).getD 0)

/-- The value of CSR `n`; none for a number that the map does not list (R34, R37, R41). -/
def csrValue (s : State) (n : BitVec 12) : Option Word :=
  let c := s.core.csr
  match n with
  | 0x001#12 => some c.fcsr
  | 0x002#12 => some c.pthresh
  | 0x003#12 => some c.etol
  | 0x004#12 => some c.ectl
  | 0x005#12 => some c.estat
  | 0x006#12 => some c.mrcfg
  | 0x007#12 => some (mrstatOf s.core)
  | 0x010#12 => some s.cycle.lo
  | 0x011#12 => some c.cycleh
  | 0x012#12 => some c.instret
  | 0x013#12 => some c.phase
  | 0x014#12 => some (s.core.id.setWidth 32)
  | 0x015#12 => some c.ganginfo
  | 0x020#12 => some c.utvec
  | 0x021#12 => some c.ucause
  | 0x022#12 => some c.uval
  | 0x023#12 => some c.uepc
  | 0x024#12 => some c.ustatus
  | 0x025#12 => some c.uie
  | 0x026#12 => some (uipOf s)
  | 0x100#12 => some c.sstatus
  | 0x101#12 => some c.stvec
  | 0x102#12 => some c.scause
  | 0x103#12 => some c.sval
  | 0x104#12 => some c.sepc
  | 0x105#12 => some c.sie
  | 0x106#12 => some (sipOf s)
  | 0x107#12 => some c.sctx
  | 0x108#12 => some c.sscratch
  | 0x110#12 => some c.spshare
  | 0x111#12 => some c.svweight
  | 0x112#12 => some c.sjournal
  | 0x113#12 => some (sctxFramesOf s.core)
  | 0x120#12 => some (lbudgetOf s)
  | 0x130#12 => some c.sdbg
  | 0x1C0#12 => some c.mcstat
  | 0x1C1#12 => some c.mcbank
  | 0x1C2#12 => some c.mcsynd
  | 0x1C3#12 => some c.mcaddr
  | _ => none

/-- The side effect of a read: CYCLE captures bits 63:32 for CYCLEH (R38). -/
def csrTouch (n : BitVec 12) (s : State) : State :=
  if n = 0x010#12 then s.mapCsr fun c => { c with cycleh := s.cycle.hi } else s

/-- The low field of `len` bits of a written value, capped at `cap` (R41). -/
def capped (v : Word) (len cap : Nat) : Word := BitVec.ofNat 32 (min (v.toNat % 2 ^ len) cap)

/-- SCTX written: a change of tenant frees the prediction slots and invalidates the tag table (R43). -/
def writeSctx (v : Word) (s : State) : State :=
  let w := v &&& 0x1FFFFF
  let t := s.mapCsr fun c => { c with sctx := w }
  if w.extractLsb' 16 5 = s.core.tenant then t
  else dropLookups (fun _ => true) (t.mapCore fun c => { c.freeSlots with tags := [] })

/-- A launch runs on the core in focus (R42). -/
def launchRuns (s : State) : Bool := s.compute && s.unit.launch.isSome

/-- The bits of SIE that can be written: the escalation enable exists on stewards only (R41). -/
def sieMask (s : State) : Word := if s.steward then 0x3A else 0x1A

/-- CSR `n` written (R148): `v` for its RW fields, and each 1 of `clr` clears a W1C bit. RO and reserved fields
keep what they hold. -/
def csrWrite (n : BitVec 12) (v clr : Word) (s : State) : State :=
  match n with
  | 0x001#12 => s.mapCsr fun c => { c with fcsr := v &&& 0x1FF }
  | 0x002#12 => s.mapCsr fun c => { c with pthresh := v &&& 7 }
  | 0x003#12 => s.mapCsr fun c => { c with etol := v }
  | 0x004#12 => s.mapCsr fun c =>
      let cap := bitsNat v 7 0
      { c with ectl := (v &&& 0x100) ||| (if 1 ≤ cap ∧ cap ≤ 128 then v &&& 0xFF else c.ectl &&& 0xFF) }
  | 0x005#12 => s.mapCsr fun c => { c with estat := c.estat &&& ~~~clr }
  | 0x006#12 => writeMrcfg v s
  | 0x007#12 => s.mapCsr fun c => { c with cfgerr := c.cfgerr && !clr.getLsbD 30 }
  | 0x020#12 => s.mapCsr fun c => { c with utvec := v &&& ~~~3#32 }
  | 0x021#12 => s.mapCsr fun c => { c with ucause := v }
  | 0x022#12 => s.mapCsr fun c => { c with uval := v }
  | 0x023#12 => s.mapCsr fun c => { c with uepc := v &&& ~~~3#32 }
  | 0x024#12 => s.mapCsr fun c => { c with ustatus := (v &&& 0x13) ||| (c.ustatus &&& 0xC) }
  | 0x025#12 => s.mapCsr fun c => { c with uie := v &&& 0x24 }
  | 0x026#12 => s.mapCsr fun c => { c with uip := c.uip &&& ~~~(clr &&& 4) }
  | 0x100#12 => s.mapCsr fun c => { c with sstatus := v &&& 0xF }
  | 0x101#12 => s.mapCsr fun c => { c with stvec := v &&& ~~~3#32 }
  | 0x102#12 => s.mapCsr fun c => { c with scause := v }
  | 0x103#12 => s.mapCsr fun c => { c with sval := v }
  | 0x104#12 => s.mapCsr fun c => { c with sepc := v &&& ~~~3#32 }
  | 0x105#12 => s.mapCsr fun c => { c with sie := v &&& sieMask s }
  | 0x107#12 => writeSctx v s
  | 0x108#12 => s.mapCsr fun c => { c with sscratch := v }
  | 0x110#12 => s.mapCsr fun c => { c with spshare := capped v 5 16 }
  | 0x111#12 => s.mapCsr fun c => { c with svweight := v &&& 0xF }
  | 0x112#12 => if launchRuns s then s else s.mapCsr fun c => { c with sjournal := capped v 5 16 }
  | 0x120#12 =>
    { s with lease := { s.lease with
        lbud := assocSet s.lease.lbud s.core.tenant.toNat (min (v.toNat % 512) 256) } }
  | 0x130#12 => s.mapCsr fun c => { c with sdbg := v &&& 7 }
  | 0x1C0#12 =>
    if clr.getLsbD 31 then s.mapCsr fun c => { c with mcstat := 0, mcbank := 0, mcsynd := 0, mcaddr := 0 } else s
  | _ => s

/-- A CSR instruction may name CSR `n` here (R33, R34). -/
def csrLegal (s : State) (n : BitVec 12) : Bool :=
  (csrValue s n).isSome && (decide (n < 0x100) || !s.inUser) &&
    (s.compute || !(decide (0x020#12 ≤ n) && decide (n ≤ 0x026#12)))

/-- The value read. -/
def csrRead (s : State) (n : BitVec 12) : Word := (csrValue s n).getD 0

/-- A CSR instruction: its write of SDBG binds later-issued work alone, so that whether a single step ends with it is what SDBG held
at its issue (R35, R149, R150). -/
def performCsr (i : Instr) (legal : Bool) (f : State → State) (s : State) : Host.Outcome State Fault Refusal :=
  let t := f s
  let u := retire (t.mapCsr fun c => { c with sdbg := s.core.csr.sdbg })
  .next (if legal then u.mapCsr fun c => { c with sdbg := t.core.csr.sdbg } else raise 2 (wordOf i) s)

/-- CSRRW (R148): RW fields take the operand, each 1 clears its W1C bit, the old value goes to rd. -/
def execCsrrw (d a : Reg) (n : BitVec 12) (s : State) : Host.Outcome State Fault Refusal :=
  performCsr (.csrrw d a n) (csrLegal s n)
    (fun s => (csrWrite n (s.x a) (s.x a) (csrTouch n s)).setX d (csrRead s n)) s

/-- CSRRS (R148): a nonzero operand sets bits of the RW fields; W1C bits stay. -/
def execCsrrs (d a : Reg) (n : BitVec 12) (s : State) : Host.Outcome State Fault Refusal :=
  performCsr (.csrrs d a n) (csrLegal s n)
    (fun s =>
      let t := csrTouch n s
      (if s.x a = 0 then t else csrWrite n (csrRead s n ||| s.x a) 0 t).setX d (csrRead s n)) s

/-- CSRRC (R148): a nonzero operand clears bits of the RW fields and W1C bits. -/
def execCsrrc (d a : Reg) (n : BitVec 12) (s : State) : Host.Outcome State Fault Refusal :=
  performCsr (.csrrc d a n) (csrLegal s n)
    (fun s =>
      let t := csrTouch n s
      (if s.x a = 0 then t else csrWrite n (csrRead s n &&& ~~~(s.x a)) (s.x a) t).setX d (csrRead s n)) s

end Sys2Proof.Machine
end

