-- ==== Sys2Proof/Machine/Lease.lean ====
section
/-!
DEFINITION. Bandwidth leases: the LEASE group (R394 to R397), the lease unit's grants and revocations (R391 to R393),
floors and base bundles (R385, R386, R395), and the lanes (R388 to R390).
-/

namespace Sys2Proof.Machine
open Sys2Proof

/-- The lease unit changed. -/
def State.mapLease (s : State) (f : LeaseUnit → LeaseUnit) : State := { s with lease := f s.lease }

/-- A pair or flow whose lane is usable no longer is pinned there no longer: it is pinned anew when it next sends (R388). -/
def prunePins (s : State) : State :=
  s.mapLease fun u =>
    { u with pins := u.pins.filter fun q => (s.lanesTo q.tenant (pkgOf q.dst)).contains (64 * q.bundle + q.wave) }

/-! ## Tickets (R394 to R396) -/

/-- The ticket word. -/
def ticketWord (k : Ticket) : Word :=
  BitVec.ofNat 32 (k.peer.toNat * 2 ^ 26 + k.gen.toNat * 2 ^ 8 + k.idx.toNat)

/-- The held ticket of tenant `t` that a word names. -/
def heldTicket (s : State) (t : BitVec 5) (v : Word) : Option Ticket :=
  s.lease.tickets.find? fun k => k.tenant == t && ticketWord k == v

/-- A ticket changed. -/
def mapTicket (t : BitVec 5) (e : BitVec 6) (f : Ticket → Ticket) (s : State) : State :=
  s.mapLease fun u => { u with tickets := updateFirst (fun k => k.tenant == t && k.idx == e) f u.tickets }

/-- The claims of a tenant's tickets: requested while pending, granted after that. -/
def claims (s : State) (t : BitVec 5) : Nat :=
  ((s.lease.tickets.filter fun k => k.tenant == t).map fun k =>
    if k.pend then k.req else k.granted.length).foldl (· + ·) 0

/-- LBUDGET of a tenant. -/
def budgetOf (s : State) (t : BitVec 5) : Nat := (assocGet s.lease.lbud t.toNat).getD 0

/-- The lowest free entry of a tenant's ticket table. -/
def freeEntry (s : State) (t : BitVec 5) : Option Nat :=
  (List.range 64).find? fun i => !(s.lease.tickets.any fun k => k.tenant == t && k.idx.toNat == i)

/-- The status word of a ticket. -/
def ticketStatus (k : Ticket) : Word :=
  BitVec.ofNat 32
    (k.pend.toNat * 2 ^ 31 + k.refused.toNat * 2 ^ 30 + k.rev.toNat * 2 ^ 29 + k.req * 2 ^ 20
      + k.reason.toNat * 2 ^ 17 + k.granted.length)

/-- The lease unit's endpoint of a package, beside gateway 0. -/
def leaseUnitOf (p : Nat) : BitVec 21 := BitVec.ofNat 21 (p * 0x8000 + 0x7F00)

/-- A message between lease units. -/
def sendLease (p : Nat) (t : BitVec 5) (b : Body) (s : State) : State :=
  s.send { src := leaseUnitOf s.pkg, dst := leaseUnitOf p, tenant := t, slot := 0, body := b }

/-- A peer of R395: another package of the domain. -/
def peerOk (s : State) (p : Word) : Bool :=
  bitsNat p 31 6 == 0 && p.toNat != s.pkg && s.lease.domain.getLsbD p.toNat

/-- The bundles of a mask, rising. -/
def bundlesIn (m : BitVec 256) : List Nat := (List.range 256).filter m.getLsbD

/-- The transmit bundles that carry no assignment and may be offered to package `p`: neither granted, nor a base bundle at a peer, nor
retired, nor with a packet under way. DESIGN CHOICE (log 18): nor offered to another package by a request that is pending, so that a
transmit lane never feeds two receivers (R384). -/
def freeMask (s : State) (p : Nat) : BitVec 256 :=
  let used := (s.lease.tickets.foldr (fun k l => k.granted ++ l) []) ++ s.lease.paths.foldr (fun e l => e.2 ++ l) []
    ++ ((s.lease.bundles.filter fun x => decide (x.txlive < 56)).map fun x => x.idx)
    ++ (s.lightOut.filterMap fun f => f.lane.map (· / 64))
    ++ (s.lease.tickets.filter fun k => k.pend && k.peer.toNat != p).foldr (fun k l => bundlesIn k.offer ++ l) []
  used.foldl (fun m b => m &&& ~~~(BitVec.ofNat 256 (2 ^ b))) (BitVec.allOnes 256)

/-- An instruction of the group: it takes a slot, which it holds while it waits, and the lease unit answers; a pair's follower gets its leader's
answer (R394). -/
def leaseOp (d : Reg) (body : State → Run State) (s : State) : Run State :=
  match leaderValue s with
  | some v =>
    match leaderTrap s with
    | some (c, w) => .error (.trap c w)
    | none => .ok (s.setX d v.lo)
  | none =>
    match s.core.ni.ownSlot with
    | none => .error (.wait s)
    | some i =>
      match body (s.reserve none) with
      | .error (.trap c v) => .error (.trapIn c v (s.reserve none))
      | .error (.wait t) => .error (.wait (t.reserve (some i)))
      | r => r

/-- The trap of the group (R396). -/
def leaseTrap (code : Word) : Stop := .trap 0x14 code

/-- A LEASE or LREL of a member makes the phase unreplayable (R408, 4). -/
def noteLease (s : State) : State := if s.compute then s.unreplayable 4 else s

/-- A new ticket and its request (R395). -/
def openTicket (d : Reg) (p : Nat) (n : Nat) (all : Bool) (i : Nat) (s : State) : State :=
  let t := s.core.tenant
  let key := t.toNat * 64 + i
  let g : BitVec 8 := ((assocGet s.lease.gens key).getD 0) + 1
  let m := freeMask s p
  let k : Ticket :=
    { tenant := t, idx := BitVec.ofNat 6 i, gen := g, peer := BitVec.ofNat 6 p, req := n, granted := [], pend := true,
      refused := false, rev := false, reason := 0, offer := m }
  let u := (noteLease s).mapLease fun u => { u with tickets := u.tickets ++ [k], gens := assocSet u.gens key g }
  (sendLease p t (.leaseReq k.idx g n all m) u).setX d (ticketWord k)

/-- LEASE (R395). -/
def execLease (d a b : Reg) (l : Bool) (s : State) : Host.Outcome State Fault Refusal :=
  perform (.lease d a b l) s.notMemory
    (leaseOp d fun s =>
      let n := (s.x b).toNat
      if !peerOk s (s.x a) then .error (leaseTrap 1)
      else if n = 0 ∨ 256 < n then .error (leaseTrap 2)
      else if budgetOf s s.core.tenant < claims s s.core.tenant + n then .error (leaseTrap 3)
      else
        match freeEntry s s.core.tenant with
        | none => .error (leaseTrap 4)
        | some i => .ok (openTicket d (s.x a).toNat n l i s)) s

/-- The bundles of a list in rising order. -/
def sortBundles (l : List Nat) : List Nat := l.foldl insertNat []

/-- The highest `k` bundles leave a ticket, which sends the release (R395). -/
def releaseBundles (t : Ticket) (k : Nat) (entire : Bool) (s : State) : State :=
  let g := sortBundles t.granted
  let gone := g.drop (g.length - k)
  let mine (q : Ticket) : Bool := q.tenant == t.tenant && q.idx == t.idx
  let left :=
    if entire then s.lease.tickets.filter fun q => !mine q
    else updateFirst mine (fun q => { q with granted := g.take (g.length - k) }) s.lease.tickets
  let u := prunePins (s.mapLease fun u => { u with tickets := left })
  if gone.isEmpty then u else sendLease t.peer.toNat t.tenant (.leaseRel gone) u

/-- LREL (R395). -/
def execLrel (a b : Reg) (s : State) : Host.Outcome State Fault Refusal :=
  perform (.lrel a b) s.notMemory
    (leaseOp 0 fun s =>
      match heldTicket s s.core.tenant (s.x a) with
      | none => .error (leaseTrap 5)
      | some t =>
        let k := if s.x b = 0 then t.granted.length else (s.x b).toNat
        if t.granted.length < k ∨ t.pend = true then .error (leaseTrap 7)
        else .ok (releaseBundles t k (s.x b == 0) (noteLease s))) s

/-- LQRY (R395, R396): reading the status clears rev. -/
def execLqry (d a : Reg) (w : Bool) (s : State) : Host.Outcome State Fault Refusal :=
  perform (.lqry d a w) s.notMemory
    (leaseOp d fun s =>
      match heldTicket s s.core.tenant (s.x a) with
      | none => .error (leaseTrap 5)
      | some t =>
        if w && t.pend then .error (.wait s)
        else .ok ((mapTicket t.tenant t.idx (fun k => { k with rev := false }) s).setX d (ticketStatus t))) s

/-- The floor of a peer. -/
def floorOf (s : State) (p : Nat) : Nat := (assocGet s.lease.floors p).getD 0

/-- The sum of the floors of this package. -/
def floorSum (s : State) : Nat := (s.lease.floors.map fun f => f.2).foldl (· + ·) 0

/-- LFLOOR (R395): illegal in user mode (R52). -/
def execLfloor (a b : Reg) (s : State) : Host.Outcome State Fault Refusal :=
  perform (.lfloor a b) (s.notMemory && !s.inUser)
    (leaseOp 0 fun s =>
      let p := (s.x a).toNat
      let f := (s.x b).toNat
      if !peerOk s (s.x a) then .error (leaseTrap 1)
      else if 256 < f ∨ 256 < floorSum s - floorOf s p + f then .error (leaseTrap 6)
      else if s.core.tenant ≠ 0 then .error (leaseTrap 8)
      else .ok (s.mapLease fun u => { u with floors := assocSet u.floors p f })) s

/-! ## Receive bundles (R385) -/

/-- Receive bundle `b` changed. -/
def mapBundle (b : Nat) (f : Bundle → Bundle) (u : LeaseUnit) : LeaseUnit :=
  { u with bundles := f (bundleAt u b) :: u.bundles.filter fun x => x.idx != b }

/-- A bundle made free: it names nobody. -/
def freeBundle (b : Nat) (u : LeaseUnit) : LeaseUnit :=
  mapBundle b (fun x => if x.state = 4 then x else { x with state := 0, peer := 0, tenant := 0, carried := 0, ticket := 0, gen := 0, age := 0 }) u

/-- A peer's holding: base and leased bundles. -/
def holding (u : LeaseUnit) (p : Nat) : Nat :=
  (u.bundles.filter fun x => x.peer.toNat == p && (x.state == 1 || x.state == 2)).length

/-- A peer's excess. -/
def excessOf (u : LeaseUnit) (p : Nat) : Int := (holding u p : Int) - ((assocGet u.floors p).getD 0 : Nat)

/-- The bundles granted to all tenants mapped to `t`. -/
def grantedTo (u : LeaseUnit) (t : BitVec 5) : Nat := (u.bundles.filter fun x => x.state == 2 && x.tenant == t).length

/-- The bundle is chosen by the request in service. -/
def chosen (u : LeaseUnit) (b : Nat) : Bool := (u.serving.map fun v => v.got.contains b).getD false

/-- The lowest free bundle that is free in a mask and chosen neither here nor by the request in service. -/
def lowestFree (u : LeaseUnit) (m : BitVec 256) (got : List Nat) : Option Nat :=
  (List.range 256).find? fun b => m.getLsbD b && (bundleAt u b).state == 0 && !got.contains b && !chosen u b

/-- Leased bundles of a peer that are free in a mask. -/
def takeable (u : LeaseUnit) (m : BitVec 256) (p : Nat) : List Bundle :=
  u.bundles.filter fun x => x.state == 2 && x.peer.toNat == p && m.getLsbD x.idx

/-- The victim of R391: the greatest excess, the lowest peer on ties, above the requester's by more than 1. -/
def victimOf (u : LeaseUnit) (m : BitVec 256) (own : Int) : Option Nat :=
  (List.range 64).foldl (fun best p =>
    if (takeable u m p).isEmpty || decide (excessOf u p ≤ own + 1) then best
    else
      match best with
      | none => some p
      | some q => if excessOf u q < excessOf u p then some p else best) none

/-- The bundle that is revoked from a victim: its newest ticket's, the highest number first. -/
def revokeWhich (l : List Bundle) : Option Bundle :=
  l.foldl (fun best x =>
    match best with
    | none => some x
    | some y => if y.age < x.age ∨ (y.age = x.age ∧ y.idx < x.idx) then some x else best) none

/-- The loop of R391: bundles chosen so far, and those revoked. `fuel` is what is still wanted. -/
def chooseBundles (m : BitVec 256) (a : Nat) : Nat → LeaseUnit → List Nat → LeaseUnit × List Nat
  | 0, u, got => (u, got)
  | fuel + 1, u, got =>
    match lowestFree u m got with
    | some b => chooseBundles m a fuel u (got ++ [b])
    | none =>
      match victimOf u m (excessOf u a + got.length) with
      | none => (u, got)
      | some v =>
        match revokeWhich (takeable u m v) with
        | none => (u, got)
        | some x => chooseBundles m a fuel (mapBundle x.idx (fun y => { y with state := 3 }) u) (got ++ [x.idx])

/-- The revoke notices for bundles that turned to revoking (R392). -/
def sendNotices (old : LeaseUnit) (l : List Nat) (s : State) : State :=
  l.foldl (fun t b =>
    let x := bundleAt old b
    if x.state = 2 then sendLease x.peer.toNat x.carried (.revoke x.ticket x.gen b) t else t) s

/-- The answer to a request. -/
def answerLease (r : LeaseReq) (granted : List Nat) (reason : BitVec 3) (s : State) : State :=
  sendLease r.peer.toNat r.carried (.leaseAns r.e r.g granted reason) s

/-- The local tenant that the ingress table gives a package's carried tenant (R365). -/
def ingressOf (s : State) (a : Nat) (t : BitVec 5) : Option (BitVec 5) :=
  match assocGet s.lease.ingress (32 * a + t.toNat) with
  | none => none
  | some e => if e.getLsbD 5 then some (e.truncate 5) else none

/-- The lease unit decides a request (R391): refused, or its bundles chosen and the victims told. -/
def decideLease (r : LeaseReq) (s : State) : State :=
  match ingressOf s r.peer.toNat r.carried with
  | none => answerLease r [] 1 s
  | some t =>
    let room := budgetOf s t - grantedTo s.lease t
    if room = 0 then answerLease r [] 2 s
    else
      let (u, got) := chooseBundles r.mask r.peer.toNat (min r.n room) s.lease []
      if r.all && got.length < r.n then answerLease r [] 3 s
      else sendNotices s.lease got { s with lease := { u with serving := some ⟨r, t, got⟩ } }

/-- The next request is served once none is in service. -/
def serveLease : Nat → State → State
  | 0, s => s
  | n + 1, s =>
    match s.lease.serving, s.lease.pending with
    | none, r :: rest => serveLease n (decideLease r (s.mapLease fun u => { u with pending := rest }))
    | _, _ => s

/-- A request reaches the lease unit (R392). -/
def takeLeaseRequest (r : LeaseReq) (s : State) : State :=
  if 64 ≤ s.lease.pending.length then answerLease r [] 4 s
  else serveLease (s.lease.pending.length + 1) (s.mapLease fun u => { u with pending := u.pending ++ [r] })

/-- LEASE_REQUEST (R391, R392): a request of tenant `t` of package `a` for `n` bundles; its ticket's entry and generation, which the
answer carries back, are free values (log 18). -/
def execLeaseRequest (a : BitVec 6) (t : BitVec 5) (n : BitVec 9) (all : Bool) (m : BitVec 256) (s : State) :
    Host.Outcome State Fault Refusal :=
  happen (fun s =>
    let e : BitVec 6 := (Config.openWord s.free).truncate 6
    let g : BitVec 8 := (Config.openWord s.free).extractLsb' 6 8
    takeLeaseRequest { peer := a, carried := t, e := e, g := g, n := n.toNat, all := all, mask := m } s.draw) s

/-- The age of the next ticket. -/
def nextAge (u : LeaseUnit) : Nat := u.bundles.foldl (fun n x => max n (x.age + 1)) 1

/-- Link packets of another package lose the lanes that `f` picks: what of them has landed is gone, and they come again from their first
flit (R390, R392). -/
def cutArrivals (f : Nat → Bool) (s : State) : State :=
  let cut (x : Flight) : Bool := (x.lane.map f).getD false
  let again (x : Flight) : Flight := if cut x then { x with lane := none, left := flitsOf x.packet.body } else x
  let lost (u : LeaseUnit) (x : Flight) : LeaseUnit := match x.lane with
    | none => u
    | some n =>
      { u with lanes := u.lanes.map fun y =>
          if 128 * y.plane + y.wave = n then { y with landed := y.landed - (flitsOf x.packet.body - x.left) } else y }
  { s with lightIn := s.lightIn.map again, lease := (s.lightIn.filter cut).foldl lost s.lease }

/-- The chosen bundles become leased, and the ticket is answered (R385, R392); one that was retired meanwhile is not granted. What its
former holder had not finished on one is cut, and comes again. -/
def grantServing (s : State) : State :=
  match s.lease.serving with
  | none => s
  | some v =>
    let age := nextAge s.lease
    let got := v.got.filter fun b => (bundleAt s.lease b).state != 4
    let s1 := cutArrivals (fun n => got.contains (n / 64)) s
    let u := got.foldl (fun u b => mapBundle b (fun x =>
      { x with state := 2, peer := v.req.peer, tenant := v.tenant, carried := v.req.carried, ticket := v.req.e, gen := v.req.g,
               age := age }) u) s1.lease
    let t := answerLease v.req got 0 { s1 with lease := { u with serving := none } }
    serveLease (t.lease.pending.length + 1) t

/-- The answer of package `p` to one of this package's own tickets (R396). What it grants to a ticket that is gone, or of a bundle that
was retired meanwhile, is released again (R393); a bundle that the ticket offers no longer was revoked meanwhile. -/
def takeLeaseAnswer (p : Nat) (t : BitVec 5) (e : BitVec 6) (g : BitVec 8) (granted : List Nat) (reason : BitVec 3) (s : State) :
    State :=
  let mine (k : Ticket) : Bool := k.tenant == t && k.idx == e && k.gen == g && k.pend && k.peer.toNat == p
  let live (b : Nat) : Bool := decide (56 ≤ (bundleAt s.lease b).txlive)
  let given := match s.lease.tickets.find? mine with
    | none => granted
    | some k => granted.filter k.offer.getLsbD
  let keep := if s.lease.tickets.any mine then sortBundles (given.filter live) else []
  let u := prunePins (s.mapLease fun u =>
    { u with tickets := updateFirst mine (fun k =>
        { k with pend := false, granted := keep, refused := reason != 0, reason := reason, offer := 0 }) u.tickets })
  let gone := given.filter fun b => !keep.contains b
  if gone.isEmpty then u else sendLease p t (.leaseRel gone) u

/-- The packet is a lease answer. -/
def isLeaseAnswer (p : Packet) : Bool :=
  match p.body with
  | .leaseAns _ _ _ _ => true
  | _ => false

/-- LEASE_GRANT (R392): an answer that has arrived reaches its ticket; otherwise the request in service is granted. -/
def execLeaseGrant (s : State) : Host.Outcome State Fault Refusal :=
  happen (fun s =>
    match s.fabric.find? isLeaseAnswer with
    | some p =>
      let t := { s with fabric := removeFirst isLeaseAnswer s.fabric }
      match p.body with
      | .leaseAns e g l r => takeLeaseAnswer (pkgOf p.src) p.tenant e g l r t
      | _ => t
    | none => grantServing s) s

/-- Link packets lose the lanes that `f` picks, and are sent from their first flit again (R388, R390, R392). -/
def cutFlights (f : Flight → Nat → Bool) (s : State) : State :=
  let again (x : Flight) : Flight :=
    if (x.lane.map (f x)).getD false then { x with lane := none, left := flitsOf x.packet.body } else x
  { s with lightOut := s.lightOut.map again }

/-- The transmit bundle carries traffic of this package: it is granted, or a base bundle. -/
def transmits (s : State) (b : Nat) : Bool :=
  s.lease.tickets.any (fun k => k.granted.contains b) || s.lease.paths.any fun e => e.2.contains b

/-- DRAIN_GRACE_EXPIRY (R392): a packet that is unfinished on the revoked transmit bundle is cut, and nothing stays pinned there. -/
def execDrainGraceExpiry (b : BitVec 8) (s : State) : Host.Outcome State Fault Refusal :=
  happen (fun s =>
    if transmits s b.toNat then s
    else
      (cutFlights (fun _ n => n / 64 == b.toNat) s).mapLease fun u =>
        { u with pins := u.pins.filter fun q => q.bundle != b.toNat }) s

/-- The bundles become base bundles of a peer. -/
def makeBase (p : Nat) (l : List Nat) (u : LeaseUnit) : LeaseUnit :=
  l.foldl (fun u b => mapBundle b (fun x =>
    { x with state := 1, peer := BitVec.ofNat 6 p, tenant := 0, carried := 0, ticket := 0, gen := 0, age := 0 }) u) u

/-- A release of a peer that has arrived: the bundles drain before they are free (R393). -/
def takeRelease (p : Nat) (l : List Nat) (s : State) : State :=
  s.mapLease fun u => l.foldl (fun u b => mapBundle b (fun x =>
    if x.state = 2 ∧ x.peer.toNat = p then { x with state := 3 } else x) u) u

/-- The base bundles of a peer, rising. -/
def baseOf (u : LeaseUnit) (p : Nat) : List Nat :=
  sortBundles ((u.bundles.filter fun x => x.state == 1 && x.peer.toNat == p).map fun x => x.idx)

/-- A peer hears which receive bundles are its base bundles now: its tenants without a lease send on them (R386, R388, R395; log 18). -/
def tellBase (p : Nat) (s : State) : State := sendLease p 0 (.baseNotice (baseOf s.lease p)) s

/-- The base bundles that package `p` gives this package (R386, R395): a new one that is assigned already is not taken, and no packet
starts on one that is lost. -/
def takeBase (p : Nat) (l : List Nat) (s : State) : State :=
  let old := (assocGet s.lease.paths p).getD []
  let now := sortBundles (l.filter fun b => old.contains b || (freeMask s p).getLsbD b)
  let lost := old.filter fun b => !now.contains b
  cutFlights (fun x n => lost.contains (n / 64) && x.left == flitsOf x.packet.body)
    (prunePins (s.mapLease fun u => { u with paths := assocSet u.paths p now }))

/-- A drained bundle: base of the peer whose raised floor it was revoked for, or free (R393, R395). -/
def drainedBundle (b : Nat) (s : State) : State :=
  match s.lease.raising.find? fun e => e.2.contains b with
  | some e =>
    tellBase e.1 (s.mapLease fun u => makeBase e.1 [b] { u with raising := u.raising.map fun e => (e.1, e.2.filter (· != b)) })
  | none => s.mapLease (freeBundle b)

/-- A link packet is under way on a lane of receive bundle `b`. -/
def busyRx (s : State) (b : Nat) : Bool := s.lightIn.any fun f => (f.lane.map fun n => n / 64 == b).getD false

/-- LEASE_RELEASE (R393): a bundle that was released, or revoked for no request in service, has drained: no packet is under way on
it. One that was revoked for a raised floor drains for its grace only: what its former holder had not finished is cut, and comes again
(R392, R395). -/
def execLeaseRelease (b : BitVec 8) (s : State) : Host.Outcome State Fault Refusal :=
  happen (fun s =>
    let raised := s.lease.raising.any fun e => e.2.contains b.toNat
    if (bundleAt s.lease b.toNat).state = 3 ∧ chosen s.lease b.toNat = false ∧ (raised ∨ busyRx s b.toNat = false) then
      drainedBundle b.toNat (if raised then cutArrivals (fun n => n / 64 == b.toNat) s else s)
    else s) s

/-- A ticket's bundle is revoked: the ticket loses it, and no packet starts there any more (R392). -/
def loseGrant (t : BitVec 5) (e : BitVec 6) (b : Nat) (s : State) : State :=
  cutFlights (fun x n => n / 64 == b && x.left == flitsOf x.packet.body)
    (prunePins (mapTicket t e (fun k => { k with granted := k.granted.filter (· != b), rev := true }) s))

/-- A revoke notice of package `p` for the ticket of entry `e` and generation `g` that has arrived: one that names a ticket which is no more
is late, and says nothing of the ticket that has its entry now (R393). Where it has overtaken the answer that grants the bundle, the ticket
will not take the bundle: it offers it no longer. -/
def takeRevoke (p : Nat) (t : BitVec 5) (e : BitVec 6) (g : BitVec 8) (b : Nat) (s : State) : State :=
  match s.lease.tickets.find? fun k => k.tenant == t && k.idx == e && k.gen == g && k.peer.toNat == p with
  | none => s
  | some k =>
    if k.pend then mapTicket t e (fun k => { k with offer := k.offer &&& ~~~(BitVec.ofNat 256 (2 ^ b)), rev := true }) s
    else if k.granted.contains b then loseGrant t e b s
    else s

/-- REVOKE_NOTICE (R392), from the peer of the ticket that holds the bundle. -/
def execRevokeNotice (t : BitVec 5) (e : BitVec 6) (b : BitVec 8) (s : State) : Host.Outcome State Fault Refusal :=
  happen (fun s =>
    if s.lease.tickets.any (fun k => k.tenant == t && k.idx == e && k.granted.contains b.toNat) then loseGrant t e b.toNat s else s) s

/-! ## Floors and the domain (R386, R393, R395) -/

/-- The bundles that drain for a peer's raised floor. -/
def raisingOf (u : LeaseUnit) (p : Nat) : List Nat := (assocGet u.raising p).getD []

/-- The base bundles of a peer brought to its floor (R395): bundles that are free become base at once, those taken by revocation
when they have drained; the highest bundles of a lowered floor drain before they are free. The peer hears of the change. What its
transmit bundles admit is a free value (log 18). -/
def applyFloor (p : Nat) (s : State) : State :=
  let base := baseOf s.lease p
  let coming := raisingOf s.lease p
  let want := floorOf s p
  if base.length + coming.length < want then
    let (u, got) := chooseBundles (Config.peerMask s.free p) p (want - base.length - coming.length) s.lease []
    let now := got.filter fun b => (bundleAt u b).state == 0
    let later := got.filter fun b => (bundleAt u b).state == 3
    tellBase p
      (sendNotices s.lease got { s.draw with lease := makeBase p now { u with raising := assocSet u.raising p (coming ++ later) } })
  else
    tellBase p (s.mapLease fun u => (base.drop want).foldl (fun u b => mapBundle b (fun x => { x with state := 3 }) u)
      { u with raising := assocSet u.raising p (coming.take (want - base.length)) })

/-- FLOOR_CHANGE (R395): the floor that LFLOOR wrote is applied. -/
def execFloorChange (a : BitVec 6) (n : BitVec 9) (s : State) : Host.Outcome State Fault Refusal :=
  happen (fun s => if floorOf s a.toNat = n.toNat then applyFloor a.toNat s else s) s

/-- What the lease unit and the gateways hold of peer `a` ends: its bundles drain (R393). -/
def dropPeer (a : BitVec 6) (u : LeaseUnit) : LeaseUnit :=
  let p := a.toNat
  let held := (u.bundles.filter fun x => (x.state == 1 || x.state == 2) && x.peer == a).map fun x => x.idx
  let v := held.foldl (fun u b => mapBundle b (fun x => { x with state := 3 }) u) u
  { v with
    tickets := v.tickets.filter fun k => k.peer != a
    floors := assocErase v.floors p, raising := assocErase v.raising p, paths := assocErase v.paths p
    pending := v.pending.filter fun r => r.peer != a
    serving := v.serving.bind fun x => if x.req.peer = a then none else some x
    pins := v.pins.filter fun q => pkgOf q.dst != p
    domain := v.domain &&& ~~~(BitVec.ofNat 64 (2 ^ p)) }

/-- PEER_LEAVE (R393): the leases of a peer end, and the next request is served. -/
def execPeerLeave (a : BitVec 6) (s : State) : Host.Outcome State Fault Refusal :=
  happen (fun s =>
    if a.toNat = s.pkg then s
    else
      let t := s.mapLease (dropPeer a)
      serveLease (t.lease.pending.length + 1) t) s

/-- DOMAIN_BRINGUP (R386): a floor of one base bundle for each peer. -/
def execDomainBringup (m : BitVec 64) (s : State) : Host.Outcome State Fault Refusal :=
  happen (fun s =>
    let peers := (List.range 64).filter fun p => p != s.pkg && m.getLsbD p
    s.mapLease fun u =>
      let clean : LeaseUnit :=
        { u with
          tickets := [], bundles := [], pending := [], serving := none, lanes := [], pins := [], dead := [], deadRx := []
          floors := peers.map fun p => (p, 1), raising := []
          paths := peers.map fun p => (p, [(p + 64 - s.pkg) % 64])
          domain := m ||| BitVec.ofNat 64 (2 ^ s.pkg) }
      peers.foldl (fun u p => makeBase p [(s.pkg + 64 - p) % 64] u) clean) s

/-- The ending of leases that this package granted, chosen by `f`: they drain before they are free (R393). -/
def endGrants (f : Bundle → Bool) (s : State) : State :=
  let l := (s.lease.bundles.filter fun x => x.state == 2 && f x).map fun x => x.idx
  let u := l.foldl (fun u b => mapBundle b (fun x => { x with state := 3 }) u) s.lease
  sendNotices s.lease l { s with lease := u }

/-- The ending of a tenant releases its tickets and every grant made to it (R393). -/
def endTenantLeases (t : BitVec 5) (s : State) : State :=
  let held := s.lease.tickets.filter fun k => k.tenant == t
  let s1 := held.foldl (fun u k => releaseBundles k k.granted.length true u) s
  endGrants (fun x => x.tenant == t) s1

/-- A write of INGR for package `a` and carried tenant `t`; a change ends the matching leases (R366). -/
def ingrStore (a : BitVec 6) (t : BitVec 5) (v : Word) (s : State) : State :=
  let e : BitVec 6 := BitVec.ofNat 6 ((v.getLsbD 31).toNat * 32 + bitsNat v 4 0)
  let s1 := s.mapLease fun u => { u with ingress := assocSet u.ingress (32 * a.toNat + t.toNat) e }
  if ingressOf s a.toNat t = ingressOf s1 a.toNat t then s1
  else endGrants (fun x => x.peer == a && x.carried == t) s1

/-- INGR_WRITE (R366), by the physical function. -/
def execIngrWrite (a : BitVec 6) (t : BitVec 5) (v : BitVec 32) (s : State) : Host.Outcome State Fault Refusal :=
  hostStep (ingrStore a t v) s

/-! ## Lanes (R387 to R390) -/

/-- The receive lane of plane `q`, wavelength `w`. -/
def laneAt (u : LeaseUnit) (q w : Nat) : LaneSt :=
  (u.lanes.find? fun l => l.plane == q && l.wave == w).getD ⟨q, w, 0, false, []⟩

/-- A receive lane replaced. -/
def putLane (x : LaneSt) (u : LeaseUnit) : LeaseUnit :=
  { u with lanes := x :: u.lanes.filter fun l => !(l.plane == x.plane && l.wave == x.wave) }

/-- Hold is raised with fewer than 32 of 64 slots free and lowered with 48 free (R389). -/
def holdOf (old : Bool) (landed : Nat) : Bool := if 64 - landed < 32 then true else if 48 ≤ 64 - landed then false else old

/-- A piece in another package ends (R231, R232): it was accepted, or its row is refused; a refused piece of a plan entry ends its launch
(R242). -/
def settlePiece (e : BitVec 21) (a : DWord) (r : Reply) (s : State) : State :=
  let mine (x : Away) : Bool := x.src == e && x.addr == a && x.ended.isNone
  match s.away.find? mine, rowEnd s.free r with
  | none, _ => s
  | some _, none => { s with away := removeFirst mine s.away }
  | some x, some end_ =>
    match x.plan with
    | some id => State.kill { s.draw with away := removeFirst mine s.away } id
    | none => { s.draw with away := updateFirst mine (fun x => { x with ended := some end_ }) s.away }

/-- A block of a checkpoint image that package `p` sends: written with its metadata as sent, while CKRX names that package (R440). -/
def takeBlock (p pa : Nat) (bs : List Byte) (m : BlockMeta) (s : State) : State :=
  if s.flint.ckrx.getLsbD 31 && s.flint.ckrx.toNat % 64 == p && physOk pa && bs.length == 64 then
    State.mapBlock { s with hbm := s.hbm.put (64 * blockOf pa) bs } (blockOf pa) fun _ => { m with block := blockOf pa }
  else s

/-- A block asked back by the package that CKRX names, with its metadata (R440). -/
def giveBlock (p pa : Nat) (s : State) : State :=
  if s.flint.ckrx.getLsbD 31 && s.flint.ckrx.toNat % 64 == p && physOk pa then
    sendLease p 0 (.ckBlock pa (s.hbm.bytes (64 * blockOf pa) 64) (s.block (blockOf pa))) s
  else s

/-- A packet from another package enters with its local tenant, or is refused (R365). A lease request is mapped when it is decided
(R391), and the messages of the lease unit and of the checkpoint engine carry no tenant's traffic. DESIGN CHOICE (log 18): a reply under
an unmapped tenant completes its request as refused with subcode 4; a queued notice is dropped. The bytes of a piece read in another
package are free values at once (log 12), so that they change nothing. -/
def admitPacket (p : Packet) (s : State) : State :=
  match p.body with
  | .leaseReq e g n all m =>
    takeLeaseRequest { peer := BitVec.ofNat 6 (pkgOf p.src), carried := p.tenant, e := e, g := g, n := n, all := all, mask := m } s
  | .leaseAns _ _ _ _ => { s with fabric := s.fabric ++ [p] }
  | .baseNotice l => takeBase (pkgOf p.src) l s
  | .ckBlock pa bs m => takeBlock (pkgOf p.src) pa bs m s
  | .ckFetch pa => giveBlock (pkgOf p.src) pa s
  | .pieceData _ => s
  | .pieceDone a r =>
    if p.slot ≠ 0 then s
    else settlePiece p.dst a (if (ingressOf s (pkgOf p.src) p.tenant).isSome then r else .nack 4) s
  | .leaseRel l => takeRelease (pkgOf p.src) l s
  | .revoke e g b => takeRevoke (pkgOf p.src) p.tenant e g b s
  | body =>
    match ingressOf s (pkgOf p.src) p.tenant, body with
    | some t, _ => { s with fabric := s.fabric ++ [{ p with tenant := t }] }
    | none, .reply _ => { s with fabric := s.fabric ++ [{ p with body := .reply (.nack 4) }] }
    | none, .queued => s
    | none, _ => s.answer p (.nack 4)

/-- A receive bundle left with fewer than 56 live lanes is retired once, its holder, of a lease or of a base bundle, treated as revoked at once,
and what was under way on any of its lanes comes again: nothing is lost (R390). The retirement is Correctable. -/
def retireBundle (b : Nat) (s : State) : State :=
  let x := bundleAt s.lease b
  let t := (cutArrivals (fun n => n / 64 == b) (s.logError .correctable 0)).mapLease fun u =>
    mapBundle b (fun x => { x with state := 4, peer := 0, tenant := 0, carried := 0, ticket := 0, gen := 0, age := 0 })
      { u with raising := u.raising.map fun e => (e.1, e.2.filter (· != b)) }
  if x.state = 4 then s
  else if x.state = 2 then sendLease x.peer.toNat x.carried (.revoke x.ticket x.gen b) t
  else if x.state = 1 then tellBase x.peer.toNat t
  else t

/-- Receive lane `n` is retired: what was under way on it comes again on a lane that its sender chooses (R390). -/
def retireRx (n : Nat) (s : State) : State :=
  if s.lease.deadRx.contains n then s
  else
    let b := n / 64
    let s1 := (s.logError .correctable 0).mapLease fun u =>
      mapBundle b (fun x => { x with rxlive := x.rxlive - 1 }) { u with deadRx := insertNat u.deadRx n }
    let s2 := cutArrivals (· == n) s1
    if (bundleAt s2.lease b).rxlive < 56 then retireBundle b s2 else s2

/-- The tickets and base paths of this package lose a transmit bundle that was retired; what was under way on it is replayed (R390). The
retirement is Correctable. -/
def loseBundle (b : Nat) (s0 : State) : State :=
  let s := s0.logError .correctable 0
  let lose (k : Ticket) : Ticket :=
    if k.granted.contains b then { k with granted := k.granted.filter (· != b), rev := true } else k
  cutFlights (fun _ n => n / 64 == b) (prunePins (s.mapLease fun u =>
    { u with tickets := u.tickets.map lose, paths := u.paths.map fun e => (e.1, e.2.filter (· != b)) }))

/-- Transmit lane `n` is retired: its unacknowledged flits are replayed on a new lane, or the gateway cannot and the device stops
(R390). -/
def retireTx (n : Nat) (s : State) : State :=
  if s.lease.dead.contains n then s
  else
    let b := n / 64
    let sending := s.lightOut.any fun f => f.lane == some n && f.left != flitsOf f.packet.body
    let s1 := (s.logError .correctable 0).mapLease fun u =>
      mapBundle b (fun x => { x with txlive := x.txlive - 1 })
        { u with dead := insertNat u.dead n, pins := u.pins.filter fun q => 64 * q.bundle + q.wave != n }
    let s2 := cutFlights (fun _ m => m == n) s1
    let s3 := if sending then (if Config.replays s2.free then s2.draw else s2.draw.deviceFatal) else s2
    let before := (bundleAt s.lease b).txlive
    if 56 ≤ before ∧ before - 1 < 56 then loseBundle b s3 else s3

/-- LANE_RETIRE (R390). -/
def execLaneRetire (b : BitVec 8) (w : BitVec 6) (tx : Bool) (s : State) : Host.Outcome State Fault Refusal :=
  happen (if tx then retireTx (64 * b.toNat + w.toNat) else retireRx (64 * b.toNat + w.toNat)) s

/-- A lane is lit: its bundle carries an assignment, and it is not retired (R384). -/
def laneLit (u : LeaseUnit) (n : Nat) : Bool :=
  let x := bundleAt u (n / 64)
  (x.state == 1 || x.state == 2 || x.state == 3) && !u.deadRx.contains n

/-- One millisecond in cycles of 850 MHz (R16, log 7). -/
def msCycles : Nat := 850000

/-- A flit that failed its CRC is asked for again; more than 16 in one millisecond retire the lane (R390). -/
def failFlit (n : Nat) (x : LaneSt) (s : State) : State :=
  let now := s.cycle.toNat
  let recent := now :: x.resends.filter fun c => decide (now < c + msCycles)
  let t := (s.mapLease (putLane { x with resends := recent })).logError .correctable 0
  if 16 < recent.length then retireRx n t else t

/-- A link packet may start on a receive bundle (R385): on a base bundle one of a tenant that holds no lease here, on a leased one of the
tenant that holds it, on a revoking one none. -/
def mayStart (s : State) (x : Bundle) (p : Packet) : Bool :=
  match x.state with
  | 1#3 => !(s.lease.bundles.any fun y => y.state == 2 && y.peer == x.peer && y.carried == p.tenant)
  | 2#3 => p.tenant == x.carried
  | _ => false

/-- The first link packet of a list that may start there, with no earlier one of its ordered channel unfinished (R388). -/
def startFlight (s : State) (x : Bundle) : List Flight → List Flight → Option Flight
  | _, [] => none
  | before, f :: l =>
    let pair (g : Flight) : Bool :=
      isOrdered g.packet && isOrdered f.packet && g.packet.src == f.packet.src && g.packet.dst == f.packet.dst
    if f.lane.isNone && pkgOf f.packet.src == x.peer.toNat && mayStart s x f.packet && !before.any pair then some f
    else startFlight s x (before ++ [f]) l

/-- The link packet of the lane's sender that its next flit belongs to (R384): one under way there, or one that may start there. -/
def nextFlight (s : State) (n : Nat) : Option Flight :=
  let x := bundleAt s.lease (n / 64)
  match s.lightIn.find? fun f => f.lane == some n && pkgOf f.packet.src == x.peer.toNat with
  | some f => some f
  | none => startFlight s x [] s.lightIn

/-- A flit lands (R387, R389): the last of its packet lets the packet enter, and its flits leave the landing buffer. -/
def landFlit (n : Nat) (x : LaneSt) (s : State) : State :=
  let landed (k : Nat) : State := s.mapLease (putLane { x with landed := k, hold := holdOf x.hold k })
  let more := min (x.landed + 1) 64
  match nextFlight s n with
  | none => landed more
  | some f =>
    if f.left ≤ 1 then
      let t := landed (x.landed + 1 - flitsOf f.packet.body)
      admitPacket f.packet { t with lightIn := removeFirst (· == f) t.lightIn }
    else
      let t := landed more
      { t with lightIn := updateFirst (· == f) (fun f => { f with lane := some n, left := f.left - 1 }) t.lightIn }

/-- LINK_FLIT (R384, R387, R389, R390), on receive lane (q, w); none comes on a dark lane. -/
def execLinkFlit (q w : BitVec 7) (ok : Bool) (s : State) : Host.Outcome State Fault Refusal :=
  happen (fun s =>
    let n := 128 * q.toNat + w.toNat
    let x := laneAt s.lease q.toNat w.toNat
    if laneLit s.lease n then (if ok then landFlit n x s else failFlit n x s) else s) s

/-! ## The sending side (R388, R389) -/

/-- Packets without a lane get one where they may, in order. -/
def pinWaiting : List Flight → List Flight → State → State
  | [], before, s => { s with lightOut := before }
  | f :: l, before, s =>
    if f.lane.isSome then pinWaiting l (before ++ [f]) s
    else
      let r := s.pin before f.packet
      pinWaiting l (before ++ [{ f with lane := r.1 }]) r.2

/-- The tenant number under which package `p` answers local tenant `t`: one that the ingress table maps back, if there is one (R365). -/
def carriedFor (s : State) (p : Nat) (t : BitVec 5) : BitVec 5 :=
  (((List.range 32).map fun c => BitVec.ofNat 5 c).find? fun c => ingressOf s p c == some t).getD t

/-- The sender of a packet to another package still waits for its answer. -/
def awaitsAnswer (s : State) (p : Packet) : Bool :=
  match p.body with
  | .write a _ => p.slot == 0 && s.away.any fun x => x.src == p.src && x.addr == a
  | .leaseReq _ _ _ _ _ => true
  | _ => (((s.coreAt (localOf p.src)).ni.slot p.slot.toNat).map fun x => x.packet == p && x.reply.isNone).getD false

/-- How a peer answers a lease request (R391): the bundles that it grants, among those offered, or why it refuses (log 12). -/
def peerLease (s : State) (p n : Nat) (all : Bool) (m : BitVec 256) : List Nat × BitVec 3 :=
  let got := (bundlesIn (m &&& Config.peerMask s.free p)).take n
  let why := (Config.peerAnswer s.free).1
  if all && got.length < n then ([], 3)
  else if got.isEmpty || why.getLsbD 2 then ([], if why.getLsbD 0 then 1 else if why.getLsbD 1 then 2 else 4)
  else (got, 0)

/-- What comes back from another package for a packet that has arrived there (R290, R309, R365, R391): free values say whether it is
performed and which data it answers with (log 12). -/
def peerBodies (s : State) (p : Packet) : List Body :=
  let v := (Config.peerAnswer s.free).2
  let done (r : Reply) : List Body := [endOf s.pkg p.body ((peerRefusal s.free p.body).getD r)]
  let word : Reply := .data ((v.setWidth 32).setWidth 64)
  match p.body with
  | .leaseReq e g n all m => let (l, r) := peerLease s (pkgOf p.dst) n all m; [.leaseAns e g l r]
  | .load _ z => done (.data (BitVec.ofNat 64 (v.toNat % 2 ^ (8 * z))))
  | .amo _ _ _ _ _ | .ttake _ _ => done word
  | .take _ => if v.getLsbD 63 && (peerRefusal s.free p.body).isNone then .queued :: done word else done word
  | .store _ _ _ | .put _ _ | .msg _ _ | .mcmd _ _ _ _ | .radv _ _ _ | .evsig _ _ | .write _ _ => done .ack
  | _ => []

/-- A packet has arrived in another package: its answer sets out, if its sender waits for one. -/
def reachPeer (p : Packet) (s : State) : State :=
  let back (b : Body) : Flight :=
    { packet := { src := p.dst, dst := p.src, tenant := match b with
          | .leaseAns _ _ _ _ => p.tenant
          | _ => carriedFor s (pkgOf p.dst) p.tenant, slot := p.slot, body := b }
      lane := none, left := flitsOf b }
  if awaitsAnswer s p then { s.draw with lightIn := s.lightIn ++ (peerBodies s p).map back } else s

/-- One flit goes out: of which lane is a free value, and so is the hold bit that its receiver sends back (R389, log 18). A packet
whose last flit is acknowledged has arrived. -/
def sendFlit (s : State) : State :=
  let lanes := (s.lightOut.filterMap fun f => f.lane).eraseDups
  let v := (Config.openWord s.free).toNat
  match lanes[v / 2 % lanes.length]? with
  | none => s
  | some n =>
    let mine (f : Flight) : Bool := f.lane == some n
    if v % 2 = 1 then s.draw
    else
      match s.lightOut.find? mine with
      | none => s.draw
      | some f =>
        if 1 < f.left then { s.draw with lightOut := updateFirst mine (fun f => { f with left := f.left - 1 }) s.lightOut }
        else reachPeer f.packet { s.draw with lightOut := removeFirst mine s.lightOut }

/-- The gateways send. -/
def transmit (s : State) : State := sendFlit (pinWaiting s.lightOut [] s)

/-- FLOWLET_GAP_EXPIRY (R388): the flowlet of a relaxed flow ends. -/
def execFlowletGapExpiry (a b : BitVec 21) (s : State) : Host.Outcome State Fault Refusal :=
  happen (fun s => s.mapLease fun u =>
    { u with pins := u.pins.filter fun q => !(q.relaxed && q.src == a && q.dst == b) }) s

end Sys2Proof.Machine
end

