-- ==== Sys2Proof/Machine/Security.lean ====
section
/-!
DEFINITION. Flint and Quartz: the alarm (R424, R425), lifecycle (R426), quotes (R428, R429), the recovery mailbox (R436),
checkpoints (R439, R440), throttling (R438), field tests (R417) and the sideband (R441).
-/

namespace Sys2Proof.Machine
open Sys2Proof

/-- Flint changed. -/
def State.mapFlint (s : State) (f : Flint → Flint) : State := { s with flint := f s.flint }

/-- Quartz changed. -/
def State.mapQuartz (s : State) (f : Quartz → Quartz) : State := { s with quartz := f s.quartz }

/-- The lifecycle state as R428 codes it. -/
def lifeCode : Life → Nat
  | .manufacturing => 0
  | .provisioned => 1
  | .locked => 2
  | .awaiting => 3
  | .decommissioned => 4

/-- A gang runs or holds a saved context (R439). -/
def anyGang (s : State) : Bool := s.launches.any fun l => l.stage != .bound && l.stage != .eligible && !l.gang.isEmpty

/-! ## The alarm (R424, R425) -/

/-- ALMSTAT. -/
def almstat (s : State) : Word :=
  let f := s.flint
  BitVec.ofNat 32
    ((f.life == .locked).toNat * 2 ^ 31 + f.tamper.toNat * 2 ^ 30 + f.level.toNat * 2 ^ 28 + f.count * 2 ^ 16 + f.amb)

/-- ALMT of a tenant. -/
def almt (s : State) (t : Nat) : Word :=
  BitVec.ofNat 32 ((s.flint.contained.contains t).toNat * 256 + (assocGet s.flint.tcount t).getD 0)

/-- A write of ALMCTL: ignored while locked; a zero field stores 1. -/
def almctlWrite (v : Word) (s : State) : State :=
  let one (n : Nat) : Nat := if n = 0 then 1 else n
  let w : Word :=
    BitVec.ofNat 32 (one (bitsNat v 31 24) * 2 ^ 24 + one (bitsNat v 15 8) * 2 ^ 8 + one (bitsNat v 7 0))
  if s.flint.life = .locked then s else s.mapFlint fun f => { f with almctl := w }

/-- A read of ALMSTAT: amb is cleared. -/
def almstatLoad (s : State) : Word × State := (almstat s, s.mapFlint fun f => { f with amb := 0 })

/-- TAMPER_INPUT (R424): level 3. -/
def execTamperInput (s : State) : Host.Outcome State Fault Refusal := happen (alarmErase true) s

/-- ALARM_WINDOW_EXPIRY (R424): every counter of the window returns to 0. -/
def execAlarmWindowExpiry (s : State) : Host.Outcome State Fault Refusal :=
  happen (fun s => s.mapFlint fun f => { f with count := 0, tcount := [] }) s

/-- ALMSTAT_READ (R425), by the host. -/
def execAlmstatRead (s : State) : Host.Outcome State Fault Refusal :=
  hostStep (fun s => (almstatLoad s).2.mapQuartz fun q => { q with hostRead := (almstatLoad s).1 }) s

/-! ## Lifecycle (R426) -/

/-- The device runs launches: it is provisioned, and not Fatal (R404, R426). -/
def launchesRun (s : State) : Bool := s.flint.life == .provisioned && !s.quartz.fatal

/-- A step of the distributor or of a gang, which nothing takes where the device runs no launch (R404, R426). -/
def launchStep (f : State → State) (s : State) : Host.Outcome State Fault Refusal :=
  happen (fun s => if launchesRun s then f s else s) s

/-- PROVISIONING (R426): once, from the state at delivery, with new keys (R420). -/
def execProvisioning (s : State) : Host.Outcome State Fault Refusal :=
  happen (fun s =>
    if s.flint.life = .manufacturing then
      s.draw.mapFlint fun f => { f with life := .provisioned, identity := true, keys := newKeys (s.free + 1), coldResets := 0 }
    else s) s

/-- FUSE_DECOMMISSION (R426): the identity is destroyed, and no launch and no enabled queue stays (log 19). -/
def execFuseDecommission (s : State) : Host.Outcome State Fault Refusal :=
  hostStep (fun s =>
    let t := (s.launches.map fun l => l.id).foldl (fun u id => u.kill id) s
    let off (h : HostFn) : HostFn := { h with queues := vmap (fun q => { q with en := false }) h.queues }
    { t with fns := t.fns.map fun (e : Nat × HostFn) => (e.1, off e.2) }.mapFlint fun f =>
      { f with life := .decommissioned, identity := false, keys := .replicate 32 none }) s

/-! ## Quotes (R428, R429) -/

/-- A nonce is fresh: not all zero, and not that of the last quote delivered. -/
def freshNonce (f : Flint) (n : Vector Word 8) : Bool := n != .replicate 8 0 && some n != f.lastNonce

/-- A request for a quote; none where it is refused. -/
def quoteRequest (side : Bool) (n : Vector Word 8) (s : State) : Option State :=
  let f := s.flint
  if f.qbusy || !freshNonce f n || f.life == .decommissioned then none
  else some (s.mapFlint fun f => { f with qbusy := true, sideband := side, request := n })

/-- A write of QTCTL.go. -/
def quoteGo (s : State) : State :=
  (quoteRequest false s.flint.nonce s).getD (s.mapFlint fun f => { f with qerr := true })

/-- QTSTAT. -/
def qtstat (s : State) : Word :=
  BitVec.ofNat 32 (s.flint.qbusy.toNat * 2 ^ 31 + s.flint.qdone.toNat * 2 ^ 30 + s.flint.qerr.toNat * 2 ^ 29)

/-- A write of QTSTAT. -/
def qtstatWrite (v : Word) (s : State) : State :=
  s.mapFlint fun f => { f with qdone := f.qdone && !v.getLsbD 30, qerr := f.qerr && !v.getLsbD 29 }

/-- A write of QTNONCE word `i`. -/
def nonceWrite (i : Nat) (v : Word) (s : State) : State :=
  s.mapFlint fun f => { f with nonce := f.nonce.setIfInBounds i v, qdone := false }

/-- The quote registers are served in every state but decommissioned, also while the device is Fatal or its islands are off (R16, R404,
R429). -/
def quoteStep (f : State → State) (s : State) : Host.Outcome State Fault Refusal :=
  happen (fun s => if s.flint.life = .decommissioned then s else f s) s

/-- QTCTL_GO (R429): the decommissioned state refuses with err. -/
def execQtctlGo (s : State) : Host.Outcome State Fault Refusal := happen quoteGo s

/-- QTNONCE_WRITE (R429). -/
def execQtnonceWrite (i : BitVec 3) (v : BitVec 32) (s : State) : Host.Outcome State Fault Refusal :=
  quoteStep (nonceWrite i.toNat v) s

/-- The measurement of the alarm and floor configuration: ALMCTL and the floors of the 64 packages. DESIGN CHOICE (log 25): R428 does not
say in which form they are measured. -/
def configMeasure (s : State) : BitVec 384 :=
  Config.sha384 260 ((0, s.flint.almctl) :: (List.range 64).map fun p => (p + 1, BitVec.ofNat 32 (floorOf s p)))

/-- The bytes of a quote (R428): the measurements of the images that were loaded and of the configuration; signatures are free values
(log 11). -/
def quoteBytes (s : State) : List Byte :=
  let free (a n : Nat) : List Byte := (List.range n).map fun i => Config.sealedByte s.free (a + i)
  bytesOf 4 1 ++ bytesOf 4 (lifeCode s.flint.life)
    ++ s.flint.request.toList.foldr (fun w l => bytesOf 4 w.toNat ++ l) []
    ++ (s.flint.measures.toList ++ [configMeasure s]).foldr (fun m l => bytesOf 48 m.toNat ++ l) [] ++ bytesOf 4 (almstat s).toNat ++ bytesOf 4 s.flint.coldResets
    ++ free 0x150 64 ++ free 0x190 3309 ++ bytesOf 3 0

/-- Bytes as little-endian words. -/
def wordsOf : Nat → List Byte → List Word
  | 0, _ => []
  | n + 1, l => BitVec.ofNat 32 (natOfBytes (l.take 4)) :: wordsOf n (l.drop 4)

/-- QUOTE_DONE (R426, R428, R429): the quote goes into QTBUF, or over the sideband, and ends the awaiting-quote state. -/
def execQuoteDone (s : State) : Host.Outcome State Fault Refusal :=
  happen (fun s =>
    let f := s.flint
    if !f.qbusy then s
    else
      let q := wordsOf 928 (quoteBytes s)
      let t := s.draw.mapFlint fun f =>
        { f with
          qbusy := false, lastNonce := some f.request, sideband := false
          life := if f.life = .awaiting then .provisioned else f.life }
      if f.sideband then t.mapQuartz fun z => { z with replies := q }
      else t.mapFlint fun f => { f with qbuf := q, qdone := f.request == f.nonce }) s

/-- SIDEBAND_QUOTE_REQUEST (R429, R441): refused with err as a request through the registers is. -/
def execSidebandQuoteRequest (v : BitVec 256) (s : State) : Host.Outcome State Fault Refusal :=
  happen (fun s =>
    (quoteRequest true (Vector.ofFn fun i : Fin 8 => v.extractLsb' (32 * i.val) 32) s).getD
      (s.mapFlint fun f => { f with qerr := true })) s

/-! ## The sideband (R441) -/

/-- The words of a field-test record (R419). -/
def recWords (r : FtRec) : List Word :=
  [r.kind ++ r.state ++ 0#2 ++ r.die ++ r.cluster ++ r.core ++ r.sub ++ 0#4, BitVec.ofNat 32 r.passes,
    BitVec.ofNat 32 (r.fails * 2 ^ 16), BitVec.ofNat 32 r.at_]

/-- The class of an error, coded in the order of R403. -/
def classCode : ErrClass → Nat
  | .correctable => 0
  | .nonFatal => 1
  | .fatal => 2

/-- MCTP_REQUEST (R441): telemetry, error logs or field-test records; the form of telemetry and logs is the model's
(log 19). -/
def execMctpRequest (k : BitVec 2) (s : State) : Host.Outcome State Fault Refusal :=
  happen (fun s => s.mapQuartz fun q =>
    { q with replies := match k with
        | 0#2 => q.freq.toList.map (BitVec.ofNat 32)
        | 1#2 => q.log.map fun e => BitVec.ofNat 32 (classCode e.1 * 32 + e.2.toNat)
        | 2#2 => q.records.foldr (fun r l => recWords r ++ l) []
        | _ => [] }) s

/-- BOUNDARY_SCAN (R441): pins are read and driven, no architectural state changes; it is ignored unless every core is
held in reset. -/
def execBoundaryScan (_held : Bool) (s : State) : Host.Outcome State Fault Refusal := happen (fun s => s) s

/-! ## The recovery mailbox (R436) -/

/-- RMSTAT. -/
def rmstat (s : State) : Word :=
  let f := s.flint
  BitVec.ofNat 32
    (f.rmbusy.toNat * 2 ^ 31 + f.rmerr.toNat * 2 ^ 30 + f.rmdone.toNat * 2 ^ 29 + f.rmcode.toNat * 2 ^ 16)

/-- A write of RMSTAT. -/
def rmstatWrite (v : Word) (s : State) : State :=
  s.mapFlint fun f => { f with rmerr := f.rmerr && !v.getLsbD 30, rmdone := f.rmdone && !v.getLsbD 29 }

/-- A submission ends with err. -/
def rmRefuse (code : BitVec 8) (s : State) : State :=
  (s.mapFlint fun f => { f with rmbusy := false, rmerr := true, rmcode := code }).raiseMsix 0 3

/-- The image that stands in the buffer, of the length that RMLEN names. -/
def bufferImage (f : Flint) : Firmware :=
  { len := f.rmlen.toNat
    words := (List.range (f.rmlen.toNat / 4)).filterMap fun i =>
      let w := (assocGet f.rmbuf i).getD 0
      if w = 0 then none else some (i, w) }

/-- A stored image passes the checks of R427: none is wrong, else the code of R436. -/
def imageFault (f : Flint) (slot : Nat) (i : Firmware) : Option (BitVec 8) :=
  if Config.verifies f.roots.toList i.words = false then some 1
  else if Config.imageVersion i.words < (f.minVersion[slot]?).getD 0 then some 2
  else none

/-- A submission takes the slot and the image as they stand; the lifecycle, the slot and the length are checked first. DESIGN CHOICE
(log 25): a go while a submission is in progress is ignored, for R436 gives it no case. -/
def rmSubmit (s : State) : State :=
  let f := s.flint
  if f.rmbusy then s
  else if !(f.life == .provisioned || f.life == .awaiting || s.quartz.recov) then rmRefuse 4 s
  else if 4 < f.rmslot.toNat || decide (f.rmlen.toNat < 64) || decide (1048576 < f.rmlen.toNat) ||
      f.rmlen.toNat % 64 != 0 then rmRefuse 3 s
  else s.mapFlint fun f => { f with rmbusy := true, rmsub := (f.rmslot.toNat, bufferImage f) }

/-- A write of RMCTL. -/
def rmctlWrite (v : Word) (s : State) : State :=
  let t := s.mapFlint fun f => { f with rmslot := v.extractLsb' 0 3 }
  if v.getLsbD 31 then rmSubmit t else t

/-- RMCTL_GO (R436). -/
def execRmctlGo (i : BitVec 3) (s : State) : Host.Outcome State Fault Refusal :=
  hostStep (rmctlWrite (0x80000000 ||| i.setWidth 32)) s

/-- RECOVERY_SUBMIT_DONE (R436): an image that passes R427 is stored with done, unless the store failed (code 5); another is refused with
code 1 or 2. -/
def execRecoverySubmitDone (c : BitVec 8) (s : State) : Host.Outcome State Fault Refusal :=
  happen (fun s =>
    let f := s.flint
    if !f.rmbusy then s
    else
      match imageFault f f.rmsub.1 f.rmsub.2 with
      | some e => rmRefuse e s
      | none =>
        if c = 5 then rmRefuse 5 s
        else
          let t := s.mapQuartz fun q => { q with images := assocSet q.images f.rmsub.1 f.rmsub.2 }
          (t.mapFlint fun f => { f with rmbusy := false, rmdone := true, rmcode := 0 }).raiseMsix 0 3) s

/-! ## Checkpoint (R439, R440) -/

/-- CKSTAT. -/
def ckstat (s : State) : Word :=
  let f := s.flint
  BitVec.ofNat 32
    (f.ckbusy.toNat * 2 ^ 31 + f.ckerr.toNat * 2 ^ 30 + f.ckdone.toNat * 2 ^ 29 + f.ckcode.toNat * 2 ^ 16
      + f.ckgib.toNat)

/-- A write of CKSTAT. -/
def ckstatWrite (v : Word) (s : State) : State :=
  s.mapFlint fun f => { f with ckerr := f.ckerr && !v.getLsbD 30, ckdone := f.ckdone && !v.getLsbD 29 }

/-- An operation ends with err. -/
def ckFail (code : BitVec 8) (s : State) : State :=
  (s.mapFlint fun f => { f with ckbusy := false, ckerr := true, ckcode := code }).raiseMsix 0 3

/-- Where the operation reads or writes its image. -/
def ckTarget (f : Flint) : Option (BitVec 6) × DWord :=
  (if f.ckop.getLsbD 29 then some (f.ckop.extractLsb' 0 6) else none, if f.ckop.getLsbD 29 then 0 else f.ckopAddr)

/-- The target of an operation can be reached: host memory, or another package of the domain toward which tenant 0 has a lane (R388, R440). -/
def ckReach (s : State) (op : Word) : Bool :=
  let p := op.toNat % 64
  !op.getLsbD 29 || (p != s.pkg && s.lease.domain.getLsbD p && !(s.lanesTo 0 p).isEmpty)

/-- An operation starts. A save takes the place of what its target held: an older image there is one no longer (log 12). -/
def ckStart (s : State) : State :=
  s.mapFlint fun f =>
    let g := { f with ckbusy := true, ckgib := 0, ckop := f.ckctl, ckopAddr := pairOf f.ckLo f.ckHi, ckHbm := [], ckBlocks := [] }
    if g.ckop.getLsbD 30 then g else { g with ckImages := g.ckImages.filter fun i => (i.peer, i.addr) != ckTarget g }

/-- A write of CKCTL: the RW fields are set; a start is refused with code 1 while any gang runs or is saved, with
code 2 unless provisioned, and with code 3 toward a package that cannot be reached. The operation keeps the fields that its start named; a
go while it is in progress starts nothing (log 17). -/
def ckctlWrite (v : Word) (s : State) : State :=
  let t := s.mapFlint fun f => { f with ckctl := v &&& 0x6000003F#32 }
  if !v.getLsbD 31 || s.flint.ckbusy then t
  else if anyGang t then ckFail 1 t
  else if t.flint.life ≠ .provisioned then ckFail 2 t
  else if !ckReach t t.flint.ckctl then ckFail 3 t
  else ckStart t

/-- CHECKPOINT_SAVE (R439): CKCTL written with go set and restore clear. -/
def execCheckpointSave (v : BitVec 32) (s : State) : Host.Outcome State Fault Refusal :=
  hostStep (ckctlWrite (setBit (setBit v 31 true) 30 false)) s

/-- CHECKPOINT_RESTORE (R440): CKCTL written with go and restore set. -/
def execCheckpointRestore (v : BitVec 32) (s : State) : Host.Outcome State Fault Refusal :=
  hostStep (ckctlWrite (setBit (setBit v 31 true) 30 true)) s

/-- The image at the target, if the target holds one that this model has seen saved (log 12). -/
def ckImage (f : Flint) : Option CkImage := f.ckImages.find? fun i => (i.peer, i.addr) == ckTarget f

/-- A block of an image as a restore writes it: from host memory with its owner tag, its ECC and MAC computed anew; from a peer with its
metadata as they are (R440). -/
def restoredBlock (s : State) (host : Bool) (m : BlockMeta) : BlockMeta :=
  if host then { m with poison := false, err := .clean, mac := s.macKey m.tenant } else m

/-- A block lies in GiB `g` of HBM. -/
def inGib (g : Nat) (m : BlockMeta) : Bool := decide (g * 2 ^ 24 ≤ m.block) && decide (m.block < (g + 1) * 2 ^ 24)

/-- The ciphertext of a block was made under keys that its tenant has no longer (R420). -/
def staleKeys (s : State) (m : BlockMeta) : Bool := m.mac.isSome && m.mac != s.macKey m.tenant

/-- Blocks whose ciphertext a restore from host memory brings back under a new MAC, and whose keys are gone: what they decipher to is free
(R420, log 11). -/
def garble (s : State) (l : List BlockMeta) (h : Memory) : Memory :=
  l.foldl (fun h m => h.put (64 * m.block) ((List.range 64).map fun i => Config.sealedByte s.free (64 * m.block + i))) h

/-- GiB `g` of HBM, in stack and address order, written from an image. -/
def restoreGib (i : CkImage) (g : Nat) (s : State) : State :=
  let host := i.peer.isNone
  let here := i.blocks.filter (inGib g)
  let h := s.hbm.splice i.hbm (g * 2 ^ 30) ((g + 1) * 2 ^ 30)
  let news := here.map (restoredBlock s host)
  { s with
    hbm := if host then garble s (here.filter (staleKeys s)) h else h
    blocks := news.foldl putBlock (s.blocks.filter fun m => !inGib g m) }

/-- GiB `g` of HBM taken into the image of a save as it is now. -/
def saveGib (g : Nat) (s : State) : State :=
  s.mapFlint fun f =>
    { f with ckHbm := f.ckHbm.splice s.hbm (g * 2 ^ 30) ((g + 1) * 2 ^ 30), ckBlocks := f.ckBlocks ++ s.blocks.filter (inGib g) }

/-- What the engine sends for GiB `g` goes to a peer on the lanes of tenant 0 (R440). -/
def ckSend (g : Nat) (s : State) : State :=
  match (ckTarget s.flint).1 with
  | none => s
  | some p => sendLease p.toNat 0 (.ckGib g (s.flint.ckop.getLsbD 30)) s

/-- Why a restore is refused before it writes anything (R439, R440); none where it is not. -/
def restoreFault (f : Flint) : Option (BitVec 8) :=
  match ckImage f with
  | none => some (if f.ckop.getLsbD 29 then 3 else 5)
  | some i => if i.gens ≠ f.gens ∨ i.cold ≠ f.coldResets then some 5 else none

/-- The operation in progress moves its next GiB, which CKSTAT.gib counts, unless nothing leads to its peer (R440). -/
def ckMove (s : State) : State :=
  let f := s.flint
  let count (t : State) : State := (ckSend f.ckgib.toNat t).mapFlint fun f => { f with ckgib := f.ckgib + 1 }
  if !f.ckbusy || 1536 ≤ f.ckgib.toNat || !ckReach s f.ckop then s
  else if !f.ckop.getLsbD 30 then count (saveGib f.ckgib.toNat s)
  else
    match restoreFault f, ckImage f with
    | some c, _ => ckFail c s
    | none, some i => count (restoreGib i f.ckgib.toNat s)
    | none, none => s

/-- Whether an operation in progress moves a GiB now is a free value (log 7). -/
def ckProgress (s : State) : State :=
  if !s.flint.ckbusy then s else if (Config.openWord s.free).getLsbD 0 then ckMove s.draw else s.draw

/-- The operation in progress completes: what is left of it moves first; a peer that cannot be reached for it any more ends it with code 3. -/
def ckComplete (s : State) : State :=
  let t := (List.range (1536 - s.flint.ckgib.toNat)).foldl (fun u _ => ckMove u) s
  let f := t.flint
  if !f.ckbusy then t
  else if f.ckgib.toNat < 1536 then ckFail 3 t
  else
    let (p, a) := ckTarget f
    let img : CkImage := { peer := p, addr := a, hbm := f.ckHbm, blocks := f.ckBlocks, gens := f.gens, cold := f.coldResets }
    let keep := if f.ckop.getLsbD 30 then f.ckImages else img :: f.ckImages
    (t.mapFlint fun f => { f with ckImages := keep, ckbusy := false, ckdone := true, ckcode := 0 }).raiseMsix 0 3

/-- Every tenant's key generation incremented (R426, R440). -/
def nextGens (g : Vector (BitVec 3) 32) : Vector (BitVec 3) 32 := vmap (· + 1) g

/-- CHECKPOINT_DONE (R440): code 0 completes; another code ends the operation where it stands, and what a restore had written stays; a
stack MAC that mismatches ends a restore with every generation incremented. -/
def execCheckpointDone (c : BitVec 8) (s : State) : Host.Outcome State Fault Refusal :=
  happen (fun s =>
    if !s.flint.ckbusy then s
    else if c = 0 then ckComplete s
    else if c = 4 && s.flint.ckop.getLsbD 30 then ckFail 4 (s.mapFlint fun f => { f with gens := nextGens f.gens })
    else ckFail c s) s

/-- A write of CKRX: refused with code 1 while any gang runs or is saved (R440). -/
def ckrxStore (v : Word) (s : State) : State :=
  if v.getLsbD 31 && anyGang s then s.mapFlint fun f => { f with ckerr := true, ckcode := 1 }
  else s.mapFlint fun f => { f with ckrx := v &&& 0x8000003F#32 }

/-- CKRX_WRITE (R440). -/
def execCkrxWrite (v : BitVec 32) (s : State) : Host.Outcome State Fault Refusal := hostStep (ckrxStore v) s

/-! ## Power (R438) -/

/-- The islands of die `n` change to a frequency in MHz; a change raises vector 3 (R433). They are throttled until they are back at 850
MHz. -/
def setFreq (n : Nat) (f : Nat) (s : State) : State :=
  if (s.quartz.freq[n]?).getD 850 = f then s
  else
    (s.mapQuartz fun q =>
      { q with freq := q.freq.setIfInBounds n f
               throttled := if f = 850 then q.throttled.filter (· != n) else insertNat q.throttled n }).raiseMsix 0 3

/-- THROTTLE_DOWN_STEP (R438): 50 MHz down, to a floor of 425 MHz. -/
def execThrottleDownStep (n : BitVec 3) (s : State) : Host.Outcome State Fault Refusal :=
  happen (fun s => setFreq n.toNat (max 425 ((s.quartz.freq[n.toNat]?).getD 850 - 50)) s) s

/-- THROTTLE_UP_STEP (R438): 50 MHz up, to 850 MHz. -/
def execThrottleUpStep (n : BitVec 3) (s : State) : Host.Outcome State Fault Refusal :=
  happen (fun s => setFreq n.toNat (min 850 ((s.quartz.freq[n.toNat]?).getD 850 + 50)) s) s

/-- OVERTEMP_FATAL (R438): device Fatal, and the islands go off. -/
def execOvertempFatal (s : State) : Host.Outcome State Fault Refusal :=
  happen (fun s => s.deviceFatal.mapQuartz fun q => { q with off := true }) s

/-! ## Field tests (R417) -/

/-- Core `c` of the cluster in focus may be tested: outside every gang, or idle with no ready candidate; an array row
only with both planes empty. -/
def testable (c k : Nat) (s : State) : Bool :=
  let l := 16 * s.unit.id + c
  let x := s.coreAt l
  let free := match s.launch with
    | none => true
    | some g => x.point.isNone && (g.candidate l).isNone
  free && (k != 4 || (x.mx.active.fmt == 0 && x.mx.shadow.fmt == 0))

/-- The units that a test names (R210, R419): 34 array rows, 4 lane groups, 64 banks; the others have no part. -/
def subOk (k u : Nat) : Bool :=
  decide (1 ≤ k) && decide (u < if k ≤ 3 then 1 else if k = 4 then 34 else if k = 5 then 4 else if k = 6 then 64 else 0)

/-- FIELD_TEST_POINT (R417), by the steward in focus: a failure is charged; a pass counts, and a passed cluster test
readmits a cluster that is not retired, nor its die (R415). A share of 0 leaves no cycle for a test (R417, R418). -/
def execFieldTestPoint (c k : BitVec 4) (u : BitVec 6) (ok : Bool) (s : State) : Host.Outcome State Fault Refusal :=
  happen (fun s =>
    let name := { unitName k (16 * s.unit.id + c.toNat) u.toNat with core := if 3 ≤ k.toNat then c else 0 }
    if !s.steward || !s.unit.ftctl.getLsbD 31 || bitsNat s.unit.ftctl 7 0 == 0 || !subOk k.toNat u.toNat || !testable c.toNat k.toNat s then s
    else if !ok then chargeUnit name s
    else
      let t := passUnit name s
      let gone (v : UnitName) : Bool := (s.ftRec v).any fun r => r.state == 3
      if k = 2 && !gone name && !gone (unitName 1 (16 * s.unit.id) 0) then t.mapUnit fun u => { u with withdrawn := false }
      else t) s

end Sys2Proof.Machine
end

