-- ==== Sys2Proof/Machine/Queue.lean ====
section
/-!
DEFINITION. User queues (R346 to R349), launch packets and their checks (R350, R351), the distributor (R357 to R359),
placement (R358) and launch start (R352).
-/

namespace Sys2Proof.Machine
open Sys2Proof

/-! ## Queue registers (R347, R348) -/

/-- A queue may be enabled: the lifecycle allows launches, the boot is over, and no peer image is expected (R426, R435,
R440). -/
def mayEnable (s : State) : Bool :=
  s.flint.life == .provisioned && !s.quartz.recov && !s.flint.ckrx.getLsbD 31

/-- QCTL. -/
def qctlWord (q : Queue) : Word :=
  BitVec.ofNat 32 (q.en.toNat * 2 ^ 31 + q.cie.toNat * 2 ^ 30 + q.lsize * 2 ^ 16 + q.pmax)

/-- A write of QCTL: lsize changes only while the queue is disabled, and enabling starts it at index 0. While a peer image is expected,
its en bit is ignored (R440), and while a quote is awaited, too (R426). -/
def qctlStore (t q : Nat) (v : Word) (s : State) : State :=
  let allow := mayEnable s
  let ignored := s.flint.ckrx.getLsbD 31 || s.flint.life == .awaiting
  s.mapQueue t q fun x =>
    let n := bitsNat v 20 16
    let size := if !x.en && decide (4 ≤ n) && decide (n ≤ 16) then n else x.lsize
    let on := if ignored then x.en else v.getLsbD 31 && (x.en || allow)
    let y := { x with en := on, cie := v.getLsbD 30, lsize := size, pmax := bitsNat v 2 0 }
    if on && !x.en then { y with rd := 0, wr := 0, total := 0 } else y

/-- A write of QWR: ignored while disabled, refused with ovr beyond the ring. -/
def qwrStore (t q : Nat) (v : Word) (s : State) : State :=
  s.mapQueue t q fun x =>
    let w : BitVec 16 := v.truncate 16
    if !x.en then x
    else if 2 ^ x.lsize < (w - x.rd).toNat then { x with ovr := true }
    else { x with wr := w }

/-- QSTAT. -/
def qstatWord (q : Queue) : Word :=
  BitVec.ofNat 32
    (q.rej.toNat * 2 ^ 31 + q.und.toNat * 2 ^ 30 + q.kill.toNat * 2 ^ 29 + q.ovr.toNat * 2 ^ 28 + q.sigf.toNat * 2 ^ 27
      + q.code.toNat * 2 ^ 16 + q.index.toNat)

/-- A write of QSTAT: ones clear. -/
def qstatStore (t q : Nat) (v : Word) (s : State) : State :=
  s.mapQueue t q fun x =>
    { x with rej := x.rej && !v.getLsbD 31, und := x.und && !v.getLsbD 30, kill := x.kill && !v.getLsbD 29,
             ovr := x.ovr && !v.getLsbD 28, sigf := x.sigf && !v.getLsbD 27 }

/-- The launches of a queue that are not complete (QINFL). -/
def inflight (s : State) (t q : Nat) : Nat :=
  (s.launches.filter fun l => l.fn.toNat == t && l.queue.toNat == q).length

/-- The function accepts queue and translation writes (R432). -/
def queueStep (f : State → State) (s : State) : Host.Outcome State Fault Refusal :=
  hostStep (fun s => if s.quartz.ready then f s else s) s

/-- QCTL_WRITE (R347). -/
def execQctlWrite (t : BitVec 5) (q : BitVec 4) (v : BitVec 32) (s : State) : Host.Outcome State Fault Refusal :=
  queueStep (qctlStore t.toNat q.toNat v) s

/-- QWR_WRITE (R348). -/
def execQwrWrite (t : BitVec 5) (q : BitVec 4) (v : BitVec 32) (s : State) : Host.Outcome State Fault Refusal :=
  queueStep (qwrStore t.toNat q.toNat v) s

/-- QUND_READ (R347): the count is returned and cleared. -/
def execQundRead (t : BitVec 5) (q : BitVec 4) (s : State) : Host.Outcome State Fault Refusal :=
  hostStep (fun s =>
    let v := BitVec.ofNat 32 (s.queue t.toNat q.toNat).undCount
    (s.mapQueue t.toNat q.toNat fun x => { x with undCount := 0 }).mapQuartz fun z => { z with hostRead := v }) s

/-! ## Launch packets (R350, R351) -/

/-- Word `i` of a packet. -/
def pword (ws : List Word) (i : Nat) : Word := (ws[i]?).getD 0

/-- The fields of a packet (R350). -/
def parsePacket (ws : List Word) : Packet64 :=
  let w (i : Nat) : Word := pword ws i
  let n := bitsNat (w 1) 13 12 + 1
  let half (i : Nat) : Nat := if i % 2 = 0 then bitsNat (w (4 + i / 2)) 15 0 else bitsNat (w (4 + i / 2)) 31 16
  let long (i : Nat) : Nat := (pairOf (w i) (w (i + 1))).toNat
  { type := bitsNat (w 0) 31 28, acq := (w 0).getLsbD 27, rel := (w 0).getLsbD 26, replay := (w 0).getLsbD 25,
    pair := (w 0).getLsbD 24, spec := (w 0).getLsbD 23, prio := bitsNat (w 0) 22 20, place := bitsNat (w 0) 19 15,
    argsz := bitsNat (w 0) 14 11, gang := bitsNat (w 0) 10 0, cslot := bitsNat (w 1) 31 22, icount := bitsNat (w 1) 21 14,
    ndim := n, nvec := bitsNat (w 1) 11 9, kimg := long 2, ext := (List.range n).map fun i => half i + 1,
    vecs := (List.range (bitsNat (w 1) 11 9)).map fun j => (w (6 + j)).truncate 19, args := long 10, sig := long 12,
    sval := w 14
    succ := [bitsNat (w 15) 29 20, bitsNat (w 15) 19 10, bitsNat (w 15) 9 0].take (bitsNat (w 15) 31 30) }

/-- Unused successor fields are zero. -/
def succOk (ws : List Word) : Bool :=
  let n := bitsNat (pword ws 15) 31 30
  let f : List Nat := [bitsNat (pword ws 15) 29 20, bitsNat (pword ws 15) 19 10, bitsNat (pword ws 15) 9 0]
  (f.drop n).all (· == 0)

/-- Reserved and must-be-zero fields of a packet are zero (code 2). -/
def zerosOk (ws : List Word) (p : Packet64) : Bool :=
  let long (a : Nat) : Bool := decide (a < 2 ^ 41)
  let half (i : Nat) : Nat := if i % 2 = 0 then bitsNat (pword ws (4 + i / 2)) 15 0 else bitsNat (pword ws (4 + i / 2)) 31 16
  succOk ws && long p.sig &&
    if p.type = 2 then
      pword ws 0 &&& 0x038FFFFF#32 == 0 && bitsNat (pword ws 1) 13 0 == 0 &&
        (List.range 10).all fun i => pword ws (2 + i) == 0
    else
      bitsNat (pword ws 1) 8 0 == 0 && long p.kimg && long p.args &&
        ((List.range 4).all fun i => decide (i < p.ndim) || half i == 0) &&
        (List.range 4).all fun j =>
          if j < p.nvec then bitsNat (pword ws (6 + j)) 31 19 == 0 else pword ws (6 + j) == 0

/-- A dependence vector is one that R155 admits in a launch of `n` dimensions. -/
def vecOk (n : Nat) (v : BitVec 19) : Bool :=
  let f := vecFace v
  let first := (f.find? (· != 0)).getD 0
  (f.all fun c => decide (-8 ≤ c) && decide (c ≤ 8)) && ((f.drop (n - 1)).all (· == 0)) && v != 0 &&
    !(vecSweep v == 0 && decide (first < 0))

/-- The checks of R155 that need no placement (code 3). -/
def shapeOk (p : Packet64) : Bool :=
  decide (p.nvec ≤ 4) && decide (p.place % 16 ≤ 12) && p.vecs.all (vecOk p.ndim)

/-- Gang size and alignment (code 4). -/
def alignOk (p : Packet64) : Bool :=
  p.sig % 4 == 0 &&
    (p.type == 2 || (decide (0 < p.gang) && decide (p.gang ≤ 1024) && p.kimg % 64 == 0 && p.args % 64 == 0))

/-- The counter slot is bound to a launch of the function that is not eligible yet (code 5). -/
def slotBound (s : State) (t : Nat) (p : Packet64) : Bool :=
  s.launches.any fun l => l.fn.toNat == t && l.stage == .bound && l.pkt.cslot == p.cslot

/-- The code with which a packet is rejected at enqueue; the lowest that applies (log 17). -/
def enqueueCode (s : State) (t : Nat) (ws : List Word) (p : Packet64) : Option Nat :=
  if p.type ≠ 1 ∧ p.type ≠ 2 then some 1
  else if zerosOk ws p = false then some 2
  else if p.type = 1 ∧ shapeOk p = false then some 3
  else if alignOk p = false then some 4
  else if slotBound s t p then some 5
  else none

/-- A rejection is recorded in QSTAT; codes 8 and 9 raise vector 0 (R351, R433). -/
def recordReject (t q : Nat) (index : Nat) (code : Nat) (s : State) : State :=
  let u := s.mapQueue t q fun x =>
    if x.rej then x else { x with rej := true, code := BitVec.ofNat 8 code, index := BitVec.ofNat 16 index }
  if code = 8 ∨ code = 9 then u.raiseMsix t 0 else u

/-- The launch identifier of R349. -/
def launchId (t q k : Nat) : Word := BitVec.ofNat 32 (t * 2 ^ 27 + q * 2 ^ 23 + k % 2 ^ 23)

/-- A launch as its enqueue makes it. -/
def newLaunch (t q k : Nat) (p : Packet64) : Launch :=
  { id := launchId t q k, fn := BitVec.ofNat 5 t, queue := BitVec.ofNat 4 q, index := k, pkt := p, stage := .bound,
    gang := [], cores := [], phase := 0, lines := [], groups := .replicate 16 .reset,
    groupsSnap := .replicate 16 .reset, jframes := 0, eligAt := 0, placedAt := 0, why := 0, tries := 0, cleared := 0, ureason := 0,
    preempt := false, plan := 0, direct := false, loaded := false, stored := false, entry := 0, pwdog := 0, span := 0,
    key := 0, parked := [], backlog := [], parkedUnits := [], lost := [] }

/-- The packet processor of a function as a reader of tenant memory (R373, kind 4). -/
def processor (s : State) (t : Nat) (launch : Word) (part : Nat) : Who :=
  { tenant := t, kind := 4, src := s.endpoint 0x7FFF, launch := launch, phase := 0, part := part }

/-- A packet is taken: QRD moves past it. -/
def advanceQueue (t q : Nat) (s : State) : State :=
  s.mapQueue t q fun x => { x with rd := x.rd + 1, total := x.total + 1 }

/-- The words of a packet are checked, its counter is bound, and its launch exists (R348, R353). -/
def enqueue (t q : Nat) (ws : List Word) (s : State) : State :=
  let k := (s.queue t q).total
  let p := parsePacket ws
  match enqueueCode s t ws p with
  | some c => recordReject t q k c (advanceQueue t q s)
  | none =>
    let u := (advanceQueue t q s).mapFn t fun h => { h with counters := assocSet h.counters p.cslot p.icount }
    settleEligible { u with launches := u.launches ++ [newLaunch t q k p] }

/-- The packet processor may read the next packet of a queue (R348). -/
def mayRead (s : State) (t q : Nat) : Bool :=
  let x := s.queue t q
  x.en && x.rd != x.wr && decide (inflight s t q < 32) && hostServed s && launchesRun s

/-- PACKET_ENQUEUE (R348): a slot that cannot be read rejects with code 9. -/
def execPacketEnqueue (t : BitVec 5) (q : BitVec 4) (s : State) : Host.Outcome State Fault Refusal :=
  happen (fun s =>
    let n := t.toNat
    let m := q.toNat
    if !mayRead s n m then s
    else
      let x := s.queue n m
      let w := processor s n (launchId n m x.total) m
      match readVirtual w (x.base + 64 * (x.rd.toNat % 2 ^ x.lsize)) 64 s with
      | .ok (bs, u) => enqueue n m (wordsOf 16 bs) u
      | .error (.waits u) => u
      | .error (.fault _ u) => recordReject n m x.total 9 (advanceQueue n m u)
      | .error (.poison _ u) => recordReject n m x.total 9 (advanceQueue n m u)) s

/-! ## Clusters and cores for a gang (R156, R358) -/

/-- Core `l` is not retired. -/
def placeable (s : State) (l : Nat) : Bool := !s.quartz.retired.contains l

/-- The placeable cores of a cluster: in a pair, the even ones whose partner is placeable too. -/
def placeableIn (s : State) (pair : Bool) (k : Nat) : List Nat :=
  (coresOf k).filter fun l => placeable s l && (!pair || (l % 2 == 0 && placeable s (l + 1)))

/-- The cluster belongs to the tenant and has a placeable core. -/
def ownedBy (s : State) (t : Nat) (k : Nat) : Bool :=
  let u := s.unitAt k
  u.owner.toNat == t && !u.ownBusy && !u.withdrawn && (coresOf k).any (placeable s)

/-- The clusters of a tenant, rising. -/
def ownClusters (s : State) (t : Nat) : List Nat := (List.range 1024).filter (ownedBy s t)

/-- The free clusters of a tenant, rising. -/
def freeClustersOf (s : State) (t : Nat) : List Nat := (ownClusters s t).filter fun k => (s.unitAt k).launch.isNone

/-- The placeable cores of a gang in the order of R156. -/
def gangOrder (s : State) (p : Packet64) (gang : List Nat) : List Nat :=
  let l := gang.foldr (fun k l => placeableIn s p.pair k ++ l) []
  if p.place < 16 then l else (List.range 16).foldr (fun c r => l.filter (fun e => e % 16 == c) ++ r) []

/-- The number of lines that the core at position `i` of `n` runs: blocks of 2^k lines in turn. -/
def linesAt (nlines k n i : Nat) : Nat :=
  let b := 2 ^ k
  nlines / (n * b) * b + min b (nlines % (n * b) - i * b)

/-- The lines homed in each cluster are at most 4,096. -/
def homesOk (l : Launch) (cores gang : List Nat) : Bool :=
  gang.all fun k =>
    decide ((((List.range cores.length).filter fun i => clusterAt ((cores[i]?).getD 0) == k).map fun i =>
      linesAt l.nlines (l.pkt.place % 16) cores.length i).foldl (· + ·) 0 ≤ 4096)

/-! ## The distributor (R357, R359) -/

/-- The effective priority of a launch at this moment. -/
def effPrio (s : State) (l : Launch) : Nat := min l.pkt.prio (s.queue l.fn.toNat l.queue.toNat).pmax

/-- A launch goes before another at selection. -/
def goesFirst (s : State) (a b : Launch) : Bool :=
  if effPrio s a ≠ effPrio s b then decide (effPrio s b < effPrio s a)
  else if a.eligAt ≠ b.eligAt then decide (a.eligAt < b.eligAt)
  else if a.queue ≠ b.queue then decide (a.queue < b.queue)
  else decide (a.index < b.index)

/-- The launches among which the distributor of a function selects. -/
def eligibles (s : State) (t : Nat) : List Launch :=
  s.launches.filter fun l => l.fn.toNat == t && (l.stage == .eligible || l.stage == .saved)

/-- The head. -/
def headOf (s : State) (t : Nat) : Option Launch :=
  (eligibles s t).foldl (fun best l =>
    match best with
    | none => some l
    | some b => if goesFirst s l b then some l else best) none

/-- A launch fits on a set of clusters: a saved one needs those it left (R382). -/
def fitsOn (l : Launch) (free : List Nat) : Bool :=
  if l.stage = .saved then l.gang.all free.contains else decide (l.pkt.gang ≤ free.length)

/-- A list put in order, its first element before every other. -/
def sortBy {α : Type} (before : α → α → Bool) (l : List α) : List α :=
  l.foldr (fun a r => (r.takeWhile fun b => !before a b) ++ a :: r.dropWhile fun b => !before a b) []

/-- A gang that holds its clusters, with no pre-emption requested yet: also one whose phase is being aborted (R409). -/
def occupies (l : Launch) : Bool :=
  match l.stage with
  | .placed => true
  | .running => l.span != 0
  | .awaitAct => l.span != 0 && !l.preempt
  | .aborting => l.span != 0 && !l.preempt
  | .bound | .eligible | .preempting | .saved | .closed => false

/-- A gang that is about to leave its clusters. -/
def leaving (l : Launch) : Bool := l.stage == .preempting || ((l.stage == .awaitAct || l.stage == .aborting) && l.preempt)

/-- Running gangs that a head of priority `p` may pre-empt, the best victim first. -/
def victimsFor (s : State) (t p : Nat) : List Launch :=
  let l := s.launches.filter fun l => l.fn.toNat == t && occupies l && decide (effPrio s l < p)
  let before (a b : Launch) : Bool :=
    if effPrio s a ≠ effPrio s b then decide (effPrio s a < effPrio s b) else decide (b.placedAt ≤ a.placedAt)
  sortBy before l

/-- Victims taken in order until the head fits; none if even all do not suffice. -/
def takeVictims (h : Launch) : List Nat → List Launch → List Launch → Option (List Launch)
  | free, got, vs =>
    if fitsOn h free then some got
    else
      match vs with
      | [] => none
      | v :: rest => takeVictims h (free ++ v.gang) (got ++ [v]) rest

/-- The retired cores of the launch's clusters. -/
def Launch.retiredOf (l : Launch) (s : State) : List Nat := l.members.filter s.quartz.retired.contains

/-- A pre-emption request to every compute core of a gang (R359, R375); a victim in launch start simply leaves its
clusters. -/
def requestPreemption (id : Word) (s : State) : State :=
  match s.launch? id with
  | none => s
  | some l =>
    match l.stage with
    | .running =>
      (s.mapLaunch id fun l => { l with stage := .preempting, preempt := false }).onCores l.members fun t =>
        t.mapCsr fun c => { c with sip := setBit c.sip 1 true }
    | .placed => (freeClusters l s).mapLaunch id fun l => { l with stage := .saved, lost := l.retiredOf s }
    | .aborting => s.mapLaunch id fun l => { l with preempt := true }
    | .awaitAct => s.mapLaunch id fun l => { l with preempt := true }
    | _ => s

/-- A victim may be pre-empted at once: a gap of 4 or more, or 50 microseconds of residency (R359). -/
def atOnce (s : State) (h v : Launch) : Bool :=
  decide (effPrio s v + 4 ≤ effPrio s h) ||
    decide (50 ≤ Config.micros s.cycle.toNat - Config.micros v.placedAt)

/-- The victims that the head of function `t` needs now. -/
def neededVictims (s : State) (t : Nat) (h : Launch) : List Launch :=
  let soon := (s.launches.filter fun l => l.fn.toNat == t && leaving l).foldr (fun l r => l.gang ++ r) []
  (takeVictims h (freeClustersOf s t ++ soon) [] (victimsFor s t (effPrio s h))).getD []

/-- DISTRIBUTOR_SELECTION (R357, R359): the head, and victims if it does not fit. -/
def execDistributorSelection (t : BitVec 5) (s : State) : Host.Outcome State Fault Refusal :=
  launchStep (fun s =>
    let n := t.toNat
    match headOf s n with
    | none => s.mapFn n fun h => { h with head := none, victims := [] }
    | some h =>
      let vs := neededVictims s n h
      let now := vs.filter (atOnce s h)
      let later := vs.filter fun v => !atOnce s h v
      let u := s.mapFn n fun f => { f with head := some h.id, victims := later.map fun v => v.id }
      now.foldl (fun t v => requestPreemption v.id t) u) s

/-- The head of function `t` that the distributor selected, while it still comes first (R357). -/
def selected (s : State) (t : Nat) : Option Launch :=
  match headOf s t with
  | none => none
  | some h => if (s.fn t).head = some h.id then some h else none

/-- RESIDENCY_EXPIRY (R359): a victim whose residency reaches 50 microseconds is pre-empted if the head still needs it. -/
def execResidencyExpiry (t : BitVec 5) (s : State) : Host.Outcome State Fault Refusal :=
  launchStep (fun s =>
    let n := t.toNat
    match selected s n with
    | none => s
    | some h =>
      match (s.fn n).victims.find? fun v => ((s.launch? v).map (atOnce s h)).getD false with
      | none => s
      | some v =>
        let u := s.mapFn n fun f => { f with victims := f.victims.filter fun x => x != v }
        if (neededVictims s n h).any fun l => l.id == v then requestPreemption v u else u) s

/-! ## Placement (R358) -/

/-- A rejected launch leaves as R155 says. -/
def rejectLaunch (l : Launch) (code : Nat) (s : State) : State :=
  (recordReject l.fn.toNat l.queue.toNat l.index code
    (if l.stage = .placed then freeClusters l s else s)).dropLaunch l.id

/-- The header of a kernel image: text bytes, entry, data bytes and their address (R352). -/
structure KernelImage where
  tsize : Nat
  entry : Nat
  dsize : Nat
  daddr : Nat
  deriving DecidableEq, Repr

/-- A header read from its 32 bytes; none if the image is invalid (code 7). -/
def kernelImage (ws : List Word) (jbase : Nat) : Option KernelImage :=
  let n (i : Nat) : Nat := (pword ws i).toNat
  if n 0 % 4 ≠ 0 ∨ n 0 < 4 ∨ 262144 < n 0 ∨ n 0 ≤ n 1 ∨ n 1 % 4 ≠ 0 ∨ jbase * 4096 < n 3 + n 2 ∨
      n 4 ≠ 0 ∨ n 5 ≠ 0 ∨ n 6 ≠ 0 ∨ n 7 ≠ 0 then none
  else some ⟨n 0, n 1, n 2, n 3⟩

/-- What launch start needs from memory: the image, its text and data, and the argument block. -/
structure Loaded where
  image : KernelImage
  text : List Byte
  data : List Byte
  args : List Byte
  deriving DecidableEq, Repr

/-- How reading an image ends without it. -/
inductive LoadErr where
  | waits (s : State)
  | reject (code : Nat) (s : State)
  deriving DecidableEq, Repr

/-- A virtual read whose failure rejects with code 8 (R351). -/
def readOr8 (w : Who) (va n : Nat) (s : State) : Except LoadErr (List Byte × State) :=
  match readVirtual w va n s with
  | .ok r => .ok r
  | .error (.waits t) => .error (.waits t)
  | .error (.fault _ t) => .error (.reject 8 t)
  | .error (.poison _ t) => .error (.reject 8 t)

/-- The kernel image and argument block of a launch whose cores have `jbase` frames for it (R352). -/
def loadImage (w : Who) (l : Launch) (jbase : Nat) (s : State) : Except LoadErr (Loaded × State) := do
  let (hd, s) ← readOr8 w l.pkt.kimg 32 s
  match kernelImage (wordsOf 8 hd) jbase with
  | none => throw (.reject 7 s)
  | some i =>
    let (text, s) ← readOr8 w (l.pkt.kimg + 32) i.tsize s
    let (data, s) ← readOr8 w (l.pkt.kimg + (32 + i.tsize + 63) / 64 * 64) i.dsize s
    let (args, s) ← readOr8 w l.pkt.args (256 * l.pkt.argsz) s
    return (⟨i, text, data, args⟩, s)

/-- The journal frames that a launch receives. -/
def framesFor (s : State) (l : Launch) : Nat :=
  if l.pkt.replay then (s.queue l.fn.toNat l.queue.toNat).jrn else 0

/-- The first place in the context region where a span of `n` bytes fits (R381). -/
def findSpan (s : State) (t n : Nat) : Option Nat :=
  let used := (s.launches.filter fun l => l.fn.toNat == t && l.span != 0).map fun l => (l.span - 1, l.span - 1 + l.spanBytes)
  let fits (a : Nat) : Bool := decide (a + n ≤ (s.fn t).ctxBytes) && used.all fun u => decide (a + n ≤ u.1) || decide (u.2 ≤ a)
  let starts := (0 :: used.map fun u => u.2).filter fits
  starts.foldl (fun m a => match m with
    | none => some a
    | some b => some (min a b)) none

/-- GANGINFO of a core (R41, R168). -/
def gangInfo (l : Launch) (core : Nat) : Word :=
  BitVec.ofNat 32
    (l.pkt.pair.toNat * 2 ^ 31 + (l.pkt.pair && core % 2 == 1).toNat * 2 ^ 30
      + l.rankOf (clusterAt core) * 2 ^ 20 + l.gang.length)

/-- SCTX of the cores and stewards of a gang. -/
def gangSctx (l : Launch) : Word := BitVec.ofNat 32 (l.fn.toNat * 2 ^ 16 + l.id.toNat % 2 ^ 16)

/-- The registers that placement writes on a compute core of the gang in focus. DESIGN CHOICE (log 23): GANGINFO and PHASE follow the launch
on the gang's compute cores alone, so that a steward of the gang reads 0 in both; R37 and R358 name no kind of core. -/
def placeCore (l : Launch) (s : State) : State :=
  let sie : Word := 0x1A
  (writeSctx (gangSctx l) s).mapCsr fun c =>
    { c with sie := c.sie ||| sie, sjournal := BitVec.ofNat 32 l.jframes, ganginfo := gangInfo l (localOf s.core.id) }

/-- The packet is a request to a compute core of a list of clusters. -/
def asksOf (s : State) (ks : List Nat) (p : Packet) : Bool :=
  (flowOf p.body).isSome && pkgOf p.dst == s.pkg && decide (localOf p.dst < 0x4000) && ks.contains (clusterAt (localOf p.dst))

/-- Launch `l` takes clusters that saved launches left: the requests that wait there wait for those launches (R309, R375). -/
def shelve (l : Launch) (s : State) : State :=
  s.launches.foldl (fun t g =>
    let shared := g.gang.filter l.gang.contains
    if g.stage = .saved ∧ g.id ≠ l.id ∧ shared ≠ [] then
      { t with fabric := t.fabric.filter fun p => !asksOf s shared p }.mapLaunch g.id fun g =>
        { g with backlog := g.backlog ++ t.fabric.filter (asksOf s shared) }
    else t) s

/-- The clusters, key and registers of a placed gang (R147, R162, R358). -/
def takeGang (l : Launch) (s : State) : State :=
  let s1 := (shelve l s).onUnits l.gang fun u =>
    { u with launch := some l.id, key := some l.key, pwdog := l.pwdog, limit := l.pwdog, elapsed := 0 }
  let s2 := s1.onCores l.members (placeCore l)
  s2.onCores (l.gang.map fun k => 0x4000 + k) (writeSctx (gangSctx l))

/-- The launch as placed on clusters, with its new key (R147). -/
def placedOn (s : State) (l : Launch) (gang : List Nat) : Launch :=
  let g := { l with gang := gang, cores := gangOrder s l.pkt gang, stage := .placed, jframes := framesFor s l,
                    placedAt := s.cycle.toNat, key := Config.launchKey s.free
                    pwdog := (s.queue l.fn.toNat l.queue.toNat).pwdog }
  { g with span := match findSpan s l.fn.toNat g.spanBytes with
      | some a => a + 1
      | none => 0 }

/-- The head, not yet placed, is checked and placed, or rejected (R351, R358). -/
def placeHead (l : Launch) (s : State) : State :=
  let t := l.fn.toNat
  let own := ownClusters s t
  let free := freeClustersOf s t
  if own.length < l.pkt.gang then rejectLaunch l 6 s
  else if free.length < l.pkt.gang then s
  else
    let g := placedOn s l (free.take l.pkt.gang)
    if g.cores.isEmpty || !homesOk g g.cores g.gang then rejectLaunch l 6 s
    else
      match loadImage (processor s t l.id (16 + l.queue.toNat)) g (58 - g.jframes) s with
      | .error (.waits u) => u
      | .error (.reject c u) => rejectLaunch l c u
      | .ok (_, u) => (takeGang g u.draw).mapLaunch l.id fun _ => g

/-- PLACEMENT (R358): one bounded step for the head that the distributor selected. -/
def execPlacement (t : BitVec 5) (s : State) : Host.Outcome State Fault Refusal :=
  launchStep (fun s =>
    match selected s t.toNat with
    | none => s
    | some l => if l.stage = .eligible then placeHead l s else s) s

/-! ## Launch start (R352) -/

/-- The barrier member set of a cluster: its cores that home a line (R312). -/
def homeSet (l : Launch) (k : Nat) : BitVec 17 :=
  (List.range l.cores.length).foldl (fun m i =>
    let c := (l.cores[i]?).getD 0
    if clusterAt c = k ∧ 0 < linesAt l.nlines (l.pkt.place % 16) l.cores.length i then
      m ||| BitVec.ofNat 17 (2 ^ (c % 16))
    else m) 0

/-- A cluster unit at launch start (R300, R312). -/
def startUnit (l : Launch) (text : List Byte) (u : Cluster) : Cluster :=
  let b : Barrier := ⟨0, homeSet l u.id, 0⟩
  { u with
    istore := u.istore.put 0 text, sync := [], syncSnap := [], bars := .replicate 32 b, barsSnap := .replicate 32 b,
    evs := .replicate 32 .reset, evsSnap := .replicate 32 .reset, elapsed := 0, limit := u.pwdog }

/-- User CSRs at launch start: the Reset column, but for GANGINFO, which placement wrote (R30). DESIGN CHOICE (log 23):
SCTXFRAMES.saved is cleared too, since the start gives the frames another content. -/
def startCsrs (c : Csrs) : Csrs :=
  let z := Csrs.reset
  { c with
    fcsr := z.fcsr, pthresh := z.pthresh, etol := z.etol, ectl := z.ectl, estat := z.estat, mrcfg := z.mrcfg,
    cfgerr := false, cycleh := 0, instret := 0, phase := 0, utvec := 0, ucause := 0, uval := 0, uepc := 0,
    ustatus := 0, uie := 0, uip := 0, ctxsaved := false }

/-- The journal of a core at the start of a phase: empty, with the snapshot of R407. An arrival that was accepted before and still waits is
none of this phase's messages, which alone a rollback discards (R298). -/
def phaseSnapshot (c : Core) : Core :=
  { c with jrn := ⟨[], c.hnd, c.csr, c.ni.wr, c.ni.rd, c.ni.ringCfg, c.ni.overflow, c.ni.ovfAt⟩
           ni := { c.ni with ovfFreed := 0, held := c.ni.held.map fun h => { h with kept := h.kept || !h.ack } } }

/-- A core at launch start (R30, R177, R190, R209, R228, R280, R295, R352). DESIGN CHOICE (log 23): arrivals that were held
at its interface before stay held, with MRSTAT.held = 1. -/
def startCore (i : KernelImage) (data args : List Byte) (c : Core) : Core :=
  let z := Core.reset c.id
  let sp := ((c.sp.clear 0 (c.jbase * 4096)).put i.daddr data).put 0 args
  phaseSnapshot
    { c with
      mode := .user, halt := none, stalled := false, point := none, shadow := z.shadow, loop := .reset, csr := startCsrs c.csr
      hnd := z.hnd, slots := z.slots, pdesc := z.pdesc, pseq := 0, tags := [], sp := sp, empty := [], remap := z.remap
      pool := z.pool, locks := z.locks, deferred := [], handed := none, streams := z.streams, sseq := 0, siter := 0
      seqs := [], mx := .reset, cp := .reset, ni := { NetIf.reset with held := c.ni.held, heldFlag := c.ni.heldFlag }
      layouts := z.layouts, follow := none, lag := [], mcheck := none, reports := [], refusals := [], stepDue := false
      stepCmd := none, escWaits := false, handlerEnded := false, blockSaved := false }

/-- The device groups at launch start (R312). -/
def startGroups (l : Launch) : Vector Group 16 :=
  .replicate 16 ⟨0, (List.range l.gang.length).map fun r => ⟨r, homeSet l ((l.gang[r]?).getD 0), 0⟩⟩

/-- The movement plan's address: bytes 0 to 7 of the argument block, if there is one (R352). -/
def planOf (args : List Byte) : Nat := if args.isEmpty then 0 else natOfBytes (args.take 8)

/-- Every core and cluster unit of a placed gang starts (R352). -/
def startGang (l : Launch) (d : Loaded) (s : State) : State :=
  let s1 := s.onUnits l.gang (startUnit l d.text)
  let s2 := s1.onCores l.members fun t => t.mapCore (startCore d.image d.data d.args)
  (quietReplies l s2).mapLaunch l.id fun g =>
    { g with
      stage := .running, phase := 0, lines := [], groups := startGroups l, groupsSnap := startGroups l, tries := 0, cleared := 0
      ureason := 0, why := 0, direct := false, entry := BitVec.ofNat 32 d.image.entry, plan := planOf d.args
      loaded := planOf d.args == 0, stored := planOf d.args == 0 }

/-- LAUNCH_START (R352). -/
def execLaunchStart (l : BitVec 32) (s : State) : Host.Outcome State Fault Refusal :=
  launchStep (fun s =>
    match s.launch? l with
    | none => s
    | some g =>
      if g.stage ≠ .placed then s
      else
        match loadImage (processor s g.fn.toNat g.id (16 + g.queue.toNat)) g (58 - g.jframes) s with
        | .error (.waits u) => u
        | .error (.reject c u) => rejectLaunch g c u
        | .ok (d, u) => startGang g d u) s

end Sys2Proof.Machine
end

