-- ==== Sys2Proof/Machine/Cmac.lean ====
section
/-!
DEFINITION. AES-128-CMAC, which MCAP and a remote matrix command compute under the launch key (R147, R225).
PRESUMED from the published standards FIPS 197 and SP 800-38B (log 9).
-/

namespace Sys2Proof.Machine

/-- Sixteen bytes, first byte first. -/
abbrev Block := List Byte

/-- The S-box, sixteen bytes to a number, least significant first. -/
def sboxRows : List Nat := [
    0x76ABD7FE2B670130C56F6BF27B777C63,
    0xC072A49CAFA2D4ADF04759FA7DC982CA,
    0x1531D871F1E5A534CCF73F362693FDB7,
    0x75B227EBE28012079A059618C323C704,
    0x842FE329B3D63B52A05A6E1B1A2C8309,
    0xCF584C4A39BECB6A5BB1FC20ED00D153,
    0xA89F3C507F02F94585334D43FBAAEFD0,
    0xD2F3FF1021DAB6BCF5389D928F40A351,
    0x73195D643D7EA7C41744975FEC130CCD,
    0xDB0B5EDE14B8EE4688902A22DC4F8160,
    0x79E4959162ACD3C25C2406490A3A32E0,
    0x08AE7A65EAF4566CA94ED58D6D37C8E7,
    0x8A8BBD4B1F74DDE8C6B4A61C2E2578BA,
    0x9E1DC186B95735610EF6034866B53E70,
    0xDF2855CEE9871E9B948ED9691198F8E1,
    0x16BB54B00F2D99416842E6BF0D89A18C]

/-- SubBytes of one byte. -/
def subByte (b : Byte) : Byte :=
  BitVec.ofNat 8 (((sboxRows[b.toNat / 16]?).getD 0) / 2 ^ (8 * (b.toNat % 16)))

/-- Multiplication by x in GF(2^8). -/
def xtime (b : Byte) : Byte := (b <<< 1) ^^^ (if b.getLsbD 7 then 0x1B else 0)

/-- Bytes added. -/
def xorBlock (a b : Block) : Block := a.zipWith (· ^^^ ·) b

/-- ShiftRows on a block in column order. -/
def shiftRows (b : Block) : Block := (List.range 16).map fun i => (b[5 * i % 16]?).getD 0

/-- MixColumns on a block in column order. -/
def mixColumns : Block → Block
  | p :: q :: r :: t :: rest =>
    let all := p ^^^ q ^^^ r ^^^ t
    (p ^^^ all ^^^ xtime (p ^^^ q)) :: (q ^^^ all ^^^ xtime (q ^^^ r)) :: (r ^^^ all ^^^ xtime (r ^^^ t)) ::
      (t ^^^ all ^^^ xtime (t ^^^ p)) :: mixColumns rest
  | _ => []

/-- The next round key, from the last one and the round constant. -/
def nextKey (rcon : Byte) (k : Block) : Block :=
  let w (i : Nat) : Block := (k.drop (4 * i)).take 4
  let rot := (k.drop 13) ++ (k.drop 12).take 1
  let g := xorBlock (rot.map subByte) [rcon, 0, 0, 0]
  let w0 := xorBlock (w 0) g
  let w1 := xorBlock (w 1) w0
  let w2 := xorBlock (w 2) w1
  w0 ++ w1 ++ w2 ++ xorBlock (w 3) w2

/-- Rounds with their round constants; the last one mixes no columns. -/
def aesRounds : List Byte → Block → Block → Block
  | [], _, b => b
  | [rcon], k, b => xorBlock (shiftRows (b.map subByte)) (nextKey rcon k)
  | rcon :: rest, k, b =>
    let k1 := nextKey rcon k
    aesRounds rest k1 (xorBlock (mixColumns (shiftRows (b.map subByte))) k1)

/-- AES-128 encryption of a block. -/
def aes128 (key b : Block) : Block :=
  aesRounds [0x01, 0x02, 0x04, 0x08, 0x10, 0x20, 0x40, 0x80, 0x1B, 0x36] key (xorBlock b key)

/-- The bytes of a 128-bit value, most significant first. -/
def blockOf128 (v : BitVec 128) : Block := (bytesOf 16 v.toNat).reverse

/-- A block as a 128-bit value, first byte most significant. -/
def toBits128 (b : Block) : BitVec 128 := BitVec.ofNat 128 (natOfBytes b.reverse)

/-- Doubling in GF(2^128), for the CMAC subkeys. -/
def dbl (v : BitVec 128) : BitVec 128 := (v <<< 1) ^^^ (if v.getLsbD 127 then 0x87 else 0)

/-- AES-128-CMAC of four message bytes: one incomplete block. -/
def cmac4 (key : BitVec 128) (msg : Word) : BitVec 128 :=
  let k := blockOf128 key
  let k2 := dbl (dbl (toBits128 (aes128 k (List.replicate 16 0))))
  let m := bytesOf 4 msg.toNat ++ 0x80#8 :: List.replicate 11 0
  toBits128 (aes128 k (xorBlock m (blockOf128 k2)))

/-- The MAC half of a matrix-engine capability: bits 31:0 of the CMAC of its body (R147). -/
def capMac (key : BitVec 128) (body : Word) : Word := (cmac4 key body).truncate 32

end Sys2Proof.Machine
end

