-- ==== Sys2Proof/Machine/Fetch.lean ====
section
/-!
DEFINITION. Fetching an instruction (R44, R106, R174) and placing one where the next fetch finds it.
-/

namespace Sys2Proof.Machine

/-- The firmware image that loads the instruction memory of a kind of core (R435, R436). DESIGN CHOICE (log 25): the resident-handler image
that of a steward, the memory-core image that of a memory core. -/
def imageSlot (k : CoreKind) : Nat :=
  match k with
  | .memory => 3
  | _ => 4

/-- Byte `a` of the instruction memory of the core in focus: of the image that Flint loaded (R435), or what stands there. -/
def State.imemByte (s : State) (a : Nat) : Byte :=
  match assocGet s.quartz.loaded (imageSlot s.kind) with
  | none => s.core.imem.get a
  | some none => Config.factoryByte (imageSlot s.kind) a
  | some (some i) => Config.imageByte i.words a

/-- `n` bytes of that memory as a little-endian number. -/
def State.imemRead (s : State) (a n : Nat) : Nat := natOfBytes ((List.range n).map fun i => s.imemByte (a + i))

/-- The word at a fetch address: the instruction store of the cluster for a compute core (R44), the own
instruction memory for a steward or memory core (R174); none outside it. DESIGN CHOICE (log 23): a steward or memory core that fetches
below 0x0004_0000 finds none either, and takes cause 0x05. -/
def fetchWord (s : State) : Option Word :=
  let a := s.core.pc.toNat
  match s.kind with
  | .compute => if a < 0x40000 then some (s.unit.istore.word a) else none
  | _ => if 0x400000 ≤ a ∧ a < 0x410000 then some (BitVec.ofNat 32 (s.imemRead (a - 0x400000) 4)) else none

/-- The core in focus made ready to fetch (log 4): nothing of the world outside comes first, and a compute core in user
mode runs a point. -/
def readyCore (s : State) : State :=
  { s with
    schedule := [], inputs := []
    quartz := { s.quartz with fatal := false, off := false }
    core := { s.core with
      halt := none, stalled := false, stepDue := false, stepCmd := none, mcheck := none, reports := [], refusals := [], follow := none, lag := []
      point := if s.compute && s.inUser && s.core.point.isNone then some ⟨0, 0, 0, 0, 0⟩ else s.core.point } }

/-- A word stored where the next fetch of the core in focus finds it: no firmware image covers it. -/
def placeWord (w : Word) (s : State) : State :=
  match s.kind with
  | .compute => s.mapUnit fun u => { u with istore := u.istore.putWord s.core.pc.toNat w }
  | _ =>
    { s with quartz := { s.quartz with loaded := s.quartz.loaded.filter fun e => e.1 != imageSlot s.kind } }.mapCore fun c =>
      { c with imem := c.imem.putWord (c.pc.toNat - 0x400000) w }

end Sys2Proof.Machine
end

