-- ==== Sys2Proof/Machine/Matrix.lean ====
section
/-!
DEFINITION. The matrix engine (R84 to R92, R209 to R227): the instructions that queue commands, and the steps of
the engine. A command's checks run when it starts and its effect is one step when it completes.
-/

namespace Sys2Proof.Machine
open Sys2Proof

/-! ## Circular-buffer handles as the engines use them (R233, R235) -/

/-- Handle `n` of the core in focus. -/
def handleOf (s : State) (n : Nat) : Handle := (s.core.hnd[n]?).getD .reset

/-- Filled slots: (p - c) mod 2 * count. -/
def Handle.filled (h : Handle) : Nat := if h.count = 0 then 0 else (h.p + 2 * h.count - h.c) % (2 * h.count)

/-- Free slots. -/
def Handle.free (h : Handle) : Nat := h.count - h.filled

/-- The address of the slot at a position. -/
def Handle.slotAt (h : Handle) (k : Nat) : Word := h.base + BitVec.ofNat 32 (k % max 1 h.count * h.size)

/-- A position moved on by `n`. -/
def Handle.step (h : Handle) (k n : Nat) : Nat := if h.count = 0 then 0 else (k + n) % (2 * h.count)

/-- One side of a handle advanced by `n`. -/
def Handle.advance (h : Handle) (consumer : Bool) (n : Nat) : Handle :=
  if consumer then { h with c := h.step h.c n } else { h with p := h.step h.p n }

/-- Handle `n` changed. -/
def mapHandle (n : Nat) (f : Handle → Handle) (s : State) : State := s.mapCore fun c => { c with hnd := vmod c.hnd n f }

/-! ## Operands (R211, R213) -/

/-- The rows descriptor: first row and count; none if it is invalid. -/
def rowsOf (v : Word) : Option (Nat × Nat) :=
  let n := bitsNat v 7 0
  if v &&& 0xFF80FF00 ≠ 0 ∨ n = 0 ∨ 128 < n then none else some (bitsNat v 22 16, n)

/-- Where an engine finds `n` window bytes at an address: the area and its first element or byte, if they lie in one
window among W0 to W5 and pass checks 1 to 3 of R182. DESIGN CHOICE (log 23): check 3, which R182 words for user mode, binds an engine
of a compute core whatever the mode in which its command was issued. -/
def engineSpan (s : State) (a n : Nat) (store : Bool) : Option Area :=
  let ar := s.area a
  let ok : Bool := match ar with
    | .w0 => true
    | .elem _ => true
    | _ => false
  let x : Access := ⟨4, store, false⟩
  let sp := w0Span ar a n
  if ok && accepts ar x && decide (a + n ≤ areaEnd ar) && !(wordUnit ar && a % 4 != 0) &&
      !(s.compute && s.core.supFrame sp.1 sp.2) then some ar else none

/-- Address `a + i * stride` modulo 2^32. -/
def rowAddr (a stride : Word) (i : Nat) : Nat := (a + BitVec.ofNat 32 i * stride).toNat

/-- The first and last W0 byte of `n` elements from a window address; none where the address lies in no window. -/
def rowSpan (s : State) (n a : Nat) : Option (Nat × Nat) :=
  let ends (p : Nat × Nat) : Nat × Nat := (p.1, min 0x3FFFF (p.1 + p.2 - 1))
  match s.area a with
  | .w0 => some (ends (a, 4 * n))
  | .elem k => some (ends (elemBytes k ((a - elemBase k) / 4) n))
  | _ => none

/-- The smallest range that holds a list of spans. -/
def hullOf (write : Bool) : List (Nat × Nat) → Range
  | [] => Range.nothing write
  | x :: l => l.foldl (fun r y => { r with first := min r.first y.1, last := max r.last y.2 }) ⟨write, x.1, x.2⟩

/-- The range of `n` rows of 32 elements: their W0 bytes, whatever windows they lie in (R185, R213). -/
def rowsRange (s : State) (write : Bool) (a stride : Word) (n : Nat) : Range :=
  hullOf write ((List.range n).filterMap fun i => rowSpan s 32 (rowAddr a stride i))

/-- Strides and scale addresses. -/
structure MCfg where
  astr : Word
  dstr : Word
  rscl : Word
  cscl : Word
  deriving DecidableEq, Repr

/-- The settings that the engine holds. -/
def Matrix.cfg (m : Matrix) : MCfg := ⟨m.astr, m.dstr, m.rscl, m.cscl⟩

/-- A queued MCFG applied to settings. -/
def cfgStep (g : MCfg) (q : MCmd) : MCfg :=
  match decode q.word with
  | .ok (.mcfgStr _ _ _ _) => { g with astr := q.opa, dstr := q.opb }
  | .ok (.mcfgScl _ _ _ _) => { g with rscl := q.opa, cscl := q.opb }
  | _ => g

/-- The settings as a command accepted now will find them. -/
def Matrix.cfgAhead (m : Matrix) : MCfg := m.queue.foldl cfgStep m.cfg

/-- A scale vector's read range, if its address names one (R215, R219). -/
def scaleRange (s : State) (a : Word) (n : Nat) : List Range :=
  if a.getLsbD 0 then [] else [hullOf false (rowSpan s n a.toNat).toList]

/-- The lock entries of a command (R213). DESIGN CHOICE (log 23): a command with an invalid rows descriptor locks the bytes of its count
clamped to 1 to 128 until it faults. -/
def matrixRanges (s : State) (i : Instr) (opa opb : Word) : List Range :=
  let g := s.core.mx.cfgAhead
  let n := max 1 (min (bitsNat opb 7 0) 128)
  match i with
  | .mldw _ _ _ _ => [rowsRange s false opa opb 32]
  | .mstrm _ _ _ _ => [rowsRange s false opa g.astr n]
  | .mdrn _ _ _ _ _ _ => rowsRange s true opa g.dstr n :: (scaleRange s g.rscl n ++ scaleRange s g.cscl 32)
  | _ => []

/-! ## Acceptance (R214) -/

/-- Queue entries in use, local or remote. DESIGN CHOICE (log 23): a command that executes still holds its entry. -/
def Matrix.used (m : Matrix) (remote : Bool) : Nat := (m.queue.filter (fun q => q.remote == remote)).length

/-- A command enters its queue and the lock table, and takes the next sequence number. -/
def enqueueMatrix (word opa opb : Word) (notice remote : Bool) (rs : List Range) (s : State) : State :=
  let seq := s.core.mx.next
  let q : MCmd :=
    { word := word, opa := opa, opb := opb, seq := seq, notice := notice, remote := remote, next := 0,
      started := false, verdict := none }
  s.mapCore fun c =>
    { c.lock 0 seq rs with mx := { c.mx with queue := c.mx.queue ++ [q], next := seq + 1, lastRemote := remote } }

/-- There is room for a command: a queue entry and its lock entries (R186, R214). -/
def matrixRoom (s : State) (remote : Bool) (rs : List Range) : Bool :=
  decide (s.core.mx.used remote < 2) && decide (rs.length ≤ s.core.freeLocks)

/-- The rights bit that a remote command needs, and its notice bit; none for an instruction that may not come from
another core, or whose rd is not zero (R225, check 1). -/
def remoteRight (w : Word) : Option (Instr × Nat × Bool) :=
  match decode w with
  | .ok (.mcfgStr 0 a b n) => some (.mcfgStr 0 a b n, 3, n)
  | .ok (.mcfgScl 0 a b n) => some (.mcfgScl 0 a b n, 3, n)
  | .ok (.mldw 0 a b n) => some (.mldw 0 a b n, 2, n)
  | .ok (.mswap 0 n) => some (.mswap 0 n, 2, n)
  | .ok (.mstrm 0 a b n) => some (.mstrm 0 a b n, 1, n)
  | .ok (.mstrmH 0 a b n) => some (.mstrmH 0 a b n, 1, n)
  | .ok (.mzero 0 b n) => some (.mzero 0 b n, 1, n)
  | .ok (.mdrn 0 a b n i z) => some (.mdrn 0 a b n i z, 0, n)
  | _ => none

/-- Operand a of a remote command: a handle form names its handle in its own word. -/
def remoteOpa (i : Instr) (opa : Word) : Word :=
  match i with
  | .mstrmH _ a _ _ => BitVec.ofNat 32 (low3 a)
  | _ => opa

/-- A remote command that has come to the core in focus could be accepted, and the side accepted last was its own: a local command
that stalled gives way, since the two are accepted alternately (R360). -/
def remoteTurn (s : State) : Bool :=
  !s.core.mx.lastRemote && s.fabric.any fun p =>
    p.dst == s.core.id && !behind s p && (match p.body with
      | .mcmd _ w a b =>
        match remoteRight w with
        | some (i, _, _) => matrixRoom s true (matrixRanges s i (remoteOpa i a) b)
        | none => false
      | _ => false)

/-- The operands of a queued instruction. -/
def queuedOperands (s : State) : Instr → Option (Word × Word)
  | .mcfgStr _ a b _ | .mcfgScl _ a b _ | .mldw _ a b _ | .mstrm _ a b _ | .mdrn _ a b _ _ _ => some (s.x a, s.x b)
  | .mswap _ _ => some (0, 0)
  | .mzero _ b _ => some (0, s.x b)
  | .mstrmH _ a b _ => some (BitVec.ofNat 32 (low3 a), s.x b)
  | _ => none

/-- A local command stalls that could be accepted now, and the side accepted last was the other (R360). -/
def localTurn (s : State) : Bool :=
  s.core.mx.lastRemote && s.core.stalled &&
    match (fetchWord s).map decode with
    | some (.ok i) =>
      match queuedOperands s i with
      | some (x, y) => matrixRoom s false (matrixRanges s i x y) && settledFor s 0
      | none => false
    | _ => false

/-- A queued instruction: it stalls for room and until the core's earlier accesses are performed, which its issue releases to the
engine (R214, R323); then it is accepted and writes its sequence number to rd. -/
def matrixIssue (i : Instr) (d : Reg) (opa opb : Word) (notice : Bool) (s : State) : Run State :=
  let rs := matrixRanges s i opa opb
  if matrixRoom s false rs && settledFor s 0 && !(s.core.stalled && remoteTurn s) then
    let t := (enqueueMatrix (wordOf i) opa opb notice false rs s).mapCore fun c => c.launches 0 s.core.mx.next
    .ok ((t.sign (bytesOf 4 (wordOf i).toNat ++ bytesOf 4 opa.toNat ++ bytesOf 4 opb.toNat)).setX d
      (s.core.mx.next.setWidth 32))
  else .error (.wait s)

/-- MCFG.STR (R215). -/
def execMcfgStr (d a b : Reg) (n : Bool) (s : State) : Host.Outcome State Fault Refusal :=
  perform (.mcfgStr d a b n) s.compute (matrixIssue (.mcfgStr d a b n) d (s.x a) (s.x b) n) s

/-- MCFG.SCL (R215). -/
def execMcfgScl (d a b : Reg) (n : Bool) (s : State) : Host.Outcome State Fault Refusal :=
  perform (.mcfgScl d a b n) s.compute (matrixIssue (.mcfgScl d a b n) d (s.x a) (s.x b) n) s

/-- MLDW (R216). -/
def execMldw (d a b : Reg) (n : Bool) (s : State) : Host.Outcome State Fault Refusal :=
  perform (.mldw d a b n) s.compute (matrixIssue (.mldw d a b n) d (s.x a) (s.x b) n) s

/-- MSWAP (R216). -/
def execMswap (d : Reg) (n : Bool) (s : State) : Host.Outcome State Fault Refusal :=
  perform (.mswap d n) s.compute (matrixIssue (.mswap d n) d 0 0 n) s

/-- MSTRM (R217). -/
def execMstrm (d a b : Reg) (n : Bool) (s : State) : Host.Outcome State Fault Refusal :=
  perform (.mstrm d a b n) s.compute (matrixIssue (.mstrm d a b n) d (s.x a) (s.x b) n) s

/-- MSTRM from a handle (R218); operand a is the handle's number. -/
def execMstrmH (d a b : Reg) (n : Bool) (s : State) : Host.Outcome State Fault Refusal :=
  perform (.mstrmH d a b n) s.compute (matrixIssue (.mstrmH d a b n) d (BitVec.ofNat 32 (low3 a)) (s.x b) n) s

/-- MDRN (R219). -/
def execMdrn (d a b : Reg) (n i z : Bool) (s : State) : Host.Outcome State Fault Refusal :=
  perform (.mdrn d a b n i z) s.compute (matrixIssue (.mdrn d a b n i z) d (s.x a) (s.x b) n) s

/-- MZERO (R220). -/
def execMzero (d b : Reg) (n : Bool) (s : State) : Host.Outcome State Fault Refusal :=
  perform (.mzero d b n) s.compute (matrixIssue (.mzero d b n) d 0 (s.x b) n) s

/-- A fault report waits while a user handler runs (R134): waits on engines complete at once. -/
def reportHeld (s : State) : Bool := s.inHandler && !s.core.reports.isEmpty

/-- Every command accepted before sequence number `mark` has completed or faulted; at most four are ever queued. -/
def Matrix.passed (m : Matrix) (mark : BitVec 16) : Bool :=
  m.queue.all fun q => decide (4 ≤ (mark - 1 - q.seq).toNat)

/-- The sequence number that was next when the wait in progress was issued: now, unless it waits already. -/
def Core.mark (c : Core) : BitVec 16 := if c.stalled then c.waitMark else c.mx.next

/-- A wait on the commands accepted before it was issued (R220, R328). -/
def markWait (s : State) : State := s.mapCore fun c => { c with waitMark := c.mark }

/-- MWAIT (R220): commands accepted since it was issued do not hold it. -/
def execMwait (s : State) : Host.Outcome State Fault Refusal :=
  perform .mwait s.compute
    (fun s => if s.core.mx.passed s.core.mark || reportHeld s then .ok s else .error (.wait (markWait s))) s

/-! ## Status (R223) -/

/-- MSTATUS. -/
def mstatusWord (m : Matrix) : Word :=
  BitVec.ofNat 32
    ((m.queue.any (fun q => q.started)).toNat * 2 ^ 31 + m.used false * 2 ^ 29 + m.used true * 2 ^ 27
      + m.active.fmt.toNat * 2 ^ 24 + m.shadow.fmt.toNat * 2 ^ 21)

/-- MSEQ. -/
def mseqWord (m : Matrix) : Word := m.next ++ m.done

/-- MFLAGS. -/
def mflagsWord (m : Matrix) : Word := m.flags.setWidth 32

/-- MSTAT (R220): the word that the selector names; selector 3 clears MFLAGS after reading it. -/
def execMstat (d : Reg) (w : BitVec 3) (s : State) : Host.Outcome State Fault Refusal :=
  perform (.mstat d w) s.compute
    (fun s =>
      let m := s.core.mx
      .ok (match w with
        | 0#3 => s.setX d (mstatusWord m)
        | 1#3 => s.setX d (mseqWord m)
        | 2#3 => s.setX d (mflagsWord m)
        | 3#3 => (s.mapCore fun c => { c with mx := { c.mx with flags := 0 } }).setX d (mflagsWord m)
        | _ => s.setX d m.fault)) s

/-! ## Arithmetic -/

/-- A plane or activation format is a float format: 1 BF16, 2 FP16 (R223). -/
def floatFmt (k : Nat) : Bool := k == 1 || k == 2

/-- The floating format of window 1 or 2. -/
def fmtOf (k : Nat) : Fmt := if k = 1 then bf16 else fp16

/-- The element that raw bits stand for, as the plane keeps it: float bits, or the integer. -/
def keepElem (k raw : Nat) : BitVec 16 :=
  if floatFmt k then BitVec.ofNat 16 raw else (elemIn k raw).truncate 16

/-- A row of 32 elements of window `k` from an address. -/
def readRow (c : Core) (k a : Nat) : List (BitVec 16) :=
  (List.range 32).map fun j => keepElem k (c.rawElem k ((a - elemBase k) / 4 + j))

/-- The pairing class of a plane format and a row format, as the row of the R85 table: 0 INT8 with INT8, 1 INT8 with
UINT8, 2 UINT8 with UINT8, 3 INT4 with any. -/
def pairClass (p r : Nat) : Nat := if p = 4 ∨ r = 4 then 3 else (if p = 5 then 1 else 0) + (if r = 5 then 1 else 0)

/-- The K-blocks that a class allows (R85). -/
def classLimit (c : Nat) : Nat := if c = 1 then 514 else if c = 2 then 258 else 1023

/-- The more restrictive of two classes; the first, if they allow as much. -/
def stricter (a b : Nat) : Nat := if classLimit b < classLimit a then b else a

/-- A residue of a Trimod word (R87). -/
def residue (w : DWord) (lo n : Nat) : Nat := w.toNat / 2 ^ lo % 2 ^ n
/-- The K-block count of a Trimod word. -/
def kblkOf (w : DWord) : Nat := residue w 38 10

/-- A Trimod word from its fields. -/
def trimod (kblk c127 c1025 c1024 c1023 : Nat) : DWord :=
  BitVec.ofNat 64 (kblk * 2 ^ 38 + c127 * 2 ^ 31 + c1025 * 2 ^ 20 + c1024 * 2 ^ 10 + c1023)

/-- A restored word that R87 does not admit. -/
def badTrimod (cls : Nat) (w : DWord) : Bool :=
  residue w 48 16 != 0 || decide (1022 < residue w 0 10) || decide (1024 < residue w 20 11) ||
    decide (126 < residue w 31 7) || decide (classLimit cls < kblkOf w)

/-- A dot product added to an accumulator in every channel, and one K-block counted (R84, R85). -/
def addTrimod (w : DWord) (d : Int) : DWord :=
  let r (m lo n : Nat) : Nat := (((residue w lo n : Nat) : Int) + d).emod m |>.toNat
  trimod (kblkOf w + 1) (r 127 31 7) (r 1025 20 11) (r 1024 10 10) (r 1023 0 10)

/-- The Chinese remainder reconstruction and its check; none on a mismatch (R86). -/
def crt (w : DWord) : Option Int :=
  let x := (residue w 0 10 * 537395200 + residue w 10 10 * 1072692225 + residue w 20 11 * 537394176) % 1073740800
  let v : Int := if 536870400 ≤ x then (x : Int) - 1073740800 else x
  if (v.emod 127).toNat = residue w 31 7 then some v else none

/-- The sum of products of two integer segments. -/
def dotInt (a b : List (BitVec 16)) : Int := (a.zipWith (fun x y => x.toInt * y.toInt) b).foldl (· + ·) 0

/-- An element of a segment aligned to exponent `e` (R88): sign in bit 15, magnitude in bits 10:0. DESIGN CHOICE (log 15): bit 11
marks a nonzero element whose magnitude is 0, which the side path of R89 needs. -/
def alignElem (e : Int) (v : FVal) : BitVec 16 :=
  match v with
  | .num n m x =>
    let r := (roundAt 0 n m x (e - 10) false).1
    BitVec.ofNat 16 (n.toNat * 2 ^ 15 + (decide (m ≠ 0 ∧ r = 0)).toNat * 2 ^ 11 + r)
  | _ => 0

/-- An element of a segment with an infinity or a NaN (R89). DESIGN CHOICE (log 15): bit 14 marks an infinity, with bit 0 a NaN;
a nonzero finite element has magnitude 1. -/
def specialElem (v : FVal) : BitVec 16 :=
  match v with
  | .nan _ => 0x4001
  | .inf n => BitVec.ofNat 16 (n.toNat * 2 ^ 15 + 2 ^ 14)
  | .num n m _ => BitVec.ofNat 16 (n.toNat * 2 ^ 15 + (m != 0).toNat)

/-- A segment aligned (R88): its exponent E and its elements. A segment of zeros, or with an infinity or a NaN, has exponent 0. -/
def alignSeg (k : Nat) (seg : List (BitVec 16)) : Int × List (BitVec 16) :=
  let f := fmtOf k
  let emin : Int := 1 - f.bias
  let vals := seg.map fun x => unpack f x.toNat
  let finite := vals.all fun v => match v with
    | .num _ _ _ => true
    | _ => false
  let top (v : FVal) : Option Int := match v with
    | .num _ m e => if m = 0 then none else some (max (e + m.log2) emin)
    | _ => none
  if !finite then (0, vals.map specialElem)
  else
    let e := (vals.filterMap top).foldl (fun acc x => some (match acc with
      | some y => max x y
      | none => x)) (none : Option Int)
    (e.getD 0, vals.map (alignElem (e.getD 0)))

/-- The signed magnitude of an aligned element. -/
def alignedInt (x : BitVec 16) : Int :=
  let m : Int := x.toNat % 2 ^ 11
  if x.getLsbD 15 then -m else m

/-- The element is an infinity or a NaN. -/
def isSpecial (x : BitVec 16) : Bool := x.getLsbD 14
/-- The element is a NaN. -/
def isNanElem (x : BitVec 16) : Bool := x.getLsbD 14 && x.getLsbD 0
/-- The element is a zero. -/
def isZeroElem (x : BitVec 16) : Bool := !x.getLsbD 14 && x.toNat % 2 ^ 12 == 0

/-- The contribution of a segment pair with an infinity or a NaN: the sign of an infinity, or none for a NaN, with NV
when no element is a NaN (R89, R223). -/
def sidePath (a b : List (BitVec 16)) : Option Bool × Flags :=
  let prods := (a.zip b).filter fun p => isSpecial p.1 || isSpecial p.2
  let infs := prods.map fun p => if isZeroElem p.1 || isZeroElem p.2 then none else some (p.1.getLsbD 15 != p.2.getLsbD 15)
  if a.any isNanElem || b.any isNanElem then (none, 0)
  else if infs.contains none || (infs.contains (some true) && infs.contains (some false)) then (none, flagNV)
  else (some (infs.contains (some true)), 0)

/-- A float segment pair added to an accumulator's FP32 bits (R88 to R90): exponents and aligned elements. DESIGN CHOICE (log 23): a
contribution D = 0 is +0, so that it makes of an accumulator -0 a +0. -/
def addFloat (acc : Nat) (a b : Int × List (BitVec 16)) : Nat × Flags :=
  if a.2.any isSpecial || b.2.any isSpecial then
    match sidePath a.2 b.2, unpack fp32 acc with
    | (_, fl), .nan _ => (fp32.nan, fl)
    | (none, fl), _ => (fp32.nan, fl)
    | (some n, _), .inf n' => if n = n' then (fp32.signed n fp32.infBits, 0) else (fp32.nan, flagNV)
    | (some n, _), .num _ _ _ => (fp32.signed n fp32.infBits, 0)
  else
    let d : Int := (a.2.zipWith (fun x y => alignedInt x * alignedInt y) b.2).foldl (· + ·) 0
    match unpack fp32 acc with
    | .nan _ => (fp32.nan, 0)
    | .inf n => (fp32.signed n fp32.infBits, 0)
    | .num n m e =>
      let (v, x) := addExact n m e (decide (d < 0)) d.natAbs (a.1 + b.1 - 20)
      roundInt fp32 0 false v x

/-- A plane loaded from 32 rows of raw elements: each column of a float format is aligned as it loads (R216). -/
def loadPlane (k : Nat) (rows : List (List (BitVec 16))) : Plane :=
  if floatFmt k then
    let cols := (List.range 32).map fun j => alignSeg k (rows.map fun r => (r[j]?).getD 0)
    { fmt := BitVec.ofNat 3 k, expo := cols.map fun c => BitVec.ofInt 32 c.1
      rows := (List.range 32).map fun i => cols.map fun c => (c.2[i]?).getD 0 }
  else { fmt := BitVec.ofNat 3 k, expo := List.replicate 32 0, rows := rows }

/-- Column `j` of a plane. -/
def planeCol (p : Plane) (j : Nat) : List (BitVec 16) := p.rows.map fun r => (r[j]?).getD 0

/-- Column `j` of a float plane, with its exponent. -/
def planeSeg (p : Plane) (j : Nat) : Int × List (BitVec 16) := (((p.expo[j]?).getD 0).toInt, planeCol p j)

/-- Accumulator row `r`, if it is not empty. -/
def Matrix.row (m : Matrix) (r : Nat) : Option AccRow := m.acc.find? (fun a => a.row == r)

/-- Accumulator rows with row `a` put in its place, rising. -/
def putRow : List AccRow → AccRow → List AccRow
  | [], a => [a]
  | b :: l, a => if a.row < b.row then a :: b :: l else if a.row = b.row then a :: l else b :: putRow l a

/-- One activation row added to accumulator row `r` (R217), with the flags it raises. -/
def addRow (p : Plane) (cls k : Nat) (seg : List (BitVec 16)) (r : Nat) (m : Matrix) : Matrix :=
  let pk := p.fmt.toNat
  if floatFmt pk then
    let old := match m.row r with
      | some a => a.cells
      | none => List.replicate 32 0
    let a := alignSeg k seg
    let res := (old.zipIdx).map fun (w, j) => addFloat (w.toNat % 2 ^ 32) a (planeSeg p j)
    { m with
      acc := putRow m.acc ⟨r, true, 0, res.map fun x => BitVec.ofNat 64 x.1⟩
      flags := res.foldl (fun f x => f ||| x.2) m.flags }
  else
    let (old, c0) := match m.row r with
      | some a => (a.cells, stricter a.cls.toNat cls)
      | none => (List.replicate 32 0, cls)
    let res := (old.zipIdx).map fun (w, j) => addTrimod w (dotInt seg (planeCol p j))
    { m with acc := putRow m.acc ⟨r, false, BitVec.ofNat 3 c0, res⟩ }

/-! ## Checks at the start of a command -/

/-- A fault of a matrix command: its code with array row, accumulator row and column (R223); array row 62 for a
fault that is not arithmetic (log 20). -/
structure MFault where
  code : Nat
  arow : Nat
  accrow : Nat
  col : Nat
  deriving DecidableEq, Repr

/-- A fault that is not arithmetic. -/
def mfault (code : Nat) : MFault := ⟨code, 62, 0, 0⟩

/-- The window of a row that an engine may use, 1 to 5. -/
def rowWindow (s : State) (a : Nat) (store : Bool) : Option Nat :=
  match engineSpan s a 128 store with
  | some (.elem k) => some k
  | _ => none

/-- Windows of a list of rows; none if one is not acceptable. -/
def rowWindows (s : State) (store : Bool) : List Nat → Option (List Nat)
  | [] => some []
  | a :: l =>
    match rowWindow s a store, rowWindows s store l with
    | some k, some ks => some (k :: ks)
    | _, _ => none

/-- The addresses of the rows of a command. -/
def rowAddrs (a stride : Word) (n : Nat) : List Nat := (List.range n).map fun i => rowAddr a stride i

/-- MLDW's checks (R216): the window of the plane. -/
def checkMldw (s : State) (a b : Word) : Except MFault Nat :=
  if a.toNat % 4 ≠ 0 ∨ b.toNat % 4 ≠ 0 then .error (mfault 5)
  else
    match rowWindows s false (rowAddrs a b 32) with
    | some (k :: ks) => if ks.all (fun j => j == k) then .ok k else .error (mfault 3)
    | _ => .error (mfault 3)

/-- The most restrictive class among the rows of a command (R217). -/
def commandClass (p : Nat) (ks : List Nat) : Nat :=
  match ks.map (pairClass p) with
  | [] => 0
  | c :: cs => cs.foldl stricter c

/-- A target row may absorb one more K-block of the command's class, in every column (R85, R87, R212). DESIGN CHOICE
(log 23): the invalid state is tested after the kind and before the limit, since R217 gives that check no place. -/
def checkTarget (m : Matrix) (cls r : Nat) (float : Bool) : Except MFault Unit :=
  match m.row r with
  | none => .ok ()
  | some a =>
    if a.float != float then .error { mfault 4 with accrow := r }
    else if float then .ok ()
    else if a.cells.any (badTrimod a.cls.toNat) then .error { mfault 6 with accrow := r }
    else if a.cells.any (fun w => decide (classLimit (stricter a.cls.toNat cls) < kblkOf w + 1)) then
      .error { mfault 2 with accrow := r }
    else .ok ()

/-- The first fault of a list of checks. -/
def firstFault : List (Except MFault Unit) → Except MFault Unit
  | [] => .ok ()
  | .error e :: _ => .error e
  | .ok _ :: l => firstFault l

/-- MSTRM's checks (R217) from base address `a`: the windows of its rows and the first target row. The targets of the rows
before `next` have absorbed theirs (R226). -/
def checkMstrm (s : State) (a rows : Word) (size : Option Nat) (next : Nat) : Except MFault (List Nat × Nat) :=
  let m := s.core.mx
  let p := m.active.fmt.toNat
  if p = 0 then .error (mfault 8)
  else
    match rowsOf rows with
    | none => .error (mfault 5)
    | some (first, n) =>
      if m.astr.toNat % 4 ≠ 0 ∨ (size.isNone ∧ a.toNat % 4 ≠ 0) then .error (mfault 5)
      else
        let fits := match size with
          | none => true
          | some z => decide (0x100000 ≤ a.toNat) && decide (a.toNat < 0x700000) &&
              decide ((n - 1) * m.astr.toInt.natAbs + 128 ≤ z)
        if !fits then .error (mfault 7)
        else
          match rowWindows s false (rowAddrs a m.astr n) with
          | none => .error (mfault 3)
          | some ks =>
            if ks.any (fun k => floatFmt k != floatFmt p) then .error (mfault 4)
            else
              let cls := commandClass p ks
              match firstFault (((List.range n).drop next).map fun i =>
                checkTarget m cls ((first + i) % 128) (floatFmt p)) with
              | .error e => .error e
              | .ok _ => .ok (ks, first)

/-- The base of a streamed command: its address, or the slot of its handle with the slot's size (R217, R218). -/
def streamBase (s : State) (i : Instr) (opa : Word) : Option (Word × Option Nat) :=
  match i with
  | .mstrmH _ _ _ _ =>
    let h := handleOf s (opa.toNat % 8)
    if h.cfg then some (h.slotAt h.c, some h.size) else none
  | _ => some (opa, none)

/-- The cells of an integer row reconstructed in column order (R86, R87), or the first fault: a residue mismatch, which names the
accumulator store, or a restored word that R87 does not admit. -/
def crtCells (a : AccRow) : List DWord → Nat → Except MFault (List FVal)
  | [], _ => .ok []
  | w :: l, j =>
    match crt w with
    | none => .error ⟨1, 63, a.row, j⟩
    | some x =>
      if badTrimod a.cls.toNat w then .error { mfault 6 with accrow := a.row }
      else (crtCells a l (j + 1)).map fun vs => FVal.num (decide (x < 0)) x.natAbs 0 :: vs

/-- The values of an accumulator row, or the fault they find. -/
def readCells (a : AccRow) : Except MFault (List FVal) :=
  if a.float then .ok (a.cells.map fun w => unpack fp32 (w.toNat % 2 ^ 32)) else crtCells a a.cells 0

/-- The rows of a drain, reconstructed in order; none for an empty row. -/
def drainRows (m : Matrix) : List Nat → Except MFault (List (Option (List FVal)))
  | [] => .ok []
  | r :: l => do
    let x ← match m.row r with
      | none => Except.ok none
      | some a => (readCells a).map some
    let xs ← drainRows m l
    return x :: xs

/-- A scale vector of `n` words is where an engine may read it (R211, R215); bit 0 of its address selects scales 1.0. -/
def checkScales (s : State) (a : Word) (n : Nat) : Option MFault :=
  if a.getLsbD 0 then none
  else if a.toNat % 4 ≠ 0 then some (mfault 5)
  else
    match engineSpan s a.toNat (4 * n) false with
    | some .w0 => none
    | _ => some (mfault 3)

/-- Scale `i` of a vector as it stands (R215, R219). -/
def scaleAt (s : State) (a : Word) (i : Nat) : Nat := if a.getLsbD 0 then 0x3F800000 else s.core.w0Read (a.toNat + 4 * i) 4

/-- The area of every row of a drain's destination. -/
def drainAreas (s : State) : List Nat → Except MFault (List Area)
  | [] => .ok []
  | a :: l =>
    match engineSpan s a 128 true with
    | none => .error (mfault 3)
    | some ar => (drainAreas s l).map fun l => ar :: l

/-- A drain, checked (R219): its first row and count, and from row `next` on the rows' values and destination areas. -/
structure Drain where
  first : Nat
  count : Nat
  rows : List (Option (List FVal))
  areas : List Area
  deriving DecidableEq, Repr

/-- MDRN's checks; the rows before `next` are drained (R226). -/
def checkMdrn (s : State) (a rows : Word) (int : Bool) (next : Nat) : Except MFault Drain := do
  let m := s.core.mx
  match rowsOf rows with
  | none => .error (mfault 5)
  | some (first, n) =>
    let vs ← drainRows m (((List.range n).drop next).map fun i => (first + i) % 128)
    if int ∧ s.area a.toNat ≠ .w0 then .error (mfault 5)
    else if a.toNat % 4 ≠ 0 ∨ m.dstr.toNat % 4 ≠ 0 then .error (mfault 5)
    else
      let ars ← drainAreas s ((rowAddrs a m.dstr n).drop next)
      match checkScales s m.rscl n, checkScales s m.cscl 32 with
      | none, none => return ⟨first, n, vs, ars⟩
      | some e, _ => .error e
      | none, some e => .error e

/-- The checks of a command: its fault, if it has one. -/
def checkMatrix (s : State) (q : MCmd) : Option MFault :=
  let err {α : Type} (r : Except MFault α) : Option MFault := match r with
    | .ok _ => none
    | .error e => some e
  match decode q.word with
  | .ok (.mldw _ _ _ _) => err (checkMldw s q.opa q.opb)
  | .ok (.mstrm _ _ _ _) => err (checkMstrm s q.opa q.opb none q.next)
  | .ok (.mstrmH d a b n) =>
    match streamBase s (.mstrmH d a b n) q.opa with
    | none => some (mfault 7)
    | some (base, z) => err (checkMstrm s base q.opb z q.next)
  | .ok (.mdrn _ _ _ _ i _) => err (checkMdrn s q.opa q.opb i q.next)
  | .ok (.mzero _ _ _) => if (rowsOf q.opb).isNone then some (mfault 5) else none
  | _ => none

/-! ## Effects -/

/-- The destination of a drained element: FP32, INT32, or a window's format (R211, R219). -/
inductive Dest where
  | fp (f : Fmt)
  | int (lo hi : Int)
  deriving DecidableEq, Repr

/-- The destination format of an area. -/
def destOf (ar : Area) (int : Bool) : Dest :=
  match ar with
  | .elem 1 => .fp bf16
  | .elem 2 => .fp fp16
  | .elem 3 => .int (-128) 127
  | .elem 4 => .int (-8) 7
  | .elem _ => .int 0 255
  | _ => if int then .int (-2147483648) 2147483647 else .fp fp32

/-- One element drained (R91, R223): value, row scale and column scale multiplied exactly and rounded once. DESIGN CHOICE (log 23):
an infinite scale together with a zero other scale counts as an infinite scale met by zero, whatever v; a NaN v gives a floating-point
destination the canonical NaN without NV, whatever the scales; and an integer v = 0 is +0, so that a negative scale gives it the product -0 in a floating-point destination. -/
def scaleElem (v : FVal) (rs cs : Nat) (d : Dest) : Int × Flags :=
  let a := unpack fp32 rs
  let b := unpack fp32 cs
  let isNan (v : FVal) : Bool := match v with
    | .nan _ => true
    | _ => false
  let isInf (v : FVal) : Bool := match v with
    | .inf _ => true
    | _ => false
  let isZero (v : FVal) : Bool := match v with
    | .num _ m _ => m == 0
    | _ => false
  let neg (v : FVal) : Bool := match v with
    | .nan _ => false
    | .inf n => n
    | .num n _ _ => n
  let n := (neg v != neg a) != neg b
  let anyInf := isInf v || isInf a || isInf b
  let anyZero := isZero v || isZero a || isZero b
  if isNan v || isNan a || isNan b || (anyInf && anyZero) then
    match d with
    | .fp f => (f.nan, if isNan v then 0 else flagNV)
    | .int _ _ => (0, flagNV)
  else if anyInf then
    match d with
    | .fp f => (f.signed n f.infBits, 0)
    | .int lo hi => (if n then lo else hi, flagNV)
  else
    let (m, e) := match v, a, b with
      | .num _ m1 e1, .num _ m2 e2, .num _ m3 e3 => (m1 * m2 * m3, e1 + e2 + e3)
      | _, _, _ => (0, 0)
    match d with
    | .fp f => let r := roundNum f 0 false n m e; (r.1, r.2)
    | .int lo hi => toInteger 0 lo hi (.num n m e)

/-- A drained element written at window address `a`. -/
def putElem (ar : Area) (a : Nat) (v : Int) (s : State) : State :=
  let w := BitVec.ofInt 32 v
  match ar with
  | .elem k => s.setRaw k ((a - elemBase k) / 4) (w.toNat % (if k = 4 then 16 else if k = 1 ∨ k = 2 then 65536 else 256))
  | _ => s.w0Write a 4 w.toNat

/-- Row `i` of a drain, from column `j` on: each element with its scales as they stand (R219). -/
def drainRow (ar : Area) (a i : Nat) (int : Bool) : List FVal → Nat → State → State
  | [], _, s => s
  | v :: l, j, s =>
    let m := s.core.mx
    let (x, fl) := scaleElem v (scaleAt s m.rscl i) (scaleAt s m.cscl j) (destOf ar int)
    let t := putElem ar (a + 4 * j) x s
    drainRow ar a i int l (j + 1) (t.mapCore fun c => { c with mx := { c.mx with flags := c.mx.flags ||| fl } })

/-- An empty row drained (R209, R219): zeros, and no flag. DESIGN CHOICE (log 23): in W1 and W2 too, whatever the scales are, since
R219 gives the zero without them. -/
def drainEmpty (ar : Area) (a : Nat) : Nat → State → State
  | 0, s => s
  | n + 1, s => drainEmpty ar a n (putElem ar (a + 4 * n) 0 s)

/-- The rows of a drain written in order, the first of them row `i`. -/
def drainAll (int : Bool) : List (Nat × Area × Option (List FVal)) → Nat → State → State
  | [], _, s => s
  | (a, ar, vals) :: l, i, s =>
    drainAll int l (i + 1) (match vals with
      | none => drainEmpty ar a 32 s
      | some vs => drainRow ar a i int vs 0 s)

/-- Accumulator rows emptied. -/
def emptyRows (first n : Nat) (m : Matrix) : Matrix :=
  { m with acc := m.acc.filter fun a => !(decide ((a.row + 128 - first) % 128 < n)) }

/-- Activation rows streamed in order. -/
def streamRows (c : Core) (p : Plane) (cls : Nat) : List (Nat × Nat × Nat) → Matrix → Matrix
  | [], m => m
  | (a, k, r) :: l, m => streamRows c p cls l (addRow p cls k (readRow c k a) r m)

/-- The rows `next` to `stop - 1` of an MSTRM streamed (R217). -/
def streamFrom (q : MCmd) (i : Instr) (stop : Nat) (s : State) : Except MFault State :=
  match streamBase s i q.opa with
  | none => .error (mfault 7)
  | some (base, z) =>
    (checkMstrm s base q.opb z q.next).map fun (ks, first) =>
      let rows := ((rowAddrs base s.core.mx.astr ks.length).zip ks).zipIdx.map fun ((a, k), i) => (a, k, (first + i) % 128)
      s.mapCore fun c =>
        { c with mx :=
          streamRows c c.mx.active (commandClass c.mx.active.fmt.toNat ks) ((rows.take stop).drop q.next) c.mx }

/-- The rows `next` to `stop - 1` of an MDRN drained (R219). -/
def drainFrom (q : MCmd) (int : Bool) (stop : Nat) (s : State) : Except MFault State :=
  (checkMdrn s q.opa q.opb int q.next).map fun dr =>
    let rows := ((rowAddrs q.opa s.core.mx.dstr dr.count).drop q.next).zip (dr.areas.zip dr.rows)
    drainAll int (rows.take (stop - q.next)) q.next s

/-- The row of a running MSTRM in which the check channel finds a mismatch, with the physical array row: none, or a free value
(R217, log 20). -/
def arrayFault (q : MCmd) (s : State) : Option (Nat × Nat) :=
  match rowsOf q.opb, Config.arrayFault s.free with
  | some (_, n), some (i, row) => if q.next ≤ i ∧ i < n then some (i, row % 34) else none
  | _, _ => none

/-- An MSTRM run to its end: every row, or the rows before a residue mismatch, with the fault (R217). -/
def runStream (q : MCmd) (i : Instr) (s : State) : Except MFault (State × Option MFault) :=
  match arrayFault q s with
  | none => (streamFrom q i 128 s).map fun t => (t.draw, none)
  | some (j, row) =>
    (streamFrom q i j s).map fun t =>
      (t.draw, some ⟨1, row, (((rowsOf q.opb).map fun r => r.1).getD 0 + j) % 128, (Config.openWord s.free).toNat % 32⟩)

/-- The effect of a command from its next row on, and the fault that ends it in mid stream (R217); or the fault that its checks
find, with no effect. -/
def runMatrix (q : MCmd) (s : State) : Except MFault (State × Option MFault) :=
  let m := s.core.mx
  let put (m : Matrix) : Except MFault (State × Option MFault) := .ok (s.mapCore fun c => { c with mx := m }, none)
  match decode q.word with
  | .ok (.mcfgStr _ _ _ _) => put { m with astr := q.opa, dstr := q.opb }
  | .ok (.mcfgScl _ _ _ _) => put { m with rscl := q.opa, cscl := q.opb }
  | .ok (.mldw _ _ _ _) =>
    match checkMldw s q.opa q.opb with
    | .ok k => put { m with shadow := loadPlane k ((rowAddrs q.opa q.opb 32).map (readRow s.core k)) }
    | .error e => .error e
  | .ok (.mswap _ _) => put { m with active := m.shadow, shadow := m.active }
  | .ok (.mstrm d a b n) => runStream q (.mstrm d a b n) s
  | .ok (.mstrmH d a b n) =>
    (runStream q (.mstrmH d a b n) s).map fun r =>
      (if r.2.isNone then mapHandle (q.opa.toNat % 8) (fun h => h.advance true 1) r.1 else r.1, r.2)
  | .ok (.mdrn _ _ _ _ int z) =>
    (drainFrom q int 128 s).map fun t =>
      (match z, rowsOf q.opb with
        | true, some (first, n) => t.mapCore fun c => { c with mx := emptyRows first n c.mx }
        | _, _ => t, none)
  | .ok (.mzero _ _ _) =>
    match rowsOf q.opb with
    | some (first, n) => put (emptyRows first n m)
    | none => .error (mfault 5)
  | _ => .ok (s, none)

/-! ## The engine's steps -/

/-- The head command may start: it has not, its locks conflict with no earlier command, and a handle it reads from
has a filled slot (R186, R218, R235). -/
def matrixMayStart (s : State) : Bool :=
  match s.core.mx.queue with
  | [] => false
  | q :: _ =>
    !q.started && !(s.core.lockWaits 0 q.seq) &&
      (match decode q.word with
        | .ok (.mstrmH _ _ _ _) =>
          let h := handleOf s (q.opa.toNat % 8)
          !h.cfg || decide (0 < h.filled)
        | _ => true)

/-- MATRIX_COMMAND_START: the head command starts, and its checks run (R217, R221). -/
def startMatrix (s : State) : State :=
  if matrixMayStart s then
    match s.core.mx.queue with
    | [] => s
    | q :: rest =>
      let v := (checkMatrix s q).map fun f => BitVec.ofNat 8 f.code
      s.mapCore fun c => { c with mx := { c.mx with queue := { q with started := true, verdict := v } :: rest } }
  else s

/-- The head command faults (R221): later commands are discarded, locks released, and a report waits. A residue
mismatch is logged and charged to its row, or to the accumulator store of the core (R403, R416). -/
def faultMatrix (q : MCmd) (f : MFault) (s : State) : State :=
  let t := s.mapCore fun c =>
    { c with
      mx := { c.mx with
        queue := [], done := q.seq
        fault := BitVec.ofNat 32 (f.code * 2 ^ 24 + f.arow * 2 ^ 18 + f.accrow * 2 ^ 11 + f.col * 2 ^ 6) }
      locks := vmap (fun o => match o with
        | some l => if l.engine == 0 then none else some l
        | none => none) c.locks
      reports := c.reports ++ [⟨0x0E, BitVec.ofNat 32 (f.code * 2 ^ 24 + q.seq.toNat), none, some q.seq⟩] }
  if f.code = 1 then
    let l := localOf s.core.id
    chargeUnit (if f.arow < 34 then unitName 4 l f.arow else unitName 3 l 0) (t.logError .correctable 0)
  else t

/-- The head command completes: its number, its locks and its notice (R214). -/
def finishMatrix (q : MCmd) (s : State) : State :=
  let t := s.mapCore fun c => { c.unlock 0 q.seq with mx := { c.mx with queue := c.mx.queue.tail, done := q.seq } }
  if q.notice then t.notice else t

/-- MATRIX_COMMAND_COMPLETE: the head command's fault, or its effect and completion. -/
def completeMatrix (s : State) : State :=
  match s.core.mx.queue with
  | [] => s
  | q :: _ =>
    if !q.started then s
    else
      match q.verdict with
      | some code => faultMatrix q ((checkMatrix s q).getD (mfault code.toNat)) s
      | none =>
        match runMatrix q s with
        | .error e => faultMatrix q e s
        | .ok (t, some e) => faultMatrix q e t
        | .ok (t, none) => finishMatrix q t

/-- The running command as a pre-emption leaves it (R226): an MSTRM or MDRN stops at a row boundary and keeps its next row, how far
it came being a free value; any other completes, and so does one that faults. -/
def settleMatrix (s : State) : State :=
  match s.core.mx.queue with
  | [] => s
  | q :: rest =>
    let stop (n : Nat) : Nat := q.next + (Config.openWord s.free).toNat % max 1 (n - q.next)
    let keep (n : Nat) (r : Except MFault State) : State :=
      match r with
      | .error e => faultMatrix q e s
      | .ok t => t.draw.mapCore fun c => { c with mx := { c.mx with queue := { q with next := stop n } :: rest } }
    let n := ((rowsOf q.opb).map fun r => r.2).getD 0
    if !q.started then s
    else
      match q.verdict, decode q.word with
      | none, .ok (.mstrm d a b x) => keep n (streamFrom q (.mstrm d a b x) (stop n) s)
      | none, .ok (.mstrmH d a b x) => keep n (streamFrom q (.mstrmH d a b x) (stop n) s)
      | none, .ok (.mdrn _ _ _ _ int _) => keep n (drainFrom q int (stop n) s)
      | _, _ => completeMatrix s

/-- MATRIX_COMMAND_START (R213 to R220). -/
def execMatrixCommandStart (s : State) : Host.Outcome State Fault Refusal := engineStep startMatrix s

/-- MATRIX_COMMAND_COMPLETE (R214, R217, R219, R221). -/
def execMatrixCommandComplete (s : State) : Host.Outcome State Fault Refusal := engineStep completeMatrix s

/-! ## Remote commands (R224, R225) -/

/-- The target of a capability body (R147). -/
def capTarget (body : Word) : BitVec 21 :=
  BitVec.ofNat 21 (bitsNat body 31 26 * 0x8000 + bitsNat body 25 12)

/-- The four words of a remote command's block, checked once: W0, multiple of 16 (R224). An instruction that waits has passed (R186). -/
def checkBlock (s : State) (a : Nat) : Option Nat := if s.core.stalled then none else checkW0 s a 12 16 false

/-- A remote command sent in slot `i`. -/
def sendCommand (i : Nat) (cap : DWord) (a : Nat) (s : State) : State :=
  let c := s.core
  let t := s.request i .mcmd (capTarget cap.lo) true (.mcmd cap (c.w0Word a) (c.w0Word (a + 4)) (c.w0Word (a + 8)))
  (if pkgOf (capTarget cap.lo) = s.pkg then t else t.unreplayable 4)

/-- MCMD (R224): also on stewards (R52). -/
def execMcmd (d a b : Reg) (s : State) : Host.Outcome State Fault Refusal :=
  perform (.mcmd d a b) s.notMemory
    (fun s =>
      match checkBlock s (s.x b).toNat with
      | some c => .error (.trap c (s.x b))
      | none =>
        roundTrip .mcmd (released s 2)
          (fun i t => (sendCommand i (s.xp a) (s.x b).toNat t).sign
            (bytesOf 4 (wordOf (.mcmd d a b)).toNat ++ bytesOf 8 (s.xp a).toNat ++ bytesOf 4 (s.x b).toNat))
          (fun v t => t.setX d v.lo) s) s

/-- Check 2 of R225: tenant, target, tag, MAC and right. -/
def capHolds (s : State) (p : Packet) (cap : DWord) (right : Nat) : Bool :=
  let body := cap.lo
  p.tenant == s.core.tenant && capTarget body == s.core.id &&
    decide (bitsNat body 7 0 = bitsNat s.core.csr.sctx 7 0) &&
    (match s.unit.key with
      | some k => capMac k body == cap.hi
      | none => false) && body.getLsbD (8 + right)

/-- A remote command at its target in focus (R225): refused, accepted with its sequence number, or held while its
queue or the lock table has no room. -/
def takeRemote (p : Packet) (cap : DWord) (w opa opb : Word) (s : State) : Option State :=
  match remoteRight w with
  | none => some (s.answer p (.nack 1))
  | some (i, right, notice) =>
    if !capHolds s p cap right then some (s.answer p (.nack 4))
    else
      let a := remoteOpa i opa
      let rs := matrixRanges s i a opb
      if matrixRoom s true rs && !localTurn s then
        some ((enqueueMatrix w a opb notice true rs s).answer p (.data (s.core.mx.next.setWidth 64)))
      else none

end Sys2Proof.Machine
end

