-- ==== Sys2Proof/Machine/Serve.lean ====
section
/-!
DEFINITION. How a target serves a remote access (R24, R25, R174, R185, R279, R365), and far bytes as an engine moves
them (R230, R232).
-/

namespace Sys2Proof.Machine
open Sys2Proof

/-! ## Local memories -/

/-- The area that a remote access of `z` bytes at local address `a` of a core reaches, with its W0 bytes; none where
it is refused: outside W0 to W5, past the end, or at a wrong address. -/
def remoteSpan (l a z : Nat) : Option (Area × Nat × Nat) :=
  match kindAt l with
  | .compute =>
    let ar := areaCompute a
    let inside : Bool := match ar with
      | .w0 => true
      | .elem _ => true
      | _ => false
    if inside && decide (a + z ≤ areaEnd ar) && !(wordUnit ar && a % 4 != 0) then
      let sp := w0Span ar a z
      some (ar, sp.1, sp.2)
    else none
  | _ => if a + z ≤ 0x40000 then some (.w0, a, z) else none

/-- The W0 bytes of the receive ring of the core in focus, while it is on: where in it a message of the core to itself comes to lie is settled
when it is accepted (R285, R317). -/
def ringSpan (s : State) : Option (Nat × Nat) :=
  if s.core.ringOn then some (s.core.ringBase, 32 * s.core.ringSize) else none

/-- The W0 bytes of the core in focus that a request of its own names. -/
def requestSpan (s : State) (x : Slot) : Option (Nat × Nat) :=
  if x.packet.dst = s.core.id then
    match x.packet.body with
    | .load a z => (remoteSpan (localOf s.core.id) (faLocal a) z).map fun r => r.2
    | .store a z _ => (remoteSpan (localOf s.core.id) (faLocal a) z).map fun r => r.2
    | .take a => some (faLocal a, 4)
    | .ttake a _ => some (faLocal a, 4)
    | .put a _ => some (faLocal a, 4)
    | .msg _ _ => ringSpan s
    | _ => none
  else none

/-- The request of a slot has no answer, and names a byte of one of the spans. -/
def requestMeets (s : State) (o : Option Slot) (spans : List (Nat × Nat)) : Bool :=
  match o with
  | none => false
  | some x => x.reply.isNone && meets (requestSpan s x).toList spans

/-- The sender's tenant owns the cluster of the target compute core, and the span holds no byte of a supervisor
frame, unless the steward of the target's own cluster asks (R24). -/
def admits (s : State) (src : BitVec 21) (tenant : BitVec 5) (l first n : Nat) : Bool :=
  match kindAt l with
  | .compute =>
    let own := pkgOf src == s.pkg && localOf src == 0x4000 + clusterAt l
    (s.unitAt (clusterAt l)).owner == tenant && (own || !((s.coreAt l).supFrame first n))
  | _ => true

/-- A pre-empted core takes no access of `src` until its launch resumes, but for members of its gang, whose requests the save awaits
(R309, R375). -/
def State.shut (s : State) (l : Nat) (src : BitVec 21) : Bool :=
  let k := clusterAt l
  decide (l < 0x4000) &&
    match (s.unitAt k).launch with
    | some id => ((s.launch? id).map fun g => g.parks l && !s.member g src).getD false
    | none => s.launches.any fun g => g.stage == .saved && g.gang.contains k

/-- A write from outside the gang reaches a member (R408, code 5). -/
def noteIncoming (src : BitVec 21) (s : State) : State :=
  if s.compute && !((s.launch.map fun l => s.member l src).getD true) then s.unreplayable 5 else s

/-- A load of `z` bytes at a core: the value, or none where it is refused with NACK. -/
def serveLoad (src : BitVec 21) (tenant : BitVec 5) (l a z : Nat) (s : State) : Option Nat :=
  match remoteSpan l a z with
  | none => none
  | some (ar, first, n) =>
    let c := s.coreAt l
    if !admits s src tenant l first n || c.lockHit first n false then none
    else
      match ar with
      | .elem k =>
        let e := (a - elemBase k) / 4
        some ((c.elem k e).toNat + (if z = 8 then 2 ^ 32 * (c.elem k (e + 1)).toNat else 0))
      | _ => some (c.w0Read a z)

/-- A store of `z` bytes at a core; none where it is refused with NACK. -/
def serveStore (src : BitVec 21) (tenant : BitVec 5) (l a z v : Nat) (s : State) : Option State :=
  match remoteSpan l a z with
  | none => none
  | some (ar, first, n) =>
    if !admits s src tenant l first n || (s.coreAt l).lockHit first n true then none
    else some (s.at l fun t => noteIncoming src (storeData t ar a z v))

/-! ## Home-slice sync space (R365) -/

/-- The entry of a tenant in a slice's sync table: the block's physical address, plus 1 while it is valid. -/
def syncEntry (s : State) (slice t : Nat) : Nat := (assocGet s.syncTab (32 * slice + t)).getD 0

/-- The physical address of an offset in a tenant's sync block at a home slice; none while the entry is invalid. -/
def syncAddr (s : State) (slice : Nat) (tenant : BitVec 5) (off : Nat) : Option Nat :=
  let e := syncEntry s slice tenant.toNat
  if e % 2 = 1 then some (e - 1 + off) else none

/-- The journal of a home slice holds 8,192 entries (R407). -/
def sliceRoom (s : State) (slice : Nat) : Bool := decide ((s.sliceJrn.filter (fun e => e.slice == slice)).length < 8192)

/-- An atomic or region-2 store of launch `id` performs on a word of a home slice: other launches that have journalled the word become
unreplayable (R408, code 6). -/
def journalHit (id : Option Word) (pa : Nat) (s : State) : State :=
  let others := (s.sliceJrn.filter fun e => e.pa == pa && some e.launch != id).map fun e => e.launch
  others.foldl (fun t l =>
    t.mapLaunch l fun l => if l.pkt.replay && l.ureason == 0 then { l with ureason := 6 } else l) s

/-- A region-2 or atomic write of launch `id` to a word of a home slice (R408, code 6); the first write of a replayable phase journals the
old value (R407). An uncorrectable old value makes no entry. -/
def sliceJournal (id : Option Word) (tenant : BitVec 5) (pa : Nat) (s : State) : State :=
  let s1 := journalHit id pa s
  match id with
  | none => s1
  | some i =>
    let keeps := ((s.launch? i).map fun l => l.pkt.replay).getD false
    if !keeps || (s1.block (blockOf pa)).poison || s1.sliceJrn.any (fun e => e.launch == i && e.pa == pa) then s1
    else if sliceRoom s1 (sliceOf pa) then
      { s1 with sliceJrn :=
          ⟨sliceOf pa, i, pa, BitVec.ofNat 32 (natOfBytes (readBlock tenant pa 4 s1))⟩ :: s1.sliceJrn }
    else s1.mapLaunch i fun l => if l.ureason == 0 then { l with ureason := 2 } else l

/-- The launch that a source of this package works for. -/
def launchOfSource (s : State) (src : BitVec 21) : Option Word :=
  if pkgOf src = s.pkg ∧ localOf src < 0x4400 then (s.unitAt (clusterAt (localOf src))).launch else none

/-! ## Far bytes of an engine -/

/-- How a far access of an engine ends without its data. -/
inductive FarErr where
  /-- A fault of the command with its code (R232). -/
  | code (n : Nat) (s : State)
  /-- A non-replayable translation fault (R232, R368). -/
  | xlate (va : Nat) (s : State)
  /-- It waits for the fault queue. -/
  | waits (s : State)
  deriving DecidableEq, Repr

/-- The outcome of a far access. -/
abbrev FarRun (α : Type) := Except FarErr α

/-- The core in focus as a reader (kind 1) or writer (kind 2) of tenant-virtual memory (R373). -/
def whoOf (s : State) (kind : BitVec 4) (part : Nat) : Who :=
  { tenant := s.core.tenant.toNat, kind := kind, src := s.core.id, launch := ((s.launch.map fun l => l.id)).getD 0,
    phase := s.core.csr.phase, part := part }

/-- The regions that the copy engine of the core in focus may name (R230). DESIGN CHOICE (log 23): R230 limits a compute core in user mode;
one in supervisor mode may name the same. -/
def copyRegion (s : State) (r : Nat) : Bool := r == 0 || r == 1 || (!s.compute && (r == 3 || r == 4))

/-- A far row of `n` bytes at `a` keeps package, region and zero fields of the base, and names W0, a local memory or
HBM (R25, R174, R230). -/
def farRowOk (s : State) (base a : DWord) (n : Nat) : Bool :=
  let last := a + BitVec.ofNat 64 (n - 1)
  let same (x : DWord) : Bool :=
    faValid x && faZero x == faZero base && faPkg x == faPkg base && faRegion x == faRegion base && copyRegion s (faRegion x) &&
      (faRegion x == 0 || decide (faLocal x < 0x40000))
  same a && same last && (faRegion a == 0 || faEndpoint a == faEndpoint last)

/-- The error of a virtual access as an engine sees it: poison is code 4 and starts a phase abort (R405, R406). -/
def farOf : VErr → FarErr
  | .waits s => .waits s
  | .fault va s => .xlate va s
  | .poison _ s => .code 4 s.consume

/-- The pieces of a span aligned to `k` bytes (R231). -/
def piecesBy (k : Nat) : Nat → Nat → Nat → List (Nat × Nat)
  | 0, _, _ => []
  | fuel + 1, a, n =>
    if n = 0 then []
    else
      let m := min n (k - a % k)
      (a, m) :: piecesBy k fuel (a + m) (n - m)

/-- `n` bytes of another package at address `a`, or its refusal: free values (log 12), where that package can be reached. -/
def peerRead (a : DWord) (n : Nat) (s : State) : RowEnd × State :=
  if s.reachable (peerEndpoint a) then
    match (peerRefusal s.free (.read a n)).bind (rowEnd s.free) with
    | some e => (e, s.draw)
    | none => (.bytes ((List.range n).map fun i => Config.farByte s.free (a.toNat + i)), s.draw)
  else (.code 3, s)

/-- Bytes sent to another package in pieces, by the unit at `src`, for row `row` of its command or of a plan entry of launch `plan`
(R231): sectors of a scratchpad, blocks of HBM. Each is awaited until that package has accepted it. -/
def peerWrite (src : BitVec 21) (plan : Option Word) (row : Nat) (tenant : BitVec 5) (a : DWord) (bs : List Byte) (s : State) :
    Option State :=
  let k := if faRegion a = 0 then 64 else 32
  let piece (r : State × List Byte) (x : Nat × Nat) : State × List Byte :=
    let addr := BitVec.ofNat 64 x.1
    let t := r.1.send { src := src, dst := peerEndpoint a, tenant := tenant, slot := 0, body := .write addr (r.2.take x.2) }
    ({ t with away := t.away ++ [⟨src, plan, addr, row, none⟩] }, r.2.drop x.2)
  if s.reachable (peerEndpoint a) then some ((piecesBy k (bs.length / k + 2) a.toNat bs.length).foldl piece (s, bs)).1 else none

/-- A row that did not give its bytes, as a far access sees it: poison starts a phase abort (R406). -/
def farEnd (s : State) : RowEnd → FarErr
  | .bytes _ => .code 3 s
  | .code 4 => .code 4 s.consume
  | .code n => .code n s
  | .xlate va => .xlate va s

/-- The far core would refuse the access: it fails the check of R24 (code 2, as an address that R25 refuses), or hits a locked range
(code 3). -/
def farRefusal (s : State) (l a n : Nat) (write : Bool) : Option Nat :=
  if !admits s s.core.id s.core.tenant l a n then some 2 else if (s.coreAt l).lockHit a n write then some 3 else none

/-- `n` far bytes read: from HBM, from a core of this package, or from another package. A core that is pre-empted makes the row wait
(R375). What a member sends outside its gang leaves its journals, refused there or not (R408, 4). -/
def farRead (part : Nat) (base a : DWord) (n : Nat) (s : State) : FarRun (List Byte × State) :=
  let l := localOf (faEndpoint a)
  if !farRowOk s base a n then .error (.code 2 s)
  else if faPkg a ≠ s.pkg then
    match peerRead a n (notePeer (peerEndpoint a) s) with
    | (.bytes l, t) => .ok (l, t)
    | (e, t) => .error (farEnd t e)
  else if faRegion a = 0 then
    match readVirtual (whoOf s 1 part) (faVirtual a) n s with
    | .ok r => .ok r
    | .error e => .error (farOf e)
  else
    let s := noteLeaving (faEndpoint a) s
    if s.shut l s.core.id then .error (.waits s)
    else
      match farRefusal s l (faLocal a) n false with
      | some c => .error (.code c s)
      | none => .ok ((s.coreAt l).w0Bytes (faLocal a) n, s)

/-- The far bytes of row `row` written. -/
def farWrite (row : Nat) (base a : DWord) (bs : List Byte) (s : State) : FarRun State :=
  let n := bs.length
  let l := localOf (faEndpoint a)
  if !farRowOk s base a n then .error (.code 2 s)
  else if faPkg a ≠ s.pkg then
    match peerWrite s.core.id none row s.core.tenant a bs (notePeer (peerEndpoint a) s) with
    | some t => .ok t
    | none => .error (.code 3 s)
  else if faRegion a = 0 then
    match writeVirtual (whoOf s 2 0) (if s.compute then s.unit.launch else none) (faVirtual a) bs s with
    | .ok t => .ok t
    | .error e => .error (farOf e)
  else
    let s := noteLeaving (faEndpoint a) s
    if s.shut l s.core.id then .error (.waits s)
    else
      match farRefusal s l (faLocal a) n true with
      | some c => .error (.code c s)
      | none => .ok (s.at l fun t => noteIncoming s.core.id (t.w0Put (faLocal a) bs))

/-! ## Pairs (R168) -/

/-- The local endpoint of the follower in a pair. -/
def partnerOf (s : State) : Nat := localOf s.core.id + 1

/-- The follower's engine hears how far row `r` of its leader's command ended. -/
def tellRow (r : Nat) (e : RowEnd) (s : State) : State :=
  s.at (partnerOf s) fun t => t.mapCore fun c => { c with cp := { c.cp with got := c.cp.got ++ [(r, e)] } }

/-- The follower's engine hears that the first `n` rows of its leader's command have landed in another package. -/
def tellRows (n : Nat) (s : State) : State := (List.range n).foldl (fun t r => tellRow r (.bytes []) t) s

/-- Far row `r` of a copy command: on a pair only the leader's request leaves, and its outcome reaches both engines (R168). What goes
to another package (`late`) is told once its pieces have been accepted there. -/
def pairRow (r : Nat) (late : Bool) (f : State → FarRun (List Byte × State)) (s : State) : FarRun (List Byte × State) :=
  let failed (e : RowEnd) (t : State) : State := tellRow r e (if late then tellRows r t else t)
  if s.pairFollower then
    match s.core.cp.got.find? fun x => x.1 == r with
    | none => .error (.waits s)
    | some x =>
      let t := s.mapCore fun c => { c with cp := { c.cp with got := removeFirst (· == x) c.cp.got } }
      match x.2 with
      | .bytes l => .ok (l, t)
      | .code n => .error (.code n t)
      | .xlate va => .error (.xlate va t)
  else if s.paired then
    match f s with
    | .ok (l, t) => .ok (l, if late then t else tellRow r (.bytes l) t)
    | .error (.code n t) => .error (.code n (failed (.code n) t))
    | .error (.xlate va t) => .error (.xlate va (failed (.xlate va) t))
    | .error (.waits t) => .error (.waits t)
  else f s

end Sys2Proof.Machine
end

