-- ==== Sys2Proof/Machine/Copy.lean ====
section
/-!
DEFINITION. The copy engine and the circular-buffer handles (R228 to R240). A command's checks run when it starts;
its bytes move row by row when it completes.
-/

namespace Sys2Proof.Machine
open Sys2Proof

/-! ## Operands -/

/-- An operand of a copy command (R229): the descriptor's far address, a local address, a handle, or the local source
rows of a gather. -/
inductive COp where
  | far
  | local (a : Word)
  | handle (n : Nat)
  | rows (a : Word)
  deriving DecidableEq, Repr

/-- Source, destination and index list of a copy or gather, from its captured operands. -/
def copyOps (i : Instr) (far : DWord) (opa opb : Word) : COp × COp × Option Word :=
  match i with
  | .ccopy _ _ _ _ h s m =>
    let side (b : Bool) (v : Word) : COp := if b then .handle (v.toNat % 8) else .local v
    if m = 2 then (.far, side h opa, none)
    else if m = 1 then (side s opa, .far, none)
    else (side s opa, side h opb, none)
  | .cgath _ _ _ _ h m =>
    (if m then .far else .rows far.lo, if h then .handle (opa.toNat % 8) else .local opa, some opb)
  | _ => (.far, .far, none)

/-- Row length. -/
def CopyDesc.b (d : CopyDesc) : Nat := d.rowlen.toNat
/-- Rows of the inner dimension. -/
def CopyDesc.n1 (d : CopyDesc) : Nat := bitsNat d.counts 15 0 + 1
/-- Rows of the outer dimension. -/
def CopyDesc.n2 (d : CopyDesc) : Nat := bitsNat d.counts 31 16 + 1

/-- The lowest offset of a two-dimensional walk and the end of its highest row. -/
def offsets (n1 n2 b : Nat) (s1 s2 : Int) : Int × Int :=
  (min 0 ((n1 - 1 : Nat) * s1) + min 0 ((n2 - 1 : Nat) * s2),
   max 0 ((n1 - 1 : Nat) * s1) + max 0 ((n2 - 1 : Nat) * s2) + b)

/-- The W0 bytes of a local operand from its lowest to its highest, first and count; none if they leave W0. -/
def localSpan (a : Word) (off : Int × Int) : Option (Nat × Nat) :=
  let lo := (a.toNat : Int) + off.1
  let hi := (a.toNat : Int) + off.2
  if 0 ≤ lo ∧ hi ≤ 0x40000 ∧ lo < hi then some (lo.toNat, (hi - lo).toNat) else none

/-- Source offsets of a command. -/
def srcOffsets (d : CopyDesc) : Int × Int := offsets d.n1 d.n2 d.b d.sstr1.toInt d.sstr2.toInt
/-- Destination offsets; a gather has one dimension. -/
def dstOffsets (d : CopyDesc) (gather : Bool) : Int × Int :=
  offsets d.n1 (if gather then 1 else d.n2) d.b d.dstr1.toInt d.dstr2.toInt

/-- The range of a local operand. -/
def localRange (write : Bool) (a : Word) (off : Int × Int) : Range :=
  match localSpan a off with
  | some (f, n) => ⟨write, f, f + n - 1⟩
  | none => Range.nothing write

/-- The index list is read as `n1` words. -/
def indexOffsets (d : CopyDesc) : Int × Int := (0, 4 * d.n1)

/-- The lock entries of a command (R229, R230). -/
def copyRanges (d : CopyDesc) (o : COp × COp × Option Word) : List Range :=
  (match o.1 with
    | .local a => [localRange false a (srcOffsets d)]
    | _ => []) ++
  (match o.2.1 with
    | .local a => [localRange true a (dstOffsets d o.2.2.isSome)]
    | _ => []) ++
  (match o.2.2 with
    | some a => [localRange false a (indexOffsets d)]
    | none => [])

/-! ## Acceptance (R228, R229) -/

/-- CCFG (R228). -/
def execCcfg (a b : Reg) (i : BitVec 2) (s : State) : Host.Outcome State Fault Refusal :=
  performPure (.ccfg a b i) true
    (fun s =>
      let f (d : CopyDesc) : CopyDesc := match i with
        | 0#2 => { d with rowlen := s.x a, counts := s.x b }
        | 1#2 => { d with sstr1 := s.x a, sstr2 := s.x b }
        | 2#2 => { d with dstr1 := s.x a, dstr2 := s.x b }
        | _ => { d with far := pairOf (s.x a) (s.x b) }
      (s.mapCore fun c => { c with cp := { c.cp with desc := f c.cp.desc } }).sign
        (bytesOf 4 (wordOf (.ccfg a b i)).toNat ++ bytesOf 4 (s.x a).toNat ++ bytesOf 4 (s.x b).toNat)) s

/-- The scope of the core's accesses that the issue of a command releases to the engine: its own scratchpad, or the system where an
operand is far (R229, R323, R362). -/
def copyScope (i : Instr) : Nat :=
  match i with
  | .ccopy _ _ _ _ _ _ m => if m = 0 then 0 else 3
  | .cgath _ _ _ _ _ m => if m then 3 else 0
  | _ => 3

/-- A command accepted with its descriptor, once a queue entry and its lock entries are free and the core's earlier requests that it
could meet are answered, which its issue releases to the engine (R214, R229, R323). -/
def copyIssue (i : Instr) (d : Reg) (opa opb : Word) (notice : Bool) (s : State) : Run State :=
  let desc := s.core.cp.desc
  let rs := if s.compute then copyRanges desc (copyOps i desc.far opa opb) else []
  if s.core.cp.queue.length < 2 ∧ rs.length ≤ s.core.freeLocks ∧ settledFor s (copyScope i) = true then
    let seq := s.core.cp.next
    let q : CCmd :=
      { word := wordOf i, opa := opa, opb := opb, seq := seq, notice := notice, desc := desc, next := 0,
        started := false, verdict := none, user := s.inUser }
    let t := s.mapCore fun c =>
      ({ c.lock 1 seq rs with cp := { c.cp with queue := c.cp.queue ++ [q], next := seq + 1 } } : Core).launches 1 seq
    .ok ((t.sign (bytesOf 4 (wordOf i).toNat ++ bytesOf 4 opa.toNat ++ bytesOf 4 opb.toNat)).setX d (seq.setWidth 32))
  else .error (.wait s)

/-- A register operand, or the number of the handle that stands in its field. -/
def handleOr (s : State) (isHandle : Bool) (r : Reg) : Word := if isHandle then BitVec.ofNat 32 (low3 r) else s.x r

/-- CCOPY (R229, R230): mode 0 local to local, 1 local to far, 2 far to local. -/
def execCcopy (d a b : Reg) (n h c : Bool) (m : BitVec 2) (s : State) : Host.Outcome State Fault Refusal :=
  perform (.ccopy d a b n h c m) true
    (copyIssue (.ccopy d a b n h c m) d (handleOr s (c || (h && m == 2)) a) (handleOr s (h && m == 0) b) n) s

/-- CGATH (R229, R230). -/
def execCgath (d a b : Reg) (n h m : Bool) (s : State) : Host.Outcome State Fault Refusal :=
  perform (.cgath d a b n h m) true (copyIssue (.cgath d a b n h m) d (handleOr s h a) (s.x b) n) s

/-- CWAIT (R237). -/
def execCwait (s : State) : Host.Outcome State Fault Refusal :=
  perform .cwait true (fun s => if s.core.cp.queue.isEmpty || reportHeld s then .ok s else .error (.wait s)) s

/-! ## Checks and rows -/

/-- The W0 bytes of a handle's slot: start and length (R233). -/
def slotBytes (s : State) (a : Word) (size : Nat) : Option (Nat × Nat) :=
  match s.area a.toNat with
  | .w0 => some (a.toNat, size)
  | .elem k =>
    let e := (a.toNat - elemBase k) / 4
    some ((elemBytes k e 1).1, if k = 1 ∨ k = 2 then size / 2 else if k = 4 then size / 8 else size / 4)
  | _ => none

/-- Where a local operand or a handle's slot starts; a fault code where its span is not allowed (R231, R235). -/
def operandStart (s : State) (user : Bool) (o : COp) (consumer : Bool) (off : Int × Int) : Except Nat (Option Nat) :=
  let okSpan (f n : Nat) : Bool := !(user && s.core.supFrame f n)
  match o with
  | .far => .ok none
  | .rows a => .ok (some a.toNat)   -- its rows are checked one by one, by the index list (`rowsOk`)
  | .local a =>
    match localSpan a off with
    | some (f, n) => if okSpan f n then .ok (some a.toNat) else .error 1
    | none => .error 1
  | .handle k =>
    let h := handleOf s k
    if !h.cfg then .error 6
    else
      match slotBytes s (h.slotAt (if consumer then h.c else h.p)) h.size with
      | none => .error 6
      | some (start, len) => if 0 ≤ off.1 ∧ off.2 ≤ len then .ok (some start) else .error 6

/-- The offset of row `r` under two strides. -/
def rowOffset (d : CopyDesc) (s1 s2 : Word) (r : Nat) : Int := (r % d.n1 : Nat) * s1.toInt + (r / d.n1 : Nat) * s2.toInt

/-- A local address at an offset, modulo 2^32 (R230). -/
def localAt (a : Nat) (off : Int) : Nat := (((a : Int) + off).emod (2 ^ 32)).toNat

/-- The source offset of row `r`: by its index word for a gather. -/
def sourceOffset (s : State) (d : CopyDesc) (idx : Option Nat) (r : Nat) : Int :=
  match idx with
  | none => rowOffset d d.sstr1 d.sstr2 r
  | some a => (s.core.w0Word (a + 4 * r)).toNat * d.sstr1.toInt

/-- Row `r` of a local source lies in W0 and, for a command of user mode, in no supervisor frame (R182, R231). -/
def rowOk (s : State) (user : Bool) (d : CopyDesc) (a : Nat) (idx : Option Nat) (r : Nat) : Bool :=
  let x := localAt a (sourceOffset s d idx r)
  decide (x + d.b ≤ 0x40000) && !(user && s.core.supFrame x d.b)

/-- Every source row that a gather's index list names may be read. -/
def rowsOk (s : State) (user : Bool) (d : CopyDesc) (o : COp) (src idx : Option Nat) : Bool :=
  match o, src with
  | .rows _, some a => (List.range d.n1).all (rowOk s user d a idx)
  | _, _ => true

/-- The local starts of source, destination and index list, after every check of R231. -/
def checkCopy (s : State) (q : CCmd) (i : Instr) : Except Nat (Option Nat × Option Nat × Option Nat) := do
  let d := q.desc
  let o := copyOps i d.far q.opa q.opb
  let gather := o.2.2.isSome
  if d.b = 0 ∨ 65536 < d.b ∨ (gather ∧ d.n2 ≠ 1) then .error 5
  else if gather ∧ q.opb.toNat % 4 ≠ 0 then .error 5
  else
    let src ← operandStart s q.user o.1 true (srcOffsets d)
    let dst ← operandStart s q.user o.2.1 false (dstOffsets d gather)
    let idx ← match o.2.2 with
      | some a => operandStart s q.user (.local a) true (indexOffsets d)
      | none => .ok none
    let overlap := match src, dst with
      | some a, some b =>
        !gather && decide ((a : Int) + (srcOffsets d).1 < b + (dstOffsets d false).2) &&
          decide ((b : Int) + (dstOffsets d false).1 < a + (srcOffsets d).2)
      | _, _ => false
    if overlap then .error 5
    else if rowsOk s q.user d o.1 src idx = false then .error 1
    else return (src, dst, idx)

/-- A far address at an offset (R230). -/
def farAt (far : DWord) (off : Int) : DWord := BitVec.ofInt 64 ((far.toNat : Int) + off)

/-- A command whose rows go to another package: a row counts as moved once its pieces have been accepted there (R231). -/
def goesAway (s : State) (d : CopyDesc) (dst : Option Nat) : Bool := dst.isNone && faPkg d.far != s.pkg

/-- Row `r` of a command moved (R230). -/
def moveRow (user : Bool) (d : CopyDesc) (src dst idx : Option Nat) (r : Nat) (s : State) : FarRun State := do
  let so := sourceOffset s d idx r
  let doff := rowOffset d d.dstr1 (if idx.isSome then 0 else d.dstr2) r
  let (bs, s) ← match src with
    | none => pairRow r false (farRead 0 d.far (farAt d.far so) d.b) s
    | some a => if rowOk s user d a idx r then .ok (s.core.w0Bytes (localAt a so) d.b, s) else .error (.code 1 s)
  match dst with
  | none =>
    let (_, t) ← pairRow r (goesAway s d dst) (fun s => (farWrite r d.far (farAt d.far doff) bs s).map fun t => ([], t)) s
    return t
  | some a => .ok (s.w0Put (localAt a doff) bs)

/-- How far a command came. -/
inductive CEnd where
  | done (s : State)
  | fault (code row : Nat) (s : State)
  | xlate (va row : Nat) (s : State)
  | waits (row : Nat) (s : State)
  deriving DecidableEq, Repr

/-- Rows moved in order. -/
def moveRows (user : Bool) (d : CopyDesc) (src dst idx : Option Nat) : List Nat → State → CEnd
  | [], s => .done s
  | r :: l, s =>
    match moveRow user d src dst idx r s with
    | .ok t => moveRows user d src dst idx l t
    | .error (.code n t) => .fault n r t
    | .error (.xlate va t) => .xlate va r t
    | .error (.waits t) => .waits r t

/-! ## The engine's steps -/

/-- The head command waits on a handle: its destination has no free slot, or its source no filled one (R235). -/
def handleWaits (s : State) (q : CCmd) : Bool :=
  match decode q.word with
  | .ok i =>
    let o := copyOps i q.desc.far q.opa q.opb
    let full (x : COp) (consumer : Bool) : Bool := match x with
      | .handle k =>
        let h := handleOf s k
        h.cfg && (if consumer then h.filled == 0 else h.free == 0)
      | _ => false
    full o.1 true || full o.2.1 false
  | .error _ => false

/-- The head command may start (R186, R235). -/
def copyMayStart (s : State) : Bool :=
  match s.core.cp.queue with
  | [] => false
  | q :: _ => !q.started && !(s.core.lockWaits 1 q.seq) && !handleWaits s q

/-- The fault code that a command's checks find. -/
def copyVerdict (s : State) (q : CCmd) : Option (BitVec 8) :=
  match decode q.word with
  | .ok i =>
    match checkCopy s q i with
    | .ok _ => none
    | .error c => some (BitVec.ofNat 8 c)
  | .error _ => some 5

/-- The queue of the copy engine changed. -/
def setQueue (l : List CCmd) (s : State) : State := s.mapCore fun c => { c with cp := { c.cp with queue := l } }

/-- COPY_COMMAND_START. -/
def startCopy (s : State) : State :=
  if copyMayStart s then
    match s.core.cp.queue with
    | [] => s
    | q :: rest => setQueue ({ q with started := true, verdict := copyVerdict s q } :: rest) s
  else s

/-- A piece of the running command of the core in focus, in another package. -/
def awayHere (s : State) (x : Away) : Bool := x.plan.isNone && x.src == s.core.id

/-- The head command ends with a report (R232): later commands are discarded, locks released, and its pieces are forgotten. -/
def faultCopy (q : CCmd) (cause code row : Nat) (value : Word) (s : State) : State :=
  (forgetPieces (awayHere s) s).mapCore fun c =>
    { c with
      cp := { c.cp with
        queue := [], done := q.seq, fault := BitVec.ofNat 32 (code * 2 ^ 24 + row % 65536 * 2 ^ 8) }
      locks := vmap (fun o => match o with
        | some l => if l.engine == 1 then none else some l
        | none => none) c.locks
      reports := c.reports ++ [⟨cause, value, none, some q.seq⟩] }

/-- Handles advanced at completion: the destination's producer, the source's consumer (R235). -/
def advanceOps (o : COp × COp × Option Word) (s : State) : State :=
  let t := match o.1 with
    | .handle k => mapHandle k (fun h => h.advance true 1) s
    | _ => s
  match o.2.1 with
  | .handle k => mapHandle k (fun h => h.advance false 1) t
  | _ => t

/-- The head command completes (R231, R235). -/
def finishCopy (q : CCmd) (i : Instr) (s : State) : State :=
  let t := (advanceOps (copyOps i q.desc.far q.opa q.opb) s).mapCore fun c =>
    { c.unlock 1 q.seq with cp := { c.cp with queue := c.cp.queue.tail, done := q.seq } }
  if q.notice then t.notice else t

/-- The trap value of a command's fault (R130). -/
def engineValue (code : Nat) (seq : BitVec 16) : Word := BitVec.ofNat 32 (code * 2 ^ 24 + seq.toNat)

/-- The lowest row of which a piece was refused in another package. -/
def failedPiece (s : State) : Option Away :=
  (s.away.filter fun x => awayHere s x && x.ended.isSome).foldl (fun best x =>
    match best with
    | none => some x
    | some y => if x.row < y.row then some x else best) none

/-- A command ends with the refusal of a row in another package (R232, R406); a pair's follower hears of it. -/
def rowRefused (q : CCmd) (x : Away) (s : State) : State :=
  let e := x.ended.getD (.code 3)
  let t := if s.paired then tellRow x.row e (tellRows x.row s) else s
  match e with
  | .xlate va => faultCopy q 0x15 0 x.row (BitVec.ofNat 32 (va / 512)) t
  | .code c => faultCopy q 0x0D c x.row (engineValue c q.seq) (if c = 4 then t.consume else t)
  | .bytes _ => t

/-- The rows of a command up to `stop` have left: its pieces in other packages are awaited (R231). -/
def landed (q : CCmd) (rest : List CCmd) (stop : Nat) (done : State → State) (s : State) : State :=
  match failedPiece s with
  | some x => rowRefused q x s
  | none => if s.away.any (awayHere s) then setQueue ({ q with next := stop } :: rest) s else done s

/-- The rows of a started command move, from its next one up to row `stop`; `done` says what follows then. A command that waits for
a translation keeps its place. After a non-replayable translation fault, for which R232 lists no code, CFAULT holds code 0 with the row
(log 23). -/
def runCopy (q : CCmd) (rest : List CCmd) (stop : Nat) (done : Instr → State → State) (s : State) : State :=
  match q.verdict, decode q.word with
  | none, .ok i =>
    match checkCopy s q i with
    | .error c => faultCopy q 0x0D c 0 (engineValue c q.seq) s
    | .ok (src, dst, idx) =>
      match moveRows q.user q.desc src dst idx ((List.range stop).drop q.next) s with
      | .done t => landed q rest stop (done i) t
      | .fault c r t => faultCopy q 0x0D c r (engineValue c q.seq) t
      | .xlate va r t => faultCopy q 0x15 0 r (BitVec.ofNat 32 (va / 512)) t
      | .waits r t => setQueue ({ q with next := r } :: rest) t
  | some c, _ => faultCopy q 0x0D c.toNat 0 (engineValue c.toNat q.seq) s
  | none, .error _ => faultCopy q 0x0D 5 0 (engineValue 5 q.seq) s

/-- The rows of a command. -/
def CopyDesc.total (d : CopyDesc) : Nat := d.n1 * d.n2

/-- On a pair, the follower hears of the rows of a command that went to another package once all have landed. -/
def tellLanded (q : CCmd) (i : Instr) (s : State) : State :=
  let far := (copyOps i q.desc.far q.opa q.opb).2.1 == .far && faPkg q.desc.far != s.pkg
  if s.paired && !s.pairFollower && far then tellRows q.desc.total s else s

/-- COPY_COMMAND_COMPLETE: the started head command moves its rows and completes. -/
def completeCopy (s : State) : State :=
  match s.core.cp.queue with
  | [] => s
  | q :: rest => if q.started then runCopy q rest q.desc.total (fun i t => finishCopy q i (tellLanded q i t)) s else s

/-- The running command of a pre-empted core stops at a row boundary, at one that the spec leaves open (R240, R375); one that goes to
another package, whose pieces have been awaited by then, stops where it is. -/
def settleCopy (s : State) : State :=
  match s.core.cp.queue with
  | [] => s
  | q :: rest =>
    let away : Bool := match decode q.word with
      | .ok i => (copyOps i q.desc.far q.opa q.opb).2.1 == .far && faPkg q.desc.far != s.pkg
      | .error _ => false
    let stop := if away then q.next else q.next + (Config.openWord s.free).toNat % max 1 (q.desc.total - q.next)
    if q.started then runCopy q rest stop (fun _ t => setQueue ({ q with next := stop } :: rest) t.draw) s else s

/-- COPY_COMMAND_START (R231, R235). -/
def execCopyCommandStart (s : State) : Host.Outcome State Fault Refusal := engineStep startCopy s

/-- COPY_COMMAND_COMPLETE (R231, R232, R235). -/
def execCopyCommandComplete (s : State) : Host.Outcome State Fault Refusal := engineStep completeCopy s

/-- The running command of the core in focus faults with code 7 in row `r`. -/
def timeoutCopy (r : Nat) (s : State) : State :=
  match s.core.cp.queue with
  | [] => s
  | q :: _ =>
    let t := s.mapCore fun c => { c with cp := { c.cp with got := [] } }
    if q.started then faultCopy q 0x0D 7 r (engineValue 7 q.seq) t else s

/-- The follower of a pair runs the command that its leader, in focus, runs. -/
def sameCommand (s : State) : Bool :=
  match s.core.cp.queue.head?, (s.coreAt (partnerOf s)).cp.queue.head? with
  | some a, some b => a.seq == b.seq && b.started
  | _, _ => false

/-- COPY_PIECE_TIMEOUT (R232, code 7): a piece of row `r` of the running command waited more than 2^20 cycles. On a pair it is the
leader's, and both engines fault (R168). -/
def execCopyPieceTimeout (r : BitVec 16) (s : State) : Host.Outcome State Fault Refusal :=
  engineStep (fun s =>
    if s.pairFollower then s
    else if s.paired then (if sameCommand s then (timeoutCopy r.toNat s).at (partnerOf s) (timeoutCopy r.toNat) else s)
    else timeoutCopy r.toNat s) s

/-! ## Handles (R233 to R236) -/

/-- An accepted command names one side of handle `n` (R235). -/
def handleNamed (s : State) (n : Nat) (consumer : Bool) : Bool :=
  (consumer && s.core.mx.queue.any fun q => match decode q.word with
    | .ok (.mstrmH _ _ _ _) => q.opa.toNat % 8 == n
    | _ => false) ||
  s.core.cp.queue.any fun q => match decode q.word with
    | .ok i =>
      let o := copyOps i q.desc.far q.opa q.opb
      (if consumer then o.1 else o.2.1) == .handle n
    | .error _ => false

/-- A fault of a scalar handle instruction: cause 0x0D, code 6, with the number that the engine's next command
receives (R234). -/
def handleTrap (s : State) : Stop := .trap 0x0D (engineValue 6 s.core.cp.next)

/-- The ring lies in one window among W0 to W5 and reaches no supervisor frame (R234). -/
def ringFits (s : State) (base : Word) (n : Nat) : Bool :=
  let ar := s.area base.toNat
  let inside : Bool := match ar with
    | .w0 => true
    | .elem _ => true
    | _ => false
  let sp := w0Span ar base.toNat n
  inside && decide (base.toNat + n ≤ areaEnd ar) && !(s.compute && s.core.supFrame sp.1 sp.2)

/-- The handle that CB.CFG makes (R234); none where it faults. -/
def newHandle (s : State) (base geo : Word) : Option Handle :=
  let size := (bitsNat geo 29 16 + 1) * 4
  let count := bitsNat geo 7 0 + 1
  if geo &&& 0xC000FF00 ≠ 0 ∨ base.toNat % 4 ≠ 0 ∨ !ringFits s base (size * count) then none
  else some ⟨true, base, size, count, 0, 0⟩

/-- CB.CFG (R234, R235). -/
def execCbCfg (d a b : Reg) (s : State) : Host.Outcome State Fault Refusal :=
  perform (.cbCfg d a b) true
    (fun s =>
      match newHandle s (s.x a) (s.x b) with
      | none => .error (handleTrap s)
      | some h =>
        if handleNamed s (low3 d) true || handleNamed s (low3 d) false then .error (.wait s)
        else .ok (mapHandle (low3 d) (fun _ => h) s)) s

/-- CB.WAITF and CB.WAITE: an address once enough slots are filled or free (R234). -/
def handleWait (d : Reg) (n : Nat) (k : Nat) (consumer : Bool) (s : State) : Run State :=
  let h := handleOf s k
  if !h.cfg ∨ n = 0 ∨ h.count < n then .error (handleTrap s)
  else if n ≤ (if consumer then h.filled else h.free) then
    .ok (s.setX d (h.slotAt (if consumer then h.c else h.p)))
  else .error (.wait s)

/-- CB.WAITF (R234). -/
def execCbWaitf (d a b : Reg) (s : State) : Host.Outcome State Fault Refusal :=
  perform (.cbWaitf d a b) true (handleWait d (s.x b).toNat (low3 a) true) s

/-- CB.WAITE (R234). -/
def execCbWaite (d a b : Reg) (s : State) : Host.Outcome State Fault Refusal :=
  perform (.cbWaite d a b) true (handleWait d (s.x b).toNat (low3 a) false) s

/-- CB.ADVP and CB.ADVC: a release, then the advance (R234, R235). -/
def handleAdvance (n : Nat) (k : Nat) (consumer : Bool) (s : State) : Run State :=
  let h := handleOf s k
  if !h.cfg then .error (handleTrap s)
  else if handleNamed s k consumer || !released s 3 then .error (.wait s)
  else if (if consumer then h.filled else h.free) < n then .error (handleTrap s)
  else .ok (mapHandle k (fun h => h.advance consumer n) s)

/-- CB.ADVP (R234). -/
def execCbAdvp (a b : Reg) (s : State) : Host.Outcome State Fault Refusal :=
  perform (.cbAdvp a b) true (handleAdvance (s.x b).toNat (low3 a) false) s

/-- CB.ADVC (R234). -/
def execCbAdvc (a b : Reg) (s : State) : Host.Outcome State Fault Refusal :=
  perform (.cbAdvc a b) true (handleAdvance (s.x b).toNat (low3 a) true) s

/-- The request of CB.RADV sent in slot `i` (R236). -/
def sendAdvance (i : Nat) (v n : Word) (s : State) : State :=
  let dst : BitVec 21 := v.truncate 21
  let t := s.request i .radv dst true (.radv (v.extractLsb' 21 3) (v.getLsbD 24) n)
  if pkgOf dst = s.pkg then t else t.unreplayable 4

/-- CB.RADV (R236). -/
def execCbRadv (a b : Reg) (s : State) : Host.Outcome State Fault Refusal :=
  perform (.cbRadv a b) true
    (fun s =>
      if bitsNat (s.x a) 31 25 ≠ 0 then .error (.trap 2 (wordOf (.cbRadv a b)))
      else roundTrip .radv (released s (max 2 (scopeOf s ((s.x a).truncate 21)))) (fun i t => sendAdvance i (s.x a) (s.x b) t) (fun _ t => t) s) s

/-- An incoming CB.RADV at its target in focus (R236): refused, done, or held while a command names the side. -/
def takeAdvance (p : Packet) (h : BitVec 3) (side : Bool) (n : Word) (s : State) : Option State :=
  let k := h.toNat
  let g := handleOf s k
  let same := (launchOfSource s p.src).isSome && launchOfSource s p.src == s.unit.launch
  if p.tenant != s.core.tenant || !same || !g.cfg then some (s.answer p (.nack 1))
  else if handleNamed s k side then none
  else if (if side then g.filled else g.free) < n.toNat then some (s.answer p (.nack 1))
  else some ((mapHandle k (fun h => h.advance side n.toNat) s).answer p .ack)

/-! ## Status (R238) -/

/-- CSTATUS. -/
def cstatusWord (s : State) : Word :=
  let q := s.core.cp.queue
  let hw := match q with
    | [] => false
    | c :: _ => !c.started && handleWaits s c
  BitVec.ofNat 32 ((q.any fun c => c.started).toNat * 2 ^ 31 + q.length * 2 ^ 29 + hw.toNat * 2 ^ 28)

/-- CSEQ. -/
def cseqWord (c : CopyEng) : Word := c.next ++ c.done

/-- HLO of a handle; zero while it is not configured. -/
def hloWord (h : Handle) : Word := if h.cfg then BitVec.ofNat 32 (h.p * 2 ^ 23 + h.base.toNat % 2 ^ 23) else 0

/-- HHI of a handle; zero while it is not configured. -/
def hhiWord (h : Handle) : Word :=
  if h.cfg then BitVec.ofNat 32 (h.c * 2 ^ 23 + (h.count - 1) * 2 ^ 15 + 2 ^ 14 + (h.size / 4 - 1)) else 0

end Sys2Proof.Machine
end

