-- ==== Sys2Proof/Machine/Predict.lean ====
section
/-!
DEFINITION. Predicted transfers: the predictor table (R243, R244), the slots and their instructions (R245 to R252,
R254), speculative and true fetches (R250, R255, R256) and the exposure (R257 to R262).
-/

namespace Sys2Proof.Machine
open Sys2Proof

/-! ## The predictor table (R243, R244) -/

/-- The set of a key. -/
def predSet (k : Word) : Nat := bitsNat k 7 0
/-- The tag of a key. -/
def predTag (k : Word) : BitVec 24 := k.extractLsb' 8 24

/-- The entry of a key. -/
def predFind (l : List PredEntry) (k : Word) : Option PredEntry :=
  l.find? fun e => e.set == predSet k && e.tag == predTag k

/-- The place of an entry in the order of sets and ways. -/
def PredEntry.place (e : PredEntry) : Nat := 4 * e.set + e.way

/-- An entry put at its set and way. -/
def predPut : List PredEntry → PredEntry → List PredEntry
  | [], e => [e]
  | x :: l, e =>
    if e.place < x.place then e :: x :: l
    else if e.place = x.place then e :: l
    else x :: predPut l e

/-- The confidence of a way, one higher than stored; 0 for an invalid way. -/
def wayRank (l : List PredEntry) (set way : Nat) : Nat :=
  match l.find? (fun e => e.set == set && e.way == way) with
  | some e => e.conf + 1
  | none => 0

/-- The way that a new key takes: the lowest confidence, the lowest way on ties (R244). -/
def predVictim (l : List PredEntry) (set : Nat) : Nat :=
  [1, 2, 3].foldl (fun best w => if wayRank l set w < wayRank l set best then w else best) 0

/-- Index and confidence stored for a key; an absent key is allocated. -/
def predStore (l : List PredEntry) (k : Word) (idx : BitVec 16) (conf : Nat) : List PredEntry :=
  match predFind l k with
  | some e => predPut l { e with idx := idx, conf := conf }
  | none =>
    predPut l { set := predSet k, way := predVictim l (predSet k), tag := predTag k, idx := idx, conf := conf }

/-- One training update (R244). -/
def predTrain (l : List PredEntry) (k : Word) (t : BitVec 16) : List PredEntry :=
  match predFind l k with
  | none => predStore l k t 1
  | some e =>
    if e.idx = t then predStore l k t (min (e.conf + 1) 7)
    else if 2 ≤ e.conf then predStore l k e.idx (e.conf - 2)
    else predStore l k t 1

/-- The `.ent` word of a key (R252). -/
def predWord (l : List PredEntry) (k : Word) : Word :=
  match predFind l k with
  | none => 0
  | some e => BitVec.ofNat 32 (2 ^ 31 + e.conf * 2 ^ 16 + e.idx.toNat)

/-! ## Slots (R245, R252) -/

/-- Slot `p`. -/
def slotAt (c : Core) (p : Nat) : PredSlot := (c.slots[p]?).getD .reset

/-- Slot `p` changed. -/
def mapSlot (p : Nat) (f : PredSlot → PredSlot) (s : State) : State :=
  s.mapCore fun c => { c with slots := vmod c.slots p f }

/-- The R245 code of a state. -/
def PState.code : PState → Nat
  | .free => 0
  | .deciding => 0
  | .predicted => 1
  | .deferred => 2
  | .exposing => 3
  | .exposed => 4

/-- The `.stat` word. -/
def slotStat (p : PredSlot) : Word :=
  BitVec.ofNat 32
    (p.state.code * 2 ^ 29 + p.held.isSome.toNat * 2 ^ 28 + p.drop.toNat * 2 ^ 27
      + (p.hit && decide (3 ≤ p.state.code)).toNat * 2 ^ 26 + p.conf * 2 ^ 23 + p.tab.toNat * 2 ^ 22
      + (p.len - 1) % 8 * 2 ^ 14 + p.dframe % 64 * 2 ^ 8)

/-- The `.seq` word. -/
def slotSeq (p : PredSlot) : Word := p.seq ++ p.pidx

/-- Pool entry `j` is held by a slot (R178, R245). -/
def poolBusy (c : Core) (j : Nat) : Bool := c.slots.toList.any fun p => p.frames.contains j

/-- The free pool entries, lowest first. -/
def poolFree (c : Core) : List Nat := (List.range 8).filter fun j => !poolBusy c j

/-- A fault report of slot `p` is held (R251). -/
def slotFaulted (c : Core) (p : Nat) : Bool := c.reports.any fun r => (r.slot.map fun q => q.toNat) == some p

/-- The lock of slot `p` released. -/
def unlockSlot (p : Nat) (s : State) : State := s.mapCore fun c => c.unlock 2 (BitVec.ofNat 16 p)

/-- The trap of a predicted-transfer instruction (R254). -/
def predTrap (code : Nat) (seq : BitVec 16) : Stop := .trap 0x0F (BitVec.ofNat 32 (code * 2 ^ 24 + seq.toNat))

/-- An engine command signed by a pair: the instruction word and its two scalar operands (R168). -/
def signCommand (i : Instr) (a b : Word) (s : State) : State :=
  s.sign (bytesOf 4 (wordOf i).toNat ++ bytesOf 4 a.toNat ++ bytesOf 4 b.toNat)

/-! ## The instructions -/

/-- PCFG (R246, R248). -/
def execPcfg (a b : Reg) (g : Bool) (s : State) : Host.Outcome State Fault Refusal :=
  performPure (.pcfg a b g) s.compute
    (fun s => s.mapCore fun c => { c with pdesc :=
      if g then { c.pdesc with stride := bitsNat (s.x a) 15 0, len := bitsNat (s.x b) 3 0 }
      else { c.pdesc with base := pairOf (s.x a) (s.x b) } }) s

/-- The trap code of PFETCH, if one of its checks fails (R249). -/
def pfetchCheck (s : State) (p : Nat) (d : Word) : Option Nat :=
  let q := s.core.pdesc
  if (slotAt s.core p).state ≠ .free then some 1
  else if q.len < 1 ∨ 8 < q.len ∨ q.stride = 0 ∨ q.base.extractLsb' 0 12 ≠ 0 ∨ q.base.extractLsb' 55 3 ≠ 0 then some 2
  else if bitsNat d 11 0 ≠ 0 ∨ s.core.jbase < d.toNat / 4096 + q.len then some 3
  else none

/-- The slot that PFETCH fills: its lookup is undecided, and what R249 binds at issue is kept. -/
def newSlot (s : State) (key d : Word) : PredSlot :=
  let q := s.core.pdesc
  { PredSlot.reset with
    state := .deciding, key := key, base := q.base, stride := q.stride, len := q.len, dframe := d.toNat / 4096,
    seq := s.core.pseq, thresh := bitsNat s.core.csr.pthresh 2 0,
    specOk := ((s.launch.map fun l => l.pkt.spec).getD false) && decide (s.core.csr.spshare ≠ 0) }

/-- The destination range of a slot. -/
def PredSlot.range (p : PredSlot) : Range := ⟨true, p.dframe * 4096, (p.dframe + p.len) * 4096 - 1⟩

/-- PFETCH past its checks: slot, lock and lookup; a pair's follower sends none (R262). -/
def startPrefetch (p : Nat) (key d : Word) (s : State) : State :=
  let q := newSlot s key d
  let t := (mapSlot p (fun _ => q) s).mapCore fun c =>
    { c.lock 2 (BitVec.ofNat 16 p) [q.range] with pseq := c.pseq + 1 }
  if t.pairFollower then t
  else t.mapUnit fun u => { u with predq := u.predq ++ [.lookup s.core.id (BitVec.ofNat 3 p)] }

/-- The accesses of the core that the issue of a prediction or of its confirmation releases to the unit are performed: every one, as the
source lies outside the core (R214, R318, R329). -/
def predReady (s : State) : Bool := settledFor s 3

/-- PFETCH (R249): it stalls for its lock entry, and for the core's earlier accesses as the other engines' commands do (R329). -/
def execPfetch (d a b : Reg) (s : State) : Host.Outcome State Fault Refusal :=
  perform (.pfetch d a b) s.compute
    (fun s =>
      match pfetchCheck s (low3 d) (s.x b) with
      | some c => .error (predTrap c s.core.pseq)
      | none =>
        if s.core.freeLocks = 0 ∨ predReady s = false then .error (.wait s)
        else .ok (signCommand (.pfetch d a b) (s.x a) (s.x b) (startPrefetch (low3 d) (s.x a) (s.x b) s))) s

/-- CONFIRM past its checks: training, and the hit or the true fetch, whose request may go to another package (R250, R256, R408).
DESIGN CHOICE (log 23): CONFIRM alone launches a command that a drain-on-step waits for, until its slot is exposed; PFETCH does not. -/
def confirmSlot (p : Nat) (v : Word) (notice : Bool) (s : State) : State :=
  let q := slotAt s.core p
  let t : BitVec 16 := v.truncate 16
  let hit := q.state == .predicted && q.pidx == t
  let s0 := if s.pairFollower || (hit && !q.drop) then s else notePeer (peerEndpoint q.base) s
  let s1 :=
    if s.pairFollower then s0 else s0.mapUnit fun u => { u with predq := u.predq ++ [.train q.key t] }
  (mapSlot p (fun q =>
    let r := { q with hit := hit, state := .exposing, tidx := t, notice := notice }
    if hit && !q.drop then r else { r with frames := [], filled := false, held := none }) s1).mapCore
      fun c => c.launches 2 (BitVec.ofNat 16 p)

/-- CONFIRM (R250), once the core's earlier accesses are performed (R329). -/
def execConfirm (d a : Reg) (n : Bool) (s : State) : Host.Outcome State Fault Refusal :=
  perform (.confirm d a n) s.compute
    (fun s =>
      let q := slotAt s.core (low3 d)
      match q.state with
      | .deciding => .error (.wait s)
      | .predicted | .deferred =>
        if bitsNat (s.x a) 31 16 ≠ 0 then .error (predTrap 4 q.seq)
        else if predReady s = false then .error (.wait s)
        else .ok (signCommand (.confirm d a n) (s.x a) 0 (confirmSlot (low3 d) (s.x a) n s))
      | .free | .exposing | .exposed => .error (predTrap 1 q.seq)) s

/-- Slot `p` freed with its frames and its lock; a lookup of it that waits is withdrawn. -/
def freeSlot (p : Nat) (s : State) : State :=
  dropLookups (fun q => q.toNat == p) (unlockSlot p (mapSlot p (fun _ => .reset) s))

/-- CANCEL (R251). -/
def execCancel (d : Reg) (s : State) : Host.Outcome State Fault Refusal :=
  perform (.cancel d) s.compute
    (fun s =>
      let q := slotAt s.core (low3 d)
      match q.state with
      | .free => .ok (signCommand (.cancel d) 0 0 s)
      | .deciding => .error (.wait s)
      | .predicted | .deferred => .ok (signCommand (.cancel d) 0 0 (freeSlot (low3 d) s))
      | .exposing | .exposed => .error (predTrap 1 q.seq)) s

/-- PWAIT (R251): over an exposure fault that is held it completes at once. -/
def execPwait (d : Reg) (s : State) : Host.Outcome State Fault Refusal :=
  perform (.pwait d) s.compute
    (fun s =>
      let q := slotAt s.core (low3 d)
      match q.state with
      | .free => .ok s
      | .deciding => .error (.wait s)
      | .predicted | .deferred => .error (predTrap 1 q.seq)
      | .exposing => if slotFaulted s.core (low3 d) then .ok s else .error (.wait s)
      | .exposed => .ok (freeSlot (low3 d) s)) s

/-- PREAD .stat and .seq (R252). The follower of a pair sees what its leader saw (R262). -/
def execPread (d a : Reg) (q : Bool) (s : State) : Host.Outcome State Fault Refusal :=
  perform (.pread d a q) s.compute
    (fun s =>
      let p := slotAt s.core (low3 a)
      match leaderValue s with
      | some v => .ok (s.setX d v.lo)
      | none =>
        if p.state = .deciding then .error (.wait s)
        else .ok (s.setX d (if q then slotSeq p else slotStat p))) s

/-- PREAD .ent (R252), served after every earlier request of the cluster unit (R243). -/
def execPreadEnt (d a : Reg) (s : State) : Host.Outcome State Fault Refusal :=
  perform (.preadEnt d a) s.compute
    (fun s =>
      match leaderValue s with
      | some v => .ok (s.setX d v.lo)
      | none =>
        if s.unit.predq.isEmpty then .ok (s.setX d (predWord s.unit.pred (s.x a))) else .error (.wait s)) s

/-- A change of the predictor table by an instruction, in its turn (R243); a pair's follower sends nothing. -/
def predChange (f : List PredEntry → List PredEntry) (s : State) : Run State :=
  if s.pairFollower then .ok s
  else if s.unit.predq.isEmpty then .ok (s.mapUnit fun u => { u with pred := f u.pred })
  else .error (.wait s)

/-- PTRAIN .set (R251). -/
def execPtrainSet (a b : Reg) (s : State) : Host.Outcome State Fault Refusal :=
  perform (.ptrainSet a b) s.compute
    (fun s => predChange (fun l => predStore l (s.x a) ((s.x b).truncate 16) (bitsNat (s.x b) 18 16)) s) s

/-- PTRAIN .inv (R251). -/
def execPtrainInv (a : Reg) (s : State) : Host.Outcome State Fault Refusal :=
  perform (.ptrainInv a) s.compute
    (fun s => predChange
      (fun l => l.filter fun e => !(e.set == predSet (s.x a) && e.tag == predTag (s.x a))) s) s

/-! ## Pairs (R262) -/

/-- What happens to a slot of a pair's leader happens to its follower's. -/
def onPair (f : State → State) (s : State) : State := if s.paired then (f s).at (partnerOf s) f else f s

/-- A slot's unit may act: on a pair's leader once the follower's slot stands where its own does. The follower has no
unit of its own. -/
def pairReady (p : Nat) (s : State) : Bool :=
  if s.pairFollower then false
  else if s.paired then
    let q := slotAt s.core p
    let r := slotAt (s.coreAt (partnerOf s)) p
    r.state == q.state && r.seq == q.seq
  else true

/-- A slot's lookup may be decided: on a pair, once leader and follower have the same frames free, so that the decision is one for
both (R262). -/
def decisionReady (p : Nat) (s : State) : Bool :=
  pairReady p s && (!s.paired || poolFree s.core == poolFree (s.coreAt (partnerOf s)))

/-! ## Lookup and training -/

/-- A slot's lookup decided with the entry found (R249). -/
def decideSlot (e : Option PredEntry) (p : Nat) (s : State) : State :=
  let q := slotAt s.core p
  let fr := (poolFree s.core).take q.len
  let seen := { q with tab := e.isSome, conf := (e.map PredEntry.conf).getD 0 }
  mapSlot p (fun _ =>
    match e with
    | some e =>
      if q.thresh ≤ e.conf ∧ q.specOk ∧ fr.length = q.len then
        { seen with state := .predicted, pidx := e.idx, frames := fr }
      else { seen with state := .deferred }
    | none => { seen with state := .deferred }) s

/-- A lookup decided on its core, which in a pair is the leader: the follower's slot takes the same state, and the same frames, which
are free in its own pool (R262). A predicted slot sends its speculative request, to another package maybe (R408, 4). -/
def decideBoth (e : Option PredEntry) (p : Nat) (s : State) : State :=
  let t := decideSlot e p s
  let q := slotAt t.core p
  let u := if q.state = .predicted then notePeer (peerEndpoint q.base) t else t
  if s.paired then
    u.at (partnerOf s) (mapSlot p fun r =>
      { r with state := q.state, pidx := q.pidx, conf := q.conf, tab := q.tab, frames := q.frames })
  else u

/-- PREDICTOR_LOOKUP: the oldest request, if it is a lookup (R243, R249). -/
def servePredictor (s : State) : State :=
  match s.unit.predq with
  | .lookup c p :: rest =>
    let done := s.mapUnit fun u => { u with predq := rest }
    s.at (localOf c) fun t =>
      let q := slotAt t.core p.toNat
      if q.state ≠ .deciding then t.mapUnit fun _ => done.unit
      else if !decisionReady p.toNat t then t
      else decideBoth (predFind t.unit.pred q.key) p.toNat (t.mapUnit fun _ => done.unit)
  | _ => s

/-- PREDICTOR_LOOKUP. -/
def execPredictorLookup (s : State) : Host.Outcome State Fault Refusal := happen servePredictor s

/-- TRAINING_UPDATE: the oldest request, if it is a training update (R244). -/
def execTrainingUpdate (s : State) : Host.Outcome State Fault Refusal :=
  happen (fun s =>
    match s.unit.predq with
    | .train k t :: rest => s.mapUnit fun u => { u with predq := rest, pred := predTrain u.pred k t }
    | _ => s) s

/-! ## Fetches -/

/-- The fabric address of source index `t` (R246). -/
def PredSlot.source (q : PredSlot) (t : BitVec 16) : DWord :=
  q.base + BitVec.ofNat 64 (t.toNat * q.stride * 4096)

/-- The bytes of a source. -/
def PredSlot.bytes (q : PredSlot) : Nat := q.len * 4096

/-- What a speculative read finds (R255, R423). -/
inductive Spec where
  | data (l : List Byte)
  | held (code : Nat)
  | dropped
  deriving DecidableEq, Repr

/-- One piece inside a block for tenant `t`: only a translation that `unit` has cached, of a page with the speculation attribute, serves
it, and nothing changes. -/
def specPiece (s : State) (unit : Nat) (t : BitVec 5) (va n : Nat) : Spec :=
  match atcFind s unit t.toNat va with
  | none => .dropped
  | some e =>
    if !e.spec then .dropped
    else
      let pa := e.pa + va % 2 ^ e.bits
      let e := s.errAt (blockOf pa)
      if !s.owns t (blockOf pa) then .data (readBlock t pa n s)
      else if (s.block (blockOf pa)).poison || e == .media then .held 5
      else if e == .mac || e == .macAmb then .dropped
      else .data (readBlock t pa n s)

/-- A true request waits at the channel of a piece (R255, R361). -/
def trueWaits (s : State) (unit : Nat) (t : BitVec 5) (va : Nat) : Bool :=
  match atcFind s unit t.toNat va with
  | none => false
  | some e => s.fabric.any fun p => localOf p.dst == 0x5000 + sliceOf (e.pa + va % 2 ^ e.bits)

/-- The pieces of a speculative read of tenant `t`, in order, each at the unit that `unit` names for its address. -/
def specPieces (s : State) (unit : Nat → Nat) (t : BitVec 5) : List (Nat × Nat) → Spec
  | [] => .data []
  | (va, n) :: l =>
    match specPiece s (unit va) t va n with
    | .data a =>
      match specPieces s unit t l with
      | .data b => .data (a ++ b)
      | y => y
    | y => y

/-- The speculative read of a source: one of another package may be served, dropped, refused or poisoned (log 12). -/
def specRead (s : State) (base a : DWord) (n : Nat) : Spec :=
  if !farRowOk s base a n then .held 6
  else if faPkg a ≠ s.pkg then
    if !s.lease.domain.getLsbD (faPkg a) then .dropped
    else
      match peerRefusal s.free (.read a n) with
      | some (.nack 2) => .held 5
      | some (.nack _) => .held 6
      | some _ => .dropped
      | none =>
        if (Config.openWord s.free).getLsbD 0 then .data ((List.range n).map fun i => Config.farByte s.free (a.toNat + i))
        else .dropped
  else specPieces s translatorOf s.core.tenant (piecesOf (faVirtual a) n)

/-- A true request waits at a channel that the speculative read of a source needs, so that its memory core does not serve it now. -/
def specHeld (s : State) (a : DWord) (n : Nat) : Bool :=
  faPkg a == s.pkg && (piecesOf (faVirtual a) n).any fun x => trueWaits s (translatorOf x.1) s.core.tenant x.1

/-- Bytes put into the quarantine frames of a slot, which no address reaches. -/
def fillQuarantine (q : PredSlot) (l : List Byte) (c : Core) : Core :=
  (List.range q.len).foldl (fun c k =>
    match q.frames[k]? with
    | none => c
    | some j => { c with sp := c.sp.put (((c.pool[j]?).getD 0).toNat * 4096) ((l.drop (4096 * k)).take 4096) }) c

/-- A confirmed hit whose frames still hold the speculative fetch: it is exposed by a swap (R250). -/
def PredSlot.swaps (q : PredSlot) : Bool := q.hit && !q.drop && !q.frames.isEmpty

/-- The speculative fetch of slot `p` is under way. -/
def specPending (s : State) (p : Nat) : Bool :=
  let q := slotAt s.core p
  (q.state == .predicted || (q.state == .exposing && q.swaps)) && !q.filled && !q.drop && q.held.isNone

/-- A dropped speculative fetch: once confirmed, its frames are free and the true fetch takes its place (R256). -/
def dropSlot (p : Nat) (s : State) : State :=
  mapSlot p (fun q => { q with drop := true, frames := if q.state = .exposing then [] else q.frames }) s

/-- SPECULATIVE_FETCH_COMPLETE (R255): once no true request waits for its channels (R361). -/
def completeSpec (p : Nat) (s : State) : State :=
  let q := slotAt s.core p
  if specPending s p && pairReady p s && !specHeld s (q.source q.pidx) q.bytes then
    match specRead s q.base (q.source q.pidx) q.bytes with
    | .data l => (onPair (fun t => mapSlot p (fun q => { q with filled := true })
        (t.mapCore (fillQuarantine (slotAt t.core p) l))) s).draw
    | .held c => onPair (mapSlot p fun q => { q with held := some c }) s
    | .dropped => (onPair (dropSlot p) s).draw
  else s

/-- SPECULATIVE_FETCH_COMPLETE. -/
def execSpeculativeFetchComplete (p : BitVec 3) (s : State) : Host.Outcome State Fault Refusal :=
  engineStep (completeSpec p.toNat) s

/-- A speculative read of another package, served from the translations that its gateway has cached (R255). -/
def isSpec (p : Packet) : Bool :=
  match p.body with
  | .specRead _ _ => true
  | _ => false

/-- The oldest speculative read of another package that still waits here is dropped (R255). -/
def dropPeerSpec (s : State) : State :=
  match s.fabric.find? isSpec with
  | none => s
  | some p => State.answer { s with fabric := removeFirst isSpec s.fabric } p .ack

/-- SPECULATIVE_REQUEST_DROP (R255): a request that has waited 4,096 cycles, the one of slot `p` or, where that slot has none under way, one
of another package. -/
def execSpeculativeRequestDrop (p : BitVec 3) (s : State) : Host.Outcome State Fault Refusal :=
  if specPending s p.toNat then
    engineStep (fun s => if pairReady p.toNat s then onPair (dropSlot p.toNat) s else s) s
  else happen dropPeerSpec s

/-! ## Exposure -/

/-- Slot `p` exposing: it may complete once no earlier conflicting command of the core is incomplete (R258). -/
def exposable (s : State) (p : Nat) : Bool :=
  (slotAt s.core p).state == .exposing && !slotFaulted s.core p && !(s.core.lockWaits 2 (BitVec.ofNat 16 p)) &&
    (!s.paired || !((s.coreAt (partnerOf s)).lockWaits 2 (BitVec.ofNat 16 p))) && pairReady p s

/-- An exposure by swap is due: a confirmed hit whose fetch is filled or holds a fault. -/
def swapDue (s : State) (p : Nat) : Bool :=
  let q := slotAt s.core p
  exposable s p && q.swaps && (q.filled || q.held.isSome)

/-- A true fetch is under way. -/
def trueDue (s : State) (p : Nat) : Bool :=
  exposable s p && !(slotAt s.core p).swaps

/-- The destination's lines journalled as written (R259). -/
def journalFrames (q : PredSlot) (s : State) : State :=
  (List.range (16 * q.len)).foldl (fun t k => t.journal (q.dframe * 4096 + 256 * k)) s

/-- Every word of the destination full (R190, R250). DESIGN CHOICE (log 13): a remote take that was deferred on an empty word there is not
handed the word by this; it waits on until a PUT, as R259 gives the exposure no rule for a wait over it. -/
def fillFull (q : PredSlot) (s : State) : State :=
  s.mapCore fun c => { c with empty := c.empty.filter fun w =>
    !(decide (q.dframe * 1024 ≤ w) && decide (w < (q.dframe + q.len) * 1024)) }

/-- The swap of the remap table with the pool. -/
def swapFrames (q : PredSlot) (c : Core) : Core :=
  (List.range q.len).foldl (fun c k =>
    match q.frames[k]? with
    | none => c
    | some j =>
      { c with
        remap := c.remap.setIfInBounds (q.dframe + k) ((c.pool[j]?).getD 0)
        pool := c.pool.setIfInBounds j ((c.remap[q.dframe + k]?).getD 0) }) c

/-- Slot `p` exposed, with the notice that CONFIRM asked for. -/
def exposed (p : Nat) (s : State) : State :=
  let t := mapSlot p (fun q => { q with state := .exposed, frames := [], filled := false }) s
  if (slotAt s.core p).notice then t.notice else t

/-- An exposure that faults (R254): the frames and the lock are free, the report waits for its boundary. -/
def exposureFault (cause : Nat) (value : Word) (p : Nat) (s : State) : State :=
  (unlockSlot p (mapSlot p (fun q => { q with frames := [], filled := false }) s)).mapCore fun c =>
    { c with reports := c.reports ++ [⟨cause, value, some (BitVec.ofNat 3 p), some (slotAt c p).seq⟩] }

/-- An exposure that faults with a code of R254. -/
def exposureCode (code p : Nat) (s : State) : State :=
  exposureFault 0x0F (BitVec.ofNat 32 (code * 2 ^ 24 + (slotAt s.core p).seq.toNat)) p s

/-- EXPOSURE_SWAP (R250, R252). -/
def exposeSwap (p : Nat) (s : State) : State :=
  if swapDue s p then
    onPair (fun t =>
      let q := slotAt t.core p
      match q.held with
      | some c => exposureCode c p (if c = 5 then t.consume else t)
      | none => exposed p (fillFull q ((journalFrames q t).mapCore (swapFrames q)))) s
  else s

/-- EXPOSURE_SWAP. -/
def execExposureSwap (p : BitVec 3) (s : State) : Host.Outcome State Fault Refusal := engineStep (exposeSwap p.toNat) s

/-- The true source in the destination frames. -/
def putTrue (l : List Byte) (p : Nat) (s : State) : State :=
  let q := slotAt s.core p
  exposed p (fillFull q (s.w0Put (q.dframe * 4096) l))

/-- TRUE_FETCH_COMPLETE (R250, R254): by the copy engine's rules for HBM reads. DESIGN CHOICE (log 13): the whole source, of a true or a
speculative fetch, is read at one instant, which settles for every sector whether it gives old or new contents (R257). -/
def completeTrue (p : Nat) (s : State) : State :=
  if trueDue s p then
    let q := slotAt s.core p
    match farRead (p + 1) q.base (q.source q.tidx) q.bytes s with
    | .ok (l, t) => onPair (putTrue l p) t
    | .error (.code 4 t) => onPair (exposureCode 5 p) t
    | .error (.code _ t) => onPair (exposureCode 6 p) t
    | .error (.xlate va t) => onPair (exposureFault 0x15 (BitVec.ofNat 32 (va / 512)) p) t
    | .error (.waits t) => t
  else s

/-- TRUE_FETCH_COMPLETE. -/
def execTrueFetchComplete (p : BitVec 3) (s : State) : Host.Outcome State Fault Refusal :=
  engineStep (completeTrue p.toNat) s

/-- TRUE_FETCH_TIMEOUT (R254, code 7). -/
def execTrueFetchTimeout (p : BitVec 3) (s : State) : Host.Outcome State Fault Refusal :=
  engineStep (fun s => if trueDue s p.toNat then onPair (exposureCode 7 p.toNat) s else s) s

/-- The slots at a phase closure (R260): predicted and deferred ones are cancelled, exposed ones freed. -/
def closeSlots (s : State) : State :=
  (List.range 8).foldl (fun t p =>
    match (slotAt t.core p).state with
    | .free => t
    | .exposing => t
    | .deciding | .predicted | .deferred | .exposed => freeSlot p t) s

end Sys2Proof.Machine
end

