-- ==== Sys2Proof/Machine/Trap.lean ====
section
/-!
DEFINITION. What happens at an instruction boundary of the core in focus (R128, R129, R131 to R139, R284), in the
order of R134, and the debug controls of a halted core (R136, R137).
-/

namespace Sys2Proof.Machine
open Sys2Proof

/-- A supervisor interrupt of a compute core may be taken: bit `i` of SIE is set, and in supervisor mode also
SSTATUS.sie (R132). -/
def supervisorTakes (i : Nat) (s : State) : Bool :=
  s.compute && s.core.csr.sie.getLsbD i && (s.inUser || s.core.csr.sstatus.getLsbD 0)

/-- A user interrupt may be taken: bit `i` of UIE is set, uie = 1, inh = 0 (R132). -/
def userTakes (i : Nat) (s : State) : Bool :=
  s.compute && s.inUser && s.core.csr.uie.getLsbD i && s.core.csr.ustatus.getLsbD 0 && !s.inHandler

/-- A pending bit of SIP cleared: its event is taken (R41). -/
def takeSip (i : Nat) (s : State) : State := s.mapCsr fun c => { c with sip := setBit c.sip i false }

/-- A pending bit of SIP set. -/
def pendSip (i : Nat) (s : State) : State := s.mapCsr fun c => { c with sip := setBit c.sip i true }

/-- The core in focus runs and is not halted. -/
def State.runs (s : State) : Bool := s.core.halt.isNone

/-- The core in focus waits for its next point (R158). -/
def noPoint (s : State) : Bool := s.core.point.isNone && s.compute && s.inUser

/-! ## What is due, in the order of R134 -/

/-- A machine check is due. -/
def machineCheckDue (s : State) : Bool := s.runs && s.core.mcheck.isSome
/-- A debug halt is due. -/
def debugHaltDue (s : State) : Bool := s.runs && s.core.csr.sip.getLsbD 3 && s.core.csr.sie.getLsbD 3
/-- A phase abort is due. -/
def phaseAbortDue (s : State) : Bool := s.runs && s.core.csr.sip.getLsbD 4 && supervisorTakes 4 s
/-- A pre-emption is due. -/
def preEmptionDue (s : State) : Bool := s.runs && s.core.csr.sip.getLsbD 1 && supervisorTakes 1 s
/-- An escalation of the steward's cluster is due (R135). -/
def escalationDue (s : State) : Bool :=
  s.runs && s.steward && s.core.csr.sstatus.getLsbD 0 && s.core.csr.sie.getLsbD 5 && !s.core.escServing &&
    !(escalating s).isEmpty
/-- The core in focus takes the reports and interrupts of a point: it has one, where it needs one. -/
def State.atPoint (s : State) : Bool := s.runs && !noPoint s
/-- An engine fault report is due: held while a user handler runs (R134). -/
def faultReportDue (s : State) : Bool := s.atPoint && !s.inHandler && !s.core.reports.isEmpty
/-- A refusal report is due, as an engine fault report would be (R284). -/
def refusalReportDue (s : State) : Bool := s.atPoint && !s.inHandler && !s.core.refusals.isEmpty
/-- A completion interrupt is due. -/
def completionDue (s : State) : Bool := s.atPoint && s.core.csr.uip.getLsbD 2 && userTakes 2 s
/-- A message-arrival interrupt is due (R289). -/
def messageDue (s : State) : Bool := s.atPoint && s.core.unread && userTakes 5 s

/-- The events of R134 in their order; an escalation holds on a steward the place of a pre-emption (R135). -/
def dueEvents : List (State → Bool) :=
  [machineCheckDue, debugHaltDue, phaseAbortDue, preEmptionDue, escalationDue, faultReportDue, refusalReportDue, completionDue,
    messageDue]

/-- Event `k` is the one that the boundary of the core in focus takes: it is due, and none before it. An instruction that waits
has no boundary; the core itself withdraws it first (R129). -/
def takesEvent (k : Nat) (s : State) : Bool :=
  !s.core.stalled && ((dueEvents[k]?).map fun f => f s).getD false && !((dueEvents.take k).any fun f => f s)

/-! ## Hardware errors -/

/-- MCBANK: the kind of unit, and its number. -/
def bankWord (kind index : Nat) : Word := BitVec.ofNat 32 (kind * 2 ^ 24 + index % 2 ^ 24)

/-- The functional unit that works on a word (R96, R113, R126, R128): 0 integer ALU, 1 multiplier, 2 divider, 3 FP pipe, 4 iterative
FP unit, 5 address unit, 6 branch unit; none where the spec does not say which. -/
def functionalUnit (w : Word) : Option Nat :=
  let op := (opOf w).toNat
  let sel := bitsNat w 10 7
  let fp := bitsNat w 4 0
  if op = 0x02 then some (if bitsNat w 10 0 < 4 then 1 else 2)
  else if 0x01 ≤ op ∧ op ≤ 0x0C then some 0
  else if 0x0D ≤ op ∧ op ≤ 0x15 then some 6
  else if 0x16 ≤ op ∧ op ≤ 0x21 then some 5
  else if op = 0x22 then (if 3 ≤ sel ∧ sel ≤ 6 then some 5 else none)
  else if op = 0x23 then some 5
  else if op = 0x24 then (if sel = 0 ∨ sel = 2 then some 5 else none)
  else if op = 0x29 then some (if fp = 3 ∨ fp = 4 ∨ 26 ≤ fp then 4 else 3)
  else if op = 0x2A ∨ op = 0x2B then some 3
  else if 0x2C ≤ op ∧ op ≤ 0x30 then some 5
  else none

/-- The checker stage covers the instruction at the pc: envelope arithmetic it does not, ELD and EST it does by their address (R126,
R268). -/
def checkerCovers (s : State) : Bool :=
  match fetchWord s with
  | none => false
  | some w => opOf w != 0x30 || bitsNat w 10 5 == 2 || bitsNat w 10 5 == 3

/-- The number of a unit of a kind: for the checker the functional unit of the instruction at the pc (R128), one of the 7 by a free
word where the spec names none; otherwise by a free word one of the 64 banks, of the 34 array rows, or any entry. -/
def unitNumber (s : State) (src n : Nat) : Nat :=
  match src with
  | 1 => ((fetchWord s).bind functionalUnit).getD (n % 7)
  | 2 => n % 64
  | 4 => n % 34
  | _ => n

/-- The report of a hardware error that the machine itself cannot predict: what the spec leaves open in it is a free value
(log 20). A persistent mismatch of the checker names the instruction, and its syndrome is not 0 (R128); where the checker covers no
instruction, the error is one of storage (R268). -/
def freeCheck (s : State) : MCheck :=
  let w := Config.openWord s.free
  let src := if w.toNat % 6 = 0 then (if checkerCovers s then 1 else 3) else w.toNat % 6 + 1
  let d := Config.openWord (s.free + 2)
  { src := BitVec.ofNat 8 src, uc := true, addrv := src == 1 || w.getLsbD 31
    bank := bankWord src (unitNumber s src (Config.openWord (s.free + 1)).toNat)
    synd := if src = 1 ∧ d = 0 then 1 else d
    addr := if src = 1 then s.core.pc else Config.openWord (s.free + 3) }

/-- The machine check `m` taken (R128, R138, R415). -/
def takeCheck (m : MCheck) (s : State) : State :=
  let again := s.core.csr.sstatus.getLsbD 3
  let t := contain m again (enterMachineCheck m (s.mapCore fun c => { c with mcheck := none, stalled := false }))
  if again then haltAt 5 s.core.pc t else t

/-- MACHINE_CHECK (R127, R128, R138, R415): the pending report is taken, or a hardware error that nothing announced. Which error
it is stays a free value (log 20): one that is corrected, as a mismatch that the re-execution clears, leaves the core
alone (R127). -/
def execMachineCheck (s : State) : Host.Outcome State Fault Refusal :=
  happen (fun s =>
    if !s.runs then s
    else
      match s.core.mcheck with
      | some m => takeCheck m s
      | none =>
        let t := { s with free := s.free + 4 }
        if (Config.openWord s.free).getLsbD 30 then corrected (freeCheck s) t else takeCheck (freeCheck s) t) s

/-- DEBUG_HALT (R132, R139): a request; the core halts at a boundary if SIE.dhie is set, otherwise it stays pending. DESIGN
CHOICE (log 23): a core that is halted already drops it. -/
def execDebugHalt (s : State) : Host.Outcome State Fault Refusal :=
  happen (fun s =>
    if !s.runs then s
    else
      let t := pendSip 3 s
      if takesEvent 1 t then haltAt 3 s.core.pc (takeSip 3 s) else t) s

/-- PHASE_ABORT_INTERRUPT (R131, R138). -/
def execPhaseAbortInterrupt (s : State) : Host.Outcome State Fault Refusal :=
  happen (fun s => if takesEvent 2 s then interruptSupervisor 0x80000004 (takeSip 4 s) else s) s

/-- The launch keeps what the core in focus holds before the entry, whose supervisor CSRs a resume restores (R382). -/
def parkCore (s : State) : State :=
  s.mapMyLaunch fun l => { l with parked := assocSet l.parked (localOf s.core.id) s.core }

/-- PRE_EMPTION_ENTRY (R131, R138). -/
def execPreEmptionEntry (s : State) : Host.Outcome State Fault Refusal :=
  happen (fun s =>
    if takesEvent 3 s then interruptSupervisor 0x80000001 (parkCore (takeSip 1 s)) else s) s

/-- SCAUSE of an escalation (R135). -/
def escalationCause (core : Nat) (c : Core) : Word :=
  BitVec.ofNat 32
    (2 ^ 30 + c.decl.toNat * 2 ^ 29 + core % 16 * 2 ^ 16 + (c.decl && c.ecause.getLsbD 31).toNat * 2 ^ 8
      + c.ecause.toNat % 256)

/-- STEWARD_ESCALATION_ENTRY (R135): the lowest core that waits. -/
def execStewardEscalationEntry (s : State) : Host.Outcome State Fault Refusal :=
  happen (fun s =>
    if takesEvent 4 s then
      match escalating s with
      | [] => s
      | l :: _ =>
        let c := s.coreAt l
        let t := s.setCoreAt l { c with escWaits := false }
        (enterSupervisor (escalationCause l c) c.eval t.core.pc 0 t).mapCore fun c =>
          { c with stalled := false, escServing := true }
    else s) s

/-- The oldest report of the core in focus that `p` picks is delivered; that frees a faulted prediction slot (R251). -/
def takeReportOf (p : Report → Bool) (s : State) : State :=
  match s.core.reports.find? p with
  | none => s
  | some r =>
    report r.cause r.value (s.mapCore fun c =>
      { c with
        reports := removeFirst p c.reports
        slots := match r.slot with
          | some p => c.slots.set p.toNat .reset p.isLt
          | none => c.slots })

/-- The oldest report of the core in focus is delivered. DESIGN CHOICE (log 23): of several reports the oldest comes first, and the
refusals of R284 come after all reports. -/
def takeReport (s : State) : State := takeReportOf (fun _ => true) s

/-- ENGINE_FAULT_REPORT (R129, R134). -/
def execEngineFaultReport (s : State) : Host.Outcome State Fault Refusal :=
  happen (fun s => if takesEvent 5 s then takeReport s else s) s

/-- REFUSAL_REPORT (R284): the oldest refusal, cause 0x0B. -/
def execRefusalReport (s : State) : Host.Outcome State Fault Refusal :=
  happen (fun s =>
    if takesEvent 6 s then
      match s.core.refusals with
      | [] => s
      | v :: rest => report 0x0B v (s.mapCore fun c => { c with refusals := rest })
    else s) s

/-- COMPLETION_INTERRUPT (R131, R132). -/
def execCompletionInterrupt (s : State) : Host.Outcome State Fault Refusal :=
  happen (fun s => if takesEvent 7 s then interruptUser 0x80000002 s else s) s

/-- MESSAGE_ARRIVAL_INTERRUPT (R131, R289). -/
def execMessageArrivalInterrupt (s : State) : Host.Outcome State Fault Refusal :=
  happen (fun s => if takesEvent 8 s then interruptUser 0x80000005 s else s) s

/-! ## Debug controls -/

/-- The halted core in focus is killed with its launch (R137). -/
def debugKill (s : State) : State :=
  match s.unit.launch with
  | none => s.mapCore abandon
  | some id => s.kill id

/-- The halted core in focus leaves its halt by URET's effects (R136). DESIGN CHOICE (log 23): also with inh = 0 and in supervisor
mode, where R143 would refuse the instruction and R137 is silent. -/
def debugUret (s : State) : State := returnUser (s.mapCore fun c => { c with halt := none, escWaits := false })

/-- The halted core in focus resumes at DPC in its privilege level (R136). DESIGN CHOICE (log 23): R109 names no row for it; an
active loop stays active wherever DPC lies, and no count is consumed. -/
def debugGo (s : State) : State :=
  s.mapCore fun c => { c with halt := none, escWaits := false, pc := c.dpc &&& ~~~3#32 }

/-- A write to DCTL (R137): the highest set bit acts, on a halted core only. -/
def writeDctl (v : Word) (s : State) : State :=
  if s.core.halt.isNone then s
  else if v.getLsbD 2 then debugKill s
  else if v.getLsbD 1 then debugUret s
  else if v.getLsbD 0 then debugGo s
  else s

/-- The core of the cluster in focus that a debug window names. -/
def windowCore (s : State) (c : BitVec 4) : Nat := 16 * s.unit.id + c.toNat

/-- DCTL_KILL (R137). -/
def execDctlKill (c : BitVec 4) (s : State) : Host.Outcome State Fault Refusal :=
  happen (fun s => s.at (windowCore s c) (writeDctl 4)) s

/-- DCTL_URET (R137). -/
def execDctlUret (c : BitVec 4) (s : State) : Host.Outcome State Fault Refusal :=
  happen (fun s => s.at (windowCore s c) (writeDctl 2)) s

/-- DCTL_GO (R137). -/
def execDctlGo (c : BitVec 4) (s : State) : Host.Outcome State Fault Refusal :=
  happen (fun s => s.at (windowCore s c) (writeDctl 1)) s

end Sys2Proof.Machine
end

