-- ==== Sys2Proof/Machine/Window.lean ====
section
/-!
DEFINITION. The register windows of a core: network interface (R280), event unit (R308, R310), engine status (R178,
R187, R223, R238), and a steward's cluster-unit registers and debug windows (R136, R162, R409, R418); then whole
loads and stores over every window, and the rows that name an access of the event-unit window.
-/

namespace Sys2Proof.Machine
open Sys2Proof

/-! ## Network interface (R280) -/

/-- A packet of the core in focus waits at its gateway: its tenant has no lane to the target (R388). -/
def egressHeld (s : State) : Bool :=
  s.lightOut.any fun f =>
    f.packet.src == s.core.id && f.lane.isNone && (s.lanesTo f.packet.tenant (pkgOf f.packet.dst)).isEmpty

/-- NISTAT. -/
def nistat (s : State) : Word :=
  BitVec.ofNat 32
    ((egressHeld s).toNat * 2 ^ 31
      + ((s.core.ni.slots.toList.filter fun o => o.isNone).length - s.core.ni.reserved.isSome.toNat) * 2 ^ 24
      + s.core.ni.sent.toNat)

/-- A word of the network-interface window; none at an unlisted offset. -/
def niLoad (s : State) (off : Nat) : Option Word :=
  if off < 0x100 then some (s.core.ni.buf.word off)
  else if off = 0x1000 then some (nistat s)
  else if off = 0x1004 then some (BitVec.ofNat 32 s.core.ni.overflow.length)
  else none

/-- A word stored there: NIBUF takes it, a read-only word ignores it. -/
def niStore (n : NetIf) (off : Nat) (v : Word) : Option NetIf :=
  if off < 0x100 then some { n with buf := n.buf.putWord off v }
  else if off = 0x1000 ∨ off = 0x1004 then some n
  else none

/-! ## Engine status -/

/-- A lock entry's two words (R187). -/
def lockWord (o : Option Lock) (high : Bool) : Word :=
  match o with
  | none => 0
  | some l =>
    if high then
      BitVec.ofNat 32 (2 ^ 31 + l.write.toNat * 2 ^ 30 + l.engine.toNat * 2 ^ 28 + l.last % 2 ^ 18)
    else BitVec.ofNat 32 (l.first % 2 ^ 18)

/-- A status word that only a compute core has. -/
def computeStatus (s : State) (off : Nat) : Word :=
  if off = 0 then mstatusWord s.core.mx
  else if off = 4 then mseqWord s.core.mx
  else if off = 8 then mflagsWord s.core.mx
  else if off = 0xC then s.core.mx.fault
  else if 0xE00 ≤ off ∧ off < 0xE80 then
    lockWord ((s.core.locks[(off - 0xE00) / 8]?).getD none) (off % 8 == 4)
  else if 0xF00 ≤ off ∧ off < 0x1000 then (((s.core.remap[(off - 0xF00) / 4]?).getD 0).setWidth 32)
  else if 0x1000 ≤ off ∧ off < 0x1020 then
    setBit (((s.core.pool[(off - 0x1000) / 4]?).getD 0).setWidth 32) 31 (poolBusy s.core ((off - 0x1000) / 4))
  else 0

/-- A word of the status window; an unlisted offset reads zero (log 17). -/
def statusLoad (s : State) (off : Nat) : Word :=
  if off = 0x10 then cstatusWord s
  else if off = 0x14 then cseqWord s.core.cp
  else if off = 0x18 then s.core.cp.fault
  else if 0x100 ≤ off ∧ off < 0x140 then
    let h := handleOf s ((off - 0x100) / 8)
    if off % 8 = 4 then hhiWord h else hloWord h
  else if s.compute then computeStatus s off
  else 0

/-! ## The event unit (R310) -/

/-- The words of the event-unit window. -/
inductive Port where
  | barw (n : Nat) | grpw (n : Nat) | evw (n : Nat) | mxw (n : Nat) | bgen (n : Nat) | bmem (n : Nat)
  | barr (n : Nat) | evstat (n : Nat) | ggen (n : Nat) | rfaLo | rfaHi | rfsent | rftake | rfttake | rfput
  deriving DecidableEq, Repr

/-- The word at an offset; none where nothing is listed. -/
def portAt (off : Nat) : Option Port :=
  if off < 0x80 then some (.barw (off / 4))
  else if off < 0xC0 then some (.grpw ((off - 0x80) / 4))
  else if off < 0x100 then none
  else if off < 0x180 then some (.evw ((off - 0x100) / 4))
  else if off < 0x200 then some (.mxw ((off - 0x180) / 4))
  else if off < 0x280 then some (.bgen ((off - 0x200) / 4))
  else if off < 0x300 then some (.bmem ((off - 0x280) / 4))
  else if off < 0x380 then some (.barr ((off - 0x300) / 4))
  else if off < 0x400 then some (.evstat ((off - 0x380) / 4))
  else if off < 0x440 then some (.ggen ((off - 0x400) / 4))
  else if off = 0x800 then some .rfaLo
  else if off = 0x804 then some .rfaHi
  else if off = 0x808 then some .rfsent
  else if off = 0x80C then some .rftake
  else if off = 0x810 then some .rfttake
  else if off = 0x814 then some .rfput
  else none

/-- EVSTAT of a line. -/
def evstatWord (e : EvLine) : Word :=
  BitVec.ofNat 32
    (e.owner.isSome.toNat * 2 ^ 31 + e.ovf.toNat * 2 ^ 30 + e.owner.getD 0 * 2 ^ 16 + e.count)

/-- A load of a state word of the event unit into register `d`; the follower of a pair takes what the leader received, and only the
leader's access reaches the unit (R168, R312). -/
def portState (d : Reg) (v : Word) (f : State → State) (s : State) : Run State :=
  match leaderValue s with
  | some r => .ok (s.setX d r.lo)
  | none => .ok ((f s).setX d v)

/-- A load of a word of the event unit into register `d`; `word` is the trap value of cause 0x13. -/
def portLoad (d : Reg) (p : Port) (word : Word) (s : State) : Run State :=
  match p with
  | .barw n => (portBarrier false n s).map fun r => r.2.setX d r.1
  | .grpw n => (portBarrier true n s).map fun r => r.2.setX d r.1
  | .evw n => (evWait n s).map fun r => r.2.setX d r.1
  | .mxw n => (evLock n word s).map fun t => t.setX d 0
  | .bgen n => portState d (barOf s.unit n).gen id s
  | .bmem n => portState d ((barOf s.unit n).members.setWidth 32) id s
  | .barr n => portState d ((barOf s.unit n).arrived.setWidth 32) id s
  | .evstat n => portState d (evstatWord (evOf s.unit n)) (mapEv n fun e => { e with ovf := false }) s
  | .ggen n => portState d (groupOf s n).gen id s
  | .rfaLo => .ok (s.setX d s.core.ni.rfaLo)
  | .rfaHi => .ok (s.setX d s.core.ni.rfaHi)
  | .rfsent => .ok (s.setX d s.core.ni.rfsent)
  | .rftake => portTake d s
  | .rfttake => portTtake d s
  | .rfput => .ok (s.setX d 0)

/-- A store to a word of the event unit: a read-only word ignores it (R6). -/
def portStore (p : Port) (v word : Word) (s : State) : Run State :=
  match p with
  | .evw n => evSigOwn n s
  | .mxw n => evUnlock n word s
  | .rfaLo => .ok (s.mapNi fun n => { n with rfaLo := v })
  | .rfaHi => .ok (s.mapNi fun n => { n with rfaHi := v })
  | .rfsent => .ok (s.mapNi fun n => { n with rfsent := v })
  | .rfput => portPut v s
  | .barw _ | .grpw _ | .bgen _ | .bmem _ | .barr _ | .evstat _ | .ggen _ | .rftake | .rfttake => .ok s

/-! ## Cluster-unit registers of a steward (R162, R409, R418) -/

/-- PREC (R409): the cause of the last abort, and the phase of the launch that holds the cluster in focus. -/
def precWord (s : State) : Word :=
  match s.launch with
  | none => BitVec.ofNat 32 (s.unit.why.toNat * 2 ^ 28)
  | some l =>
    BitVec.ofNat 32
      (s.unit.why.toNat * 2 ^ 28 + (l.ureason != 0).toNat * 2 ^ 27 + l.pkt.replay.toNat * 2 ^ 26 + l.tries % 4 * 2 ^ 24
        + l.ureason % 16 * 2 ^ 20)

/-- A write of PREC.act (R409): 1 aborts and rolls back where R408 allows it, 2 aborts and kills; it is merged into an
abort that is in progress. An answer to the watchdog keeps why = 1. -/
def precAct (v : Nat) (s : State) : State :=
  match s.launch with
  | none => s
  | some l =>
    let why : BitVec 4 := if l.stage = .awaitAct then 1 else 4
    if l.stage = .aborting then s
    else if v = 1 then s.abort l.id why
    else if v = 2 then (setWhy l why s).kill l.id
    else s

/-- A load of a cluster-unit register. -/
def cuLoad (s : State) (off : Nat) : Word :=
  if off = 0 then s.unit.pwdog else if off = 4 then precWord s else s.unit.ftctl

/-- A store to a cluster-unit register. -/
def cuStore (off : Nat) (v : Word) (s : State) : State :=
  if off = 0 then s.mapUnit fun u => { u with pwdog := v }
  else if off = 4 then precAct (bitsNat v 1 0) s
  else s.mapUnit fun u => { u with ftctl := v &&& 0x800000FF }

/-! ## Debug windows (R136) -/

/-- DSTAT. -/
def dstat (c : Core) : Word :=
  match c.halt with
  | none => 0
  | some w => BitVec.ofNat 32 (2 ^ 31 + w.toNat)

/-- A word of a debug window, with the halted core in focus, and what reading it does. -/
def haltedLoad (off : Nat) (s : State) : Word × State :=
  if off < 0x80 then (s.x (BitVec.ofNat 5 (off / 4)), s)
  else if off < 0x100 then (s.f (BitVec.ofNat 5 (off / 4)), s)
  else if off = 0x100 then (s.core.dpc &&& ~~~3#32, s)
  else if off = 0x104 then (dstat s.core, s)
  else if off = 0x108 then (s.core.ecause, s)
  else if off = 0x10C then (s.core.eval, s)
  else if 0x800 ≤ off ∧ off ≤ 0xF0C then
    let n := BitVec.ofNat 12 ((off - 0x800) / 4)
    (csrRead s n, csrTouch n s)
  else (0, s)

/-- A word stored to a debug window, with the halted core in focus. -/
def haltedStore (off : Nat) (v : Word) (s : State) : State :=
  if off < 0x80 then s.setX (BitVec.ofNat 5 (off / 4)) v
  else if off < 0x100 then s.setF (BitVec.ofNat 5 (off / 4)) v
  else if off = 0x100 then s.mapCore fun c => { c with dpc := v &&& ~~~3#32 }
  else if off = 0x110 then writeDctl v s
  else if 0x800 ≤ off ∧ off ≤ 0xF0C then csrWrite (BitVec.ofNat 12 ((off - 0x800) / 4)) v v s
  else s

/-- A load through the steward's debug windows: while the core runs, every register reads zero. -/
def debugLoad (o : Nat) (s : State) : Word × State :=
  let l := windowCore s (BitVec.ofNat 4 (o / 0x1000))
  if (s.coreAt l).halt.isNone then (0, s)
  else ((haltedLoad (o % 0x1000) (s.focus l)).1, s.at l fun t => (haltedLoad (o % 0x1000) t).2)

/-- A store through the steward's debug windows. -/
def debugStore (o : Nat) (v : Word) (s : State) : State :=
  let l := windowCore s (BitVec.ofNat 4 (o / 0x1000))
  if (s.coreAt l).halt.isNone then s else s.at l (haltedStore (o % 0x1000) v)

/-! ## Whole loads and stores (R182 to R184) -/

/-- One word read from a register window that has no port. -/
def wordLoad (ar : Area) (a : Nat) (s : State) : Run (Word × State) :=
  match ar with
  | .ni =>
    match niLoad s (a - 0x800000) with
    | some v => .ok (v, s)
    | none => .error (.trap 5 (BitVec.ofNat 32 a))
  | .status => .ok (statusLoad s (a - 0xA00000), s)
  | .istore => .ok (s.unit.istore.word (a - 0x500000), s)
  | .cu => .ok (cuLoad s (a - 0xB00000), s)
  | .debug => .ok (debugLoad (a - 0xC00000) s)
  | _ => .error (.trap 5 (BitVec.ofNat 32 a))

/-- A trap at one of the words of a wider access has the effective address as its value (R130, R182). -/
def atAddress {α : Type} (a : Nat) (r : Run α) : Run α :=
  match r with
  | .error (.trap c _) => .error (.trap c (BitVec.ofNat 32 a))
  | r => r

/-- `size` bytes loaded at a checked address outside the event unit. -/
def plainLoad (ar : Area) (a size : Nat) (s : State) : Run (Nat × State) :=
  match ar with
  | .w0 => .ok (loadData s ar a size, s)
  | .elem _ => .ok (loadData s ar a size, s)
  | .imem => .ok (s.imemRead (a - 0x400000) size, s)
  | _ =>
    if size = 8 then do
      let (lo, s) ← wordLoad ar a s
      let (hi, s) ← atAddress a (wordLoad ar (a + 4) s)
      return (lo.toNat + 2 ^ 32 * hi.toNat, s)
    else do
      let (v, s) ← wordLoad ar a s
      return (v.toNat, s)

/-- A load by an instruction: checked (R182), its trap value the effective address. -/
def load (x : Access) (a : Word) (s : State) : Run (Nat × State) :=
  match checkAccess s a.toNat x with
  | some c => .error (.trap c a)
  | none => plainLoad (s.area a.toNat) a.toNat x.size s

/-- LW to register `d`: the event unit's ports act and wait (R310). -/
def loadWord (d : Reg) (a word : Word) (s : State) : Run State :=
  match checkAccess s a.toNat ⟨4, false, false⟩ with
  | some c => .error (.trap c a)
  | none =>
    if s.area a.toNat = .event then
      match portAt (a.toNat - 0x900000) with
      | some p => portLoad d p word s
      | none => .error (.trap 5 a)
    else (plainLoad (s.area a.toNat) a.toNat 4 s).map fun r => r.2.setX d (BitVec.ofNat 32 r.1)

/-- One word stored to a register window that has no port. -/
def wordStore (ar : Area) (a : Nat) (v : Word) (s : State) : Run State :=
  match ar with
  | .ni =>
    match niStore s.core.ni (a - 0x800000) v with
    | some n => .ok (s.mapNi fun _ => n)
    | none => .error (.trap 7 (BitVec.ofNat 32 a))
  | .istore => .ok (s.mapUnit fun u => { u with istore := u.istore.putWord (a - 0x500000) v })
  | .cu => .ok (cuStore (a - 0xB00000) v s)
  | .debug => .ok (debugStore (a - 0xC00000) v s)
  | _ => .error (.trap 7 (BitVec.ofNat 32 a))

/-- `size` bytes stored at a checked address outside the event unit; a scratchpad store is signed (R168). -/
def plainStore (ar : Area) (a size v : Nat) (s : State) : Run State :=
  match ar with
  | .w0 => .ok ((storeData s ar a size v).sign (bytesOf 4 a ++ bytesOf size v))
  | .elem _ => .ok ((storeData s ar a size v).sign (bytesOf 4 a ++ bytesOf size v))
  | _ =>
    if size = 8 then do
      let t ← atAddress a (wordStore ar (a + 4) (BitVec.ofNat 32 (v / 2 ^ 32)) s)
      wordStore ar a (BitVec.ofNat 32 v) t
    else wordStore ar a (BitVec.ofNat 32 v) s

/-- A store by an instruction: checked (R182), its trap value the effective address. -/
def store (x : Access) (a : Word) (v : Nat) (s : State) : Run State :=
  match checkAccess s a.toNat x with
  | some c => .error (.trap c a)
  | none => plainStore (s.area a.toNat) a.toNat x.size v s

/-- SW: the event unit's ports act and wait (R310). -/
def storeWord (a v word : Word) (s : State) : Run State :=
  match checkAccess s a.toNat ⟨4, true, false⟩ with
  | some c => .error (.trap c a)
  | none =>
    if s.area a.toNat = .event then
      match portAt (a.toNat - 0x900000) with
      | some p => portStore p v word s
      | none => .error (.trap 7 a)
    else plainStore (s.area a.toNat) a.toNat 4 v.toNat s

/-! ## The rows of the event-unit window -/

/-- The word of the instruction in progress. -/
def ownWord (s : State) : Word := (fetchWord s).getD 0

/-- A load of the event-unit word at an offset, by the instruction at the pc. -/
def portRowLoad (d : Reg) (off : Nat) (s : State) : Host.Outcome State Fault Refusal :=
  .next (conclude s ((loadWord d (BitVec.ofNat 32 (0x900000 + off)) (ownWord s) s).map retire))

/-- A store to the event-unit word at an offset, by the instruction at the pc. -/
def portRowStore (off : Nat) (v : Word) (s : State) : Host.Outcome State Fault Refusal :=
  .next (conclude s ((storeWord (BitVec.ofNat 32 (0x900000 + off)) v (ownWord s) s).map retire))

/-- BARW_LOAD (R310). -/
def execBarwLoad (d : Reg) (n : BitVec 5) (s : State) : Host.Outcome State Fault Refusal :=
  portRowLoad d (4 * n.toNat) s

/-- GRPW_LOAD (R310). -/
def execGrpwLoad (d : Reg) (n : BitVec 4) (s : State) : Host.Outcome State Fault Refusal :=
  portRowLoad d (0x80 + 4 * n.toNat) s

/-- EVW_LOAD (R310). -/
def execEvwLoad (d : Reg) (n : BitVec 5) (s : State) : Host.Outcome State Fault Refusal :=
  portRowLoad d (0x100 + 4 * n.toNat) s

/-- EVW_STORE (R310): the data are ignored. -/
def execEvwStore (n : BitVec 5) (s : State) : Host.Outcome State Fault Refusal :=
  portRowStore (0x100 + 4 * n.toNat) 0 s

/-- MXW_LOAD (R310). -/
def execMxwLoad (d : Reg) (n : BitVec 5) (s : State) : Host.Outcome State Fault Refusal :=
  portRowLoad d (0x180 + 4 * n.toNat) s

/-- MXW_STORE (R310): the data are ignored. -/
def execMxwStore (n : BitVec 5) (s : State) : Host.Outcome State Fault Refusal :=
  portRowStore (0x180 + 4 * n.toNat) 0 s

/-- EVSTAT_READ (R310): the read clears ovf. -/
def execEvstatRead (d : Reg) (n : BitVec 5) (s : State) : Host.Outcome State Fault Refusal :=
  portRowLoad d (0x380 + 4 * n.toNat) s

/-- RFTAKE_LOAD (R308). -/
def execRftakeLoad (d : Reg) (s : State) : Host.Outcome State Fault Refusal :=
  portRowLoad d 0x80C s

/-- RFTTAKE_LOAD (R308). -/
def execRfttakeLoad (d : Reg) (s : State) : Host.Outcome State Fault Refusal :=
  portRowLoad d 0x810 s

/-- RFPUT_STORE (R308): the value of register `b`. -/
def execRfputStore (b : Reg) (s : State) : Host.Outcome State Fault Refusal :=
  portRowStore 0x814 (s.x b) s

end Sys2Proof.Machine
end

