-- ==== Sys2Proof/Machine/Phase.lean ====
section
/-!
DEFINITION. Phases: movement plans (R242), closure (R160), completion (R354, R356), the watchdog and phase aborts (R162,
R408, R409), and rollback (R32, R163, R298, R410).
-/

namespace Sys2Proof.Machine
open Sys2Proof

/-! ## Movement plans (R242) -/

/-- An entry of a movement plan. -/
structure PlanEntry where
  phase : Word
  kind : Nat
  reserved : Nat
  mcore : Nat
  hbm : DWord
  spad : DWord
  rows : Nat
  bytes : Nat
  hstr : Nat
  sstr : Nat
  deriving DecidableEq, Repr

/-- An entry from its eight words. -/
def planEntry (ws : List Word) : PlanEntry :=
  let w (i : Nat) : Word := pword ws i
  { phase := w 0, kind := bitsNat (w 1) 31 30, reserved := bitsNat (w 1) 29 10, mcore := bitsNat (w 1) 9 0,
    hbm := pairOf (w 2) (w 3), spad := pairOf (w 4) (w 5), rows := bitsNat (w 6) 31 16 + 1,
    bytes := bitsNat (w 6) 15 0 + 1, hstr := bitsNat (w 7) 31 16, sstr := bitsNat (w 7) 15 0 }

/-- How a plan ends early: it waits for the fault queue, or a fault ends the launch. -/
inductive PlanErr where
  | waits (s : State)
  | ends (s : State)
  deriving DecidableEq, Repr

/-- A failed access of a plan entry. -/
def planErr : VErr → PlanErr
  | .waits s => .waits s
  | .fault _ s => .ends s
  | .poison _ s => .ends s

/-- The memory core that runs an entry, as a reader or writer for its launch. -/
def planWho (s : State) (l : Launch) (e : PlanEntry) (kind : BitVec 4) : Who :=
  { tenant := l.fn.toNat, kind := kind, src := s.endpoint (0x4800 + e.mcore), launch := l.id, phase := l.phase, part := 0 }

/-- Row `r` of an entry: its addresses in HBM and in W0 of its target core, of this package or another; none where the entry is at
fault: an access that its target refuses, also on a locked range (R24, R185). -/
def planRow (s : State) (l : Launch) (e : PlanEntry) (r : Nat) : Option (DWord × DWord) :=
  let h := e.hbm + BitVec.ofNat 64 (64 * e.hstr * r)
  let p := e.spad + BitVec.ofNat 64 (e.sstr * r)
  let ok := faValid h && faRegion h == 0 && faValid p && faRegion p == 1 &&
    decide (faLocal p + e.bytes ≤ 0x40000) && decide (faVirtual h + e.bytes ≤ 2 ^ 41)
  let core := localOf (faEndpoint p)
  let refused := faPkg p == s.pkg &&
    (!admits s (s.endpoint (0x4800 + e.mcore)) l.fn core (faLocal p) e.bytes ||
      (s.coreAt core).lockHit (faLocal p) e.bytes (e.kind == 0))
  if ok && !refused then some (h, p) else none

/-- Bytes put into W0 of the core in focus between two phases, where no journal is kept. -/
def w0Load (a : Nat) : List Byte → Core → Core
  | [], c => c
  | b :: l, c => w0Load (a + 1) l { c with sp := c.sp.set (c.phys a) b }

/-- A row read in another package; a refusal there is a fault of the entry. -/
def peerBytes (r : RowEnd × State) : Except PlanErr (List Byte × State) :=
  match r.1 with
  | .bytes l => .ok (l, r.2)
  | .code _ => .error (.ends r.2)
  | .xlate _ => .error (.ends r.2)

/-- A row sent to another package, which is at fault where that package cannot be reached. -/
def peerPlan (s : State) (o : Option State) : Except PlanErr State :=
  match o with
  | some a => .ok a
  | none => .error (.ends s)

/-- The bytes of a load entry put into W0 of the core in focus: a member of the launch stands between two phases, with no journal; on a
core of another gang they are a write from outside, journalled there (R407, R408 code 5). -/
def loadInto (l : Launch) (src : BitVec 21) (a : Nat) (bs : List Byte) (s : State) : State :=
  if l.members.contains (localOf s.core.id) then s.mapCore (w0Load a bs) else noteIncoming src (s.w0Put a bs)

/-- A row of a load entry. -/
def loadRow (l : Launch) (e : PlanEntry) (s : State) (r : Nat) : Except PlanErr State :=
  match planRow s l e r with
  | none => .error (.ends s)
  | some (h, p) => do
    let w := planWho s l e 1
    let (bs, t) ← (if faPkg h = s.pkg then (readVirtual w (faVirtual h) e.bytes s).mapError planErr else peerBytes (peerRead h e.bytes s))
    if faPkg p ≠ t.pkg then peerPlan t (peerWrite w.src (some l.id) r l.fn p bs t)
    else if t.shut (localOf (faEndpoint p)) w.src then .error (.waits t)
    else return t.at (localOf (faEndpoint p)) (loadInto l w.src (faLocal p) bs)

/-- A row of a store entry. -/
def storeRow (l : Launch) (e : PlanEntry) (s : State) (r : Nat) : Except PlanErr State :=
  match planRow s l e r with
  | none => .error (.ends s)
  | some (h, p) => do
    let w := planWho s l e 2
    let core := localOf (faEndpoint p)
    let (bs, t) ← (if faPkg p ≠ s.pkg then peerBytes (peerRead p e.bytes s)
      else if s.shut core w.src then .error (.waits s)
      else return ((s.coreAt core).w0Bytes (faLocal p) e.bytes, s))
    if faPkg h ≠ t.pkg then peerPlan t (peerWrite w.src (some l.id) r l.fn h bs t)
    else (writeVirtual w (some l.id) (faVirtual h) bs t).mapError planErr

/-- The entries of one kind that belong to the phase, run in order; `fuel` bounds the plan to the tenant's space. -/
def runPlan (l : Launch) (kind : Nat) : Nat → Nat → State → Except PlanErr State
  | 0, _, s => .error (.ends s)
  | fuel + 1, va, s =>
    let w : Who := { (planWho s l ⟨0, 0, 0, 0, 0, 0, 0, 0, 0, 0⟩ 1) with part := 1 }
    match readVirtual w va 32 s with
    | .error x => .error (planErr x)
    | .ok (bs, t) =>
      let e := planEntry (wordsOf 8 bs)
      if e.kind = 3 ∨ e.reserved ≠ 0 then .error (.ends t)
      else if e.kind = 2 then .ok t
      else if e.kind = kind ∧ (e.phase = l.phase ∨ e.phase = 0xFFFFFFFF) then
        if 768 ≤ e.mcore then .error (.ends t)
        else do
          let t ← (List.range e.rows).foldlM (if kind = 0 then loadRow l e else storeRow l e) t
          runPlan l kind fuel (va + 32) t
      else runPlan l kind fuel (va + 32) t

/-- The plan of a launch run for one kind of entry; a fault ends the launch. -/
def planRun (l : Launch) (kind : Nat) (done : Launch → Launch) (s : State) : State :=
  match runPlan l kind (2 ^ 36) l.plan s with
  | .ok t => t.mapLaunch l.id done
  | .error (.waits t) => t
  | .error (.ends t) => t.kill l.id

/-- MOVEMENT_PLAN_LOAD (R242): the load entries of the phase, before its dispatch. -/
def execMovementPlanLoad (l : BitVec 32) (s : State) : Host.Outcome State Fault Refusal :=
  launchStep (fun s =>
    match s.launch? l with
    | none => s
    | some g =>
      if g.stage = .running ∧ g.loaded = false then planRun g 0 (fun g => { g with loaded := true }) s else s) s

/-! ## Closure (R160) -/

/-- A member core has nothing under way: no point, no engine operation, no outstanding access (R160, R260). -/
def coreQuiet (s : State) (l : Nat) : Bool :=
  let c := s.coreAt l
  c.point.isNone && c.mx.queue.isEmpty && c.cp.queue.isEmpty && c.seqs.isEmpty &&
    ((List.range 8).all fun p => (slotAt c p).state != .exposing || slotFaulted c p) &&
    !(outstanding (s.focus l) 2 true true)

/-- The first three conditions of R160. -/
def workDone (s : State) (l : Launch) : Bool := l.loaded && !l.anyReady && l.members.all (coreQuiet s)

/-- MOVEMENT_PLAN_STORE (R242): the store entries of the phase. -/
def execMovementPlanStore (l : BitVec 32) (s : State) : Host.Outcome State Fault Refusal :=
  launchStep (fun s =>
    match s.launch? l with
    | none => s
    | some g =>
      if g.stage = .running ∧ workDone s g ∧ g.stored = false then planRun g 1 (fun g => { g with stored := true }) s
      else s) s

/-- A cluster unit at the start of a phase: the copies of R300 and R316, and the count and limit of R162. -/
def phaseUnit (u : Cluster) : Cluster :=
  { u with syncSnap := u.sync, barsSnap := u.bars, evsSnap := u.evs, elapsed := 0, limit := u.pwdog }

/-- A member core at closure: slots closed, PHASE set, a new journal and snapshot (R160, R260, R407). -/
def closeCore (phase : Word) (s : State) : State :=
  (closeSlots s).mapCore fun c => phaseSnapshot { c with csr := { c.csr with phase := phase } }

/-- The launch at closure (R160, R409). -/
def closeLaunch (l : Launch) : Launch :=
  { l with
    lines := l.lines.map fun e => { e with hs := e.h, hold := false }
    phase := l.phase + 1, tries := 0, cleared := 0, ureason := 0, direct := false, groupsSnap := l.groups
    loaded := l.plan == 0, stored := l.plan == 0
    stage := if l.finished then .closed else l.stage }

/-- The effects of a closure, in the order of R160. -/
def closePhase (l : Launch) (s : State) : State :=
  let s1 := commitAll l.fn l.id (fun _ => true) s
  let s2 := { s1 with sliceJrn := s1.sliceJrn.filter fun e => e.launch != l.id }
  let s3 := (List.range l.cleared).foldl (fun t _ => t.logError .correctable 0) s2
  let s4 := (s3.onCores l.members (closeCore (l.phase + 1))).onUnits l.gang phaseUnit
  s4.mapLaunch l.id closeLaunch

/-- PHASE_CLOSURE (R160): the plan is done once what it sent to other packages has been accepted there. -/
def execPhaseClosure (l : BitVec 32) (s : State) : Host.Outcome State Fault Refusal :=
  launchStep (fun s =>
    match s.launch? l with
    | none => s
    | some g => if g.stage = .running ∧ workDone s g ∧ g.stored = true ∧ planAway s l = false then closePhase g s else s) s

/-! ## Completion (R354, R356) -/

/-- A counter slot decremented by a completion of a queue: at 0 it stays, and the queue records an underflow (R354). -/
def decrement (t q : Nat) (s : State) (slot : Nat) : State :=
  let v := (s.fn t).counter slot
  if v = 0 then s.mapQueue t q fun x => { x with und := true, undCount := min (x.undCount + 1) 0xFFFF }
  else s.mapFn t fun h => { h with counters := assocSet h.counters slot (v - 1) }

/-- The signal could not be written. -/
def signalFailed (t q : Nat) (s : State) : State :=
  (s.mapQueue t q fun x => { x with sigf := true }).raiseMsix t 0

/-- Successors, interrupt and the end of a complete launch. -/
def finishLaunch (l : Launch) (s : State) : State :=
  let t := l.fn.toNat
  let q := l.queue.toNat
  let s1 := l.pkt.succ.foldl (decrement t q) s
  let s2 := if (s1.queue t q).cie then s1.raiseMsix t 2 else s1
  (freeClusters l s2).dropLaunch l.id

/-- The requests of the gang's cores are performed, in other packages too: its writes are visible at system scope (R356). Those to this
package were performed at the closure. -/
def visible (s : State) (l : Launch) : Bool := l.members.all fun m => released (s.focus m) 3

/-- LAUNCH_COMPLETION (R356): with rel it waits for visibility; a signal that meets a replayable fault makes it wait. -/
def execLaunchCompletion (l : BitVec 32) (s : State) : Host.Outcome State Fault Refusal :=
  launchStep (fun s =>
    match s.launch? l with
    | none => s
    | some g =>
      let t := g.fn.toNat
      let q := g.queue.toNat
      if g.stage ≠ .closed || (g.pkt.rel && !visible s g) then s
      else if g.pkt.sig = 0 then finishLaunch g s
      else
        let w : Who := { tenant := t, kind := 2, src := s.endpoint 0x7FFF, launch := g.id, phase := g.phase, part := q }
        match writeVirtual w none g.pkt.sig (bytesOf 4 g.pkt.sval.toNat) s with
        | .ok u => finishLaunch g u
        | .error (.waits u) => u
        | .error (.fault _ u) => finishLaunch g (signalFailed t q u)
        | .error (.poison _ u) => finishLaunch g (signalFailed t q u)) s

/-! ## Watchdog and recovery control (R162, R409) -/

/-- A request of the gang waits on the fault queue, so that the watchdog does not count (R374). -/
def gangWaits (s : State) (l : Launch) : Bool :=
  let h := s.fn l.fn.toNat
  let mine (r : FRec) : Bool :=
    !r.answered && (r.launch == l.id || r.reqs.any (s.ofGang l) || r.asks.any fun a => s.member l a.2.1)
  h.records.any mine || h.fqwait.any mine

/-- The limit of the current phase in cycles (R162). -/
def watchLimit (u : Cluster) : Nat := if u.limit = 0 then 2 ^ 32 else u.limit.toNat

/-- PHASE_WATCHDOG_EXPIRY (R162, R409), in the cluster in focus: every core of the gang gets the phase abort. -/
def execPhaseWatchdogExpiry (s : State) : Host.Outcome State Fault Refusal :=
  launchStep (fun s =>
    match s.launch with
    | none => s
    | some l =>
      if l.stage = .running ∧ watchLimit s.unit ≤ s.unit.elapsed ∧ gangWaits s l = false then
        signalAbort l ((setWhy l 1 s).mapLaunch l.id fun l => { l with stage := .awaitAct })
      else s) s

/-- PREC_ACT_ROLLBACK (R409): PREC.act = 1, written by the steward of the cluster in focus. -/
def execPrecActRollback (s : State) : Host.Outcome State Fault Refusal := launchStep (precAct 1) s

/-- PREC_ACT_KILL (R409): PREC.act = 2. -/
def execPrecActKill (s : State) : Host.Outcome State Fault Refusal := launchStep (precAct 2) s

/-- PREC_ACT_TIMEOUT (R409): no act came within 2^20 cycles of a watchdog abort. -/
def execPrecActTimeout (s : State) : Host.Outcome State Fault Refusal :=
  launchStep (fun s =>
    match s.launch with
    | none => s
    | some l => if l.stage = .awaitAct then s.kill l.id else s) s

/-! ## Rollback (R163, R410) -/

/-- A member has stopped at a boundary for the abort: it has taken the interrupt, or runs no point, or is halted. -/
def abortStopped (s : State) (l : Nat) : Bool :=
  let c := s.coreAt l
  !c.csr.sip.getLsbD 4 || c.point.isNone || c.halt.isSome

/-- A journalled word of a home slice restored, its block's poison cleared. -/
def restoreWord (s : State) (e : SliceEnt) : State :=
  ({ s with hbm := s.hbm.put e.pa (bytesOf 4 e.old.toNat) }).mapBlock (blockOf e.pa) fun m =>
    { m with poison := false, err := .clean }

/-- The home slices' journals of a launch written back, the newest entry first. -/
def restoreSlices (id : Word) (s : State) : State :=
  let es := s.sliceJrn.filter fun e => e.launch == id
  let t := es.foldl restoreWord s
  { t with sliceJrn := t.sliceJrn.filter fun e => e.launch != id }

/-- A journal line written back with its full/empty bits. -/
def restoreLine (c : Core) (j : JLine) : Core :=
  { w0Load j.line j.bytes c with
    empty := j.empty.foldl insertNat (c.empty.filter fun w => w < j.line / 4 || j.line / 4 + 64 ≤ w) }

/-- A core at rollback: its journal, its phase-start snapshot, its ring and overflow area (R32, R298, R407, R410). Nothing is left of the
save of a pre-emption that the abort met: a message in its spill ring was sent by a member in the phase, since one from outside makes the
phase unreplayable. -/
def restoreCore (c : Core) : Core :=
  let d := c.jrn.lines.foldl restoreLine c
  let o := d.csr
  let p := d.jrn.csr
  { d with
    hnd := d.jrn.hnd, tags := [], jrn := { d.jrn with lines := [] }, handlerEnded := false, blockSaved := false
    csr := { o with
      ctxsaved := false, pthresh := p.pthresh, etol := p.etol, ectl := p.ectl, estat := p.estat, mrcfg := p.mrcfg, cfgerr := p.cfgerr
      utvec := p.utvec, ucause := p.ucause, uval := p.uval, uepc := p.uepc, ustatus := p.ustatus, uie := p.uie
      uip := p.uip }
    mx := { d.mx with active := .reset, shadow := .reset, acc := [] }
    ni := { d.ni with
      wr := d.jrn.wr, rd := d.jrn.rd, ringCfg := d.jrn.ringCfg, overflow := d.jrn.overflow, ovfAt := d.jrn.ovfAt
      ovf := !d.jrn.overflow.isEmpty, ovfFreed := 0, spill := [] } }

/-- An event line at rollback: its phase-start state; the waits of the gang's cores are abandoned, the steward's stays. -/
def restoreEv (snap now : EvLine) : EvLine :=
  { snap with waiters := now.waiters.filter (· == 16), lockers := now.lockers.filter (· == 16) }

/-- A cluster unit at rollback (R300, R316, R410). -/
def restoreUnit (u : Cluster) : Cluster :=
  { u with sync := u.syncSnap, bars := u.barsSnap, evs := Vector.ofFn fun i => restoreEv u.evsSnap[i] u.evs[i],
           elapsed := 0, limit := u.pwdog }

/-- The launch at rollback: the frontier at its start heights, one more try (R163, R409, R410); an error that it clears is counted (R403). -/
def restoreLaunch (l : Launch) : Launch :=
  { l with
    stage := .running, lines := l.lines.map fun e => { e with h := e.hs, hold := false }
    groups := l.groupsSnap, tries := l.tries + 1, cleared := l.cleared + (l.why == 2 || l.why == 3).toNat, stored := l.plan == 0, parked := [], parkedUnits := [] }

/-- The steps of R410. -/
def rollBack (l : Launch) (s : State) : State :=
  let s1 := abandonGang l s
  let s2 := { s1 with commit := s1.commit.filter fun h => h.launch != l.id }
  let s3 := restoreSlices l.id s2
  let s4 := s3.onCores l.members fun t => t.mapCore restoreCore
  let s5 := (s4.onUnits l.gang restoreUnit).mapLaunch l.id restoreLaunch
  if l.preempt then requestPreemption l.id s5 else s5

/-- PHASE_ROLLBACK (R410), unless the phase became unreplayable meanwhile (R298, R408). -/
def execPhaseRollback (l : BitVec 32) (s : State) : Host.Outcome State Fault Refusal :=
  launchStep (fun s =>
    match s.launch? l with
    | none => s
    | some g =>
      if g.stage = .aborting ∧ g.members.all (abortStopped s) then (if g.canRollBack then rollBack g s else s.kill l) else s) s

end Sys2Proof.Machine
end

