-- ==== Sys2Proof/Machine/Operands.lean ====
section
/-!
DEFINITION. The operand forms of the f registers: a kept value, or an element of the stream mapped to it
(R28, R112, R195, R196, R201, R202), and the stall of R205.
-/

namespace Sys2Proof.Machine
open Sys2Proof

/-- A stream access that fails: the register, the code of R196 (0 for the range-lock hit of a scalar
instruction) and the element address, if the fault has one. -/
structure SFault where
  reg : Reg
  code : Nat
  addr : Option Word
  deriving DecidableEq, Repr

/-- A computation over f registers that a stream fault may stop. -/
abbrev FRun (α : Type) := Except SFault α

/-- A stream is mapped to `r` and acts: user mode, no handler running (R28, R202). -/
def State.streamOn (s : State) (r : Reg) : Bool :=
  s.compute && s.inUser && !s.inHandler && ((s.core.streams[r.toNat]?).map (fun t => t.mapped)).getD false

/-- Stream `r`. -/
def State.stream (s : State) (r : Reg) : Stream := (s.core.streams[r.toNat]?).getD .reset

/-- Stream `r` changed. -/
def State.mapStream (s : State) (r : Reg) (f : Stream → Stream) : State :=
  s.mapCore fun c => { c with streams := vmod c.streams r.toNat f }

/-- ctl.dir: a write stream. -/
def StreamDesc.write (d : StreamDesc) : Bool := d.ctl.getLsbD 0
/-- ctl.ndim. -/
def StreamDesc.ndim (d : StreamDesc) : Nat := bitsNat d.ctl 2 1 + 1
/-- ctl.indirect. -/
def StreamDesc.indirect (d : StreamDesc) : Bool := d.ctl.getLsbD 3
/-- count_i; a dimension that is absent counts 1. -/
def StreamDesc.countOf (d : StreamDesc) (i : Nat) : Nat := if i < d.ndim then ((d.count[i]?).getD 0).toNat else 1
/-- stride_i. -/
def StreamDesc.strideOf (d : StreamDesc) (i : Nat) : Word := (d.stride[i]?).getD 0
/-- The number of elements. -/
def StreamDesc.total (d : StreamDesc) : Nat := d.countOf 0 * d.countOf 1 * d.countOf 2 * d.countOf 3

/-- The address of element `pos` before an index word is added, and with its dimension-0 step when the stream is
not indirect (R195). -/
def StreamDesc.affine (d : StreamDesc) (pos : Nat) : Word :=
  let i0 := pos % d.countOf 0
  let p1 := pos / d.countOf 0
  let i1 := p1 % d.countOf 1
  let p2 := p1 / d.countOf 1
  let i2 := p2 % d.countOf 2
  let i3 := p2 / d.countOf 2
  let off (i n : Nat) : Word := if i < d.ndim then BitVec.ofNat 32 n * d.strideOf i else 0
  d.base + off 1 i1 + off 2 i2 + off 3 i3 + (if d.indirect then 0 else off 0 i0)

/-- The address of element `pos`; the index word of an indirect stream is read through W0 (R195, code 5). -/
def elementAddr (s : State) (r : Reg) (d : StreamDesc) (pos : Nat) : FRun Word :=
  if d.indirect then
    let ia := d.ibase + BitVec.ofNat 32 (4 * pos)
    if ia.toNat < 0x40000 ∧ checkAccess s ia.toNat ⟨4, false, false⟩ = none then
      .ok (d.affine pos + (s.core.w0Word ia.toNat <<< bitsNat d.shift 4 0))
    else .error ⟨r, 5, none⟩
  else .ok (d.affine pos)

/-- The next element of stream `r`, checked (R195, R196): its address. `entry`: for a sequencer entry. DESIGN CHOICE (log 23): an
address outside W0 to W5 fails with code 1, also where it lies in a register window that a load or store may use. -/
def nextElement (s : State) (r : Reg) (entry store : Bool) : FRun Word :=
  let t := s.stream r
  if t.snap.write != store then .error ⟨r, 3, none⟩
  else if t.snap.total ≤ t.pos then .error ⟨r, 2, none⟩
  else
    match elementAddr s r t.snap t.pos with
    | .error e => .error e
    | .ok a =>
      let inWindow : Bool := match s.area a.toNat with
        | .w0 => true
        | .elem _ => true
        | _ => false
      if !inWindow then .error ⟨r, 1, some a⟩
      else
        match checkAccess s a.toNat ⟨4, store, false⟩ with
        | none => .ok a
        | some 10 => .error ⟨r, if entry then 6 else 0, some a⟩
        | some _ => .error ⟨r, 1, some a⟩

/-- The width in bits of an element of window `k` (R180). -/
def elemBits (k : Nat) : Nat :=
  match k with
  | 1 => 16
  | 2 => 16
  | 4 => 4
  | _ => 8

/-- The bits at a window address, as an element of the window of the stream's base reads them (R195): the base's window decodes
them, wherever the address lies (log 14). DESIGN CHOICE (log 14): where the base lies in no window of R195, the bits are the value. -/
def streamLoad (s : State) (base a : Nat) : Word :=
  let ar := s.area a
  if ar = s.area base then BitVec.ofNat 32 (loadData s ar a 4)
  else
    let raw := match ar with
      | .elem k => s.core.rawElem k ((a - elemBase k) / 4)
      | _ => s.core.w0Read a 4
    match s.area base with
    | .elem k => elemIn k (raw % 2 ^ elemBits k)
    | _ => BitVec.ofNat 32 raw

/-- A word stored at a window address as the window of the stream's base encodes it. -/
def streamStore (base a : Nat) (v : Word) (s : State) : State :=
  let ar := s.area a
  if ar = s.area base then storeData s ar a 4 v.toNat
  else
    let raw := match s.area base with
      | .elem k => elemOut k v
      | _ => v.toNat
    match ar with
    | .elem k => s.setRaw k ((a - elemBase k) / 4) (raw % 2 ^ elemBits k)
    | _ => s.w0Write a 4 raw

/-- F[r] read: the next element of a mapped stream, or the register. -/
def takeF (entry : Bool) (r : Reg) (s : State) : FRun (Word × State) :=
  if s.streamOn r then
    match nextElement s r entry false with
    | .error e => .error e
    | .ok a => .ok (streamLoad s (s.stream r).snap.base.toNat a.toNat, s.mapStream r fun t => { t with pos := t.pos + 1 })
  else .ok (s.f r, s)

/-- F[r] written: one element appended to a mapped stream, which is signed as a store (R168, R201), or the register. -/
def putF (entry : Bool) (r : Reg) (v : Word) (s : State) : FRun State :=
  if s.streamOn r then
    match nextElement s r entry true with
    | .error e => .error e
    | .ok a =>
      .ok (((streamStore (s.stream r).snap.base.toNat a.toNat v s).sign (bytesOf 4 a.toNat ++ bytesOf 4 v.toNat)).mapStream r
        fun t => { t with pos := t.pos + 1 })
  else .ok (s.setF r v)

/-- A fault recorded with its stream; an address the fault does not have is a free value (log 14). -/
def recordFault (e : SFault) (s : State) : State :=
  if e.code = 0 then s
  else
    let t := s.mapStream e.reg fun t =>
      { t with fcode := BitVec.ofNat 4 e.code, faddr := e.addr.getD (Config.openWord s.free) }
    if e.addr.isNone then t.draw else t

/-- The trap of a scalar instruction that a stream fault stops: no other effect (R112, R196). -/
def streamTrap (s : State) (e : SFault) : Stop :=
  if e.code = 0 then .trap 10 (e.addr.getD 0)
  else
    .trapIn 12 (BitVec.ofNat 32 (e.code * 2 ^ 24) ||| (s.stream e.reg).seq.setWidth 32) (recordFault e s)

/-- The f registers that a loop body instruction names. -/
def fRegs : Instr → List Reg
  | .fadd d a b _ => [d, a, b]
  | .fsub d a b _ => [d, a, b]
  | .fmul d a b _ => [d, a, b]
  | .fdiv d a b _ => [d, a, b]
  | .fsqrt d a _ => [d, a]
  | .fmin d a b => [d, a, b]
  | .fmax d a b => [d, a, b]
  | .fminp d a b => [d, a, b]
  | .fmaxp d a b => [d, a, b]
  | .fsgnj d a b => [d, a, b]
  | .fsgnjn d a b => [d, a, b]
  | .fsgnjx d a b => [d, a, b]
  | .fcvtSBh d a => [d, a]
  | .fcvtBhS d a _ => [d, a]
  | .fcvtSHh d a => [d, a]
  | .fcvtHhS d a _ => [d, a]
  | .fexp2 d a _ => [d, a]
  | .flog2 d a _ => [d, a]
  | .frcp d a _ => [d, a]
  | .frsq d a _ => [d, a]
  | .ftanh d a _ => [d, a]
  | .fsigm d a _ => [d, a]
  | .fma d a b c _ => [d, a, b, c]
  | .fms d a b c _ => [d, a, b, c]
  | .fnma d a b c _ => [d, a, b, c]
  | .fnms d a b c _ => [d, a, b, c]
  | .hadd2 d a b _ => [d, a, b]
  | .hmul2 d a b _ => [d, a, b]
  | .hfma2 d a b _ => [d, a, b]
  | .hmax2 d a b => [d, a, b]
  | .iaddF d a b => [d, a, b]
  | .isubF d a b => [d, a, b]
  | .iandF d a b => [d, a, b]
  | .iorF d a b => [d, a, b]
  | .ixorF d a b => [d, a, b]
  | .isllF d a b => [d, a, b]
  | .isrlF d a b => [d, a, b]
  | .iselF d a b => [d, a, b]
  | .icmpltF d a b => [d, a, b]
  | .icmpeqF d a b => [d, a, b]
  | _ => []

/-- A word of a pushed loop names f register `r`. -/
def wordNames (r : Reg) (w : Word) : Bool :=
  match decode w with
  | .ok i => (fRegs i).contains r
  | .error _ => false

/-- A W0 span that holds every byte which the elements of a descriptor touch, and their index words: all of W0 where the stream is
indirect, wraps around the address space, or spans areas (R195). -/
def streamBox (s : State) (d : StreamDesc) : Nat × Nat :=
  let ends := (List.range d.ndim).foldl (fun (p : Int × Int) i =>
    let n := ((d.countOf i : Int) - 1) * (d.strideOf i).toInt
    (p.1 + min 0 n, p.2 + max 0 n)) ((d.base.toNat : Int), (d.base.toNat : Int) + 4)
  let lo := ends.1.toNat
  let hi := ends.2.toNat
  if d.indirect || decide (ends.1 < 0) || decide (2 ^ 32 < hi) || s.area lo != s.area (hi - 1) then (0, 0x40000)
  else w0Span (s.area lo) lo (hi - lo + 3)

/-- The spans of the write streams that a pushed loop works on; with `all`, of its read streams too. -/
def loopSpans (s : State) (q : SeqEntry) (all : Bool) : List (Nat × Nat) :=
  if q.streams then
    (List.range 6).filterMap fun k =>
      let r := BitVec.ofNat 5 k
      let t := s.stream r
      if t.mapped && (all || t.snap.write) && q.body.any (wordNames r) then some (streamBox s t.snap) else none
  else []

/-- A pending loop reads or writes one of the registers (R205). -/
def State.fBusy (s : State) (rs : List Reg) : Bool :=
  s.core.seqs.any fun q => q.body.any fun w => rs.any fun r => wordNames r w

/-- An instruction that names f registers and is no loop body: it waits for pending loops (R205), its stream
faults trap (R112), and its flags merge at retirement (R36). -/
def performF (i : Instr) (legal : Bool) (rs : List Reg) (f : State → FRun (State × Flags)) (s : State) :
    Host.Outcome State Fault Refusal :=
  perform i legal (fun s =>
    if s.fBusy rs then .error (.wait s)
    else
      match f s with
      | .error e => .error (streamTrap s e)
      | .ok (t, fl) => .ok (t.addFlags fl)) s

/-- F[d] := op (F[a]). -/
def f1 (entry : Bool) (d a : Reg) (op : Word → Word × Flags) (s : State) : FRun (State × Flags) := do
  let (va, s) ← takeF entry a s
  let r := op va
  let s ← putF entry d r.1 s
  return (s, r.2)

/-- F[d] := op (F[a], F[b]), read in the order of R112. -/
def f2 (entry : Bool) (d a b : Reg) (op : Word → Word → Word × Flags) (s : State) : FRun (State × Flags) := do
  let (va, s) ← takeF entry a s
  let (vb, s) ← takeF entry b s
  let r := op va vb
  let s ← putF entry d r.1 s
  return (s, r.2)

/-- F[d] := op (F[d], F[a], F[b]): rd is read first (R112). -/
def f2d (entry : Bool) (d a b : Reg) (op : Word → Word → Word → Word × Flags) (s : State) :
    FRun (State × Flags) := do
  let (vd, s) ← takeF entry d s
  let (va, s) ← takeF entry a s
  let (vb, s) ← takeF entry b s
  let r := op vd va vb
  let s ← putF entry d r.1 s
  return (s, r.2)

/-- F[d] := op (F[a], F[b], F[c]). -/
def f3 (entry : Bool) (d a b c : Reg) (op : Word → Word → Word → Word × Flags) (s : State) :
    FRun (State × Flags) := do
  let (va, s) ← takeF entry a s
  let (vb, s) ← takeF entry b s
  let (vc, s) ← takeF entry c s
  let r := op va vb vc
  let s ← putF entry d r.1 s
  return (s, r.2)

/-- X[d] := op (F[a]). -/
def fx1 (d a : Reg) (op : Word → Word × Flags) (s : State) : FRun (State × Flags) := do
  let (va, s) ← takeF false a s
  let r := op va
  return (s.setX d r.1, r.2)

/-- X[d] := op (F[a], F[b]). -/
def fx2 (d a b : Reg) (op : Word → Word → Word × Flags) (s : State) : FRun (State × Flags) := do
  let (va, s) ← takeF false a s
  let (vb, s) ← takeF false b s
  let r := op va vb
  return (s.setX d r.1, r.2)

/-- F[d] := op (X[a]). -/
def xf1 (d a : Reg) (op : Word → Word × Flags) (s : State) : FRun (State × Flags) := do
  let r := op (s.x a)
  let s ← putF false d r.1 s
  return (s, r.2)

end Sys2Proof.Machine
end

