-- ==== Sys2Proof/Machine/Special.lean ====
section
/-!
DEFINITION. The special functions of R122. FRCP and FRSQ are exact before the rounding. The other four are
computed in fixed point with 256 fraction bits, and every inexact result is rounded as a value strictly between
two of those; that no argument lies closer to a rounding boundary than the error is PRESUMED (log 8).
-/

namespace Sys2Proof.Machine

/-- One in fixed point. -/
def one256 : Nat := 2 ^ 256
/-- ln 2 in fixed point, rounded down. -/
def ln2F : Nat := 80260960185991308862233904206310070533990667611589946606122867505419956976171
/-- 1 / ln 2 in fixed point, rounded down. -/
def log2eF : Nat := 167052672916848388242985626561247531987276682633131050150846402744536260568207

/-- The terms of the exponential series from the `k`-th on: `term` and what follows it. -/
def expSeries : Nat → Nat → Nat → Nat → Nat
  | 0, _, _, _ => 0
  | n + 1, k, term, t => term + expSeries n (k + 1) (term * t / 2 ^ 256 / (k + 1)) t

/-- 2^f for a fixed-point `f` below 1. -/
def exp2Frac (f : Nat) : Nat := expSeries 72 0 one256 (f * ln2F / 2 ^ 256)

/-- The odd terms z^k / k of the inverse hyperbolic tangent. -/
def atanhSeries : Nat → Nat → Nat → Nat → Nat
  | 0, _, _, _ => 0
  | n + 1, k, p, z2 => p / k + atanhSeries n (k + 2) (p * z2 / 2 ^ 256) z2

/-- log2 of a fixed-point `y` from 1 up to 2. -/
def log2Frac (y : Nat) : Nat :=
  let z := (y - one256) * 2 ^ 256 / (y + one256)
  let l := 2 * atanhSeries 90 1 z (z * z / 2 ^ 256)
  l * log2eF / 2 ^ 256

/-- A magnitude `m * 2^e` in fixed point; `e` is at least -256 for every FP32 value. -/
def toFixed (m : Nat) (e : Int) : Nat := m * 2 ^ (256 + e).toNat

/-- e^(-t) for a fixed-point `t` at least 0. -/
def expNeg (t : Nat) : Nat :=
  let y := t * log2eF / 2 ^ 256
  let n := y / 2 ^ 256
  exp2Frac (one256 - y % 2 ^ 256) / 2 ^ (n + 1)

/-- A value just below one, or just below a given magnitude. -/
def justBelow (rm : BitVec 3) (fz neg : Bool) (m : Nat) (e : Int) : Nat × Flags :=
  roundPack fp32 rm fz neg (m * 2 ^ 64 - 1) (e - 64) true

/-- A positive value far below every FP32 value. -/
def farBelow (rm : BitVec 3) (fz : Bool) : Nat × Flags := roundPack fp32 rm fz false 1 (-300) true

/-- FEXP2. -/
def fExp2 (rm : BitVec 3) (fz : Bool) (a : Nat) : Nat × Flags :=
  match unpack fp32 (flush fp32 fz a) with
  | .nan s => (fp32.nan, sigFlag (.nan s))
  | .inf neg => (if neg then 0 else fp32.infBits, 0)
  | .num neg m e =>
    if m = 0 then (0x3F800000, 0)
    else if 8 < e + m.log2 then
      (if neg then farBelow rm fz else roundPack fp32 rm fz false 1 300 true)
    else
      let x : Int := if neg then -(toFixed m e) else toFixed m e
      let n := x / (2 ^ 256 : Int)
      let f := (x % (2 ^ 256 : Int)).toNat
      if f = 0 then roundPack fp32 rm fz false 1 n false
      else roundPack fp32 rm fz false (exp2Frac f) (n - 256) true

/-- FLOG2. -/
def fLog2 (rm : BitVec 3) (fz : Bool) (a : Nat) : Nat × Flags :=
  match unpack fp32 (flush fp32 fz a) with
  | .nan s => (fp32.nan, sigFlag (.nan s))
  | .inf neg => if neg then invalid fp32 else (fp32.infBits, 0)
  | .num neg m e =>
    if m = 0 then (fp32.signed true fp32.infBits, flagDZ)
    else if neg then invalid fp32
    else
      let n := e + m.log2
      if m = 2 ^ m.log2 then roundNum fp32 rm fz (decide (n < 0)) n.natAbs 0
      else
        let v : Int := n * (2 ^ 256 : Int) + log2Frac (m * 2 ^ (256 - m.log2))
        roundPack fp32 rm fz (decide (v < 0)) v.natAbs (-256) true

/-- FRCP. -/
def fRcp (rm : BitVec 3) (fz : Bool) (a : Nat) : Nat × Flags := fDiv fp32 rm fz 0x3F800000 a

/-- FRSQ: 1/√m with `m * 2^e` brought to an even exponent. -/
def fRsq (rm : BitVec 3) (fz : Bool) (a : Nat) : Nat × Flags :=
  match unpack fp32 (flush fp32 fz a) with
  | .nan s => (fp32.nan, sigFlag (.nan s))
  | .inf neg => if neg then invalid fp32 else (0, 0)
  | .num neg m e =>
    if m = 0 then (fp32.signed neg fp32.infBits, flagDZ)
    else if neg then invalid fp32
    else
      let m := if e % 2 = 0 then m else 2 * m
      let h := (if e % 2 = 0 then e else e - 1) / 2
      let r := isqrt (2 ^ 128 / m)
      roundPack fp32 rm fz false r (-64 - h) (m * (r * r) != 2 ^ 128)

/-- FTANH. -/
def fTanh (rm : BitVec 3) (fz : Bool) (a : Nat) : Nat × Flags :=
  match unpack fp32 (flush fp32 fz a) with
  | .nan s => (fp32.nan, sigFlag (.nan s))
  | .inf neg => (fp32.signed neg 0x3F800000, 0)
  | .num neg m e =>
    let top := e + m.log2
    if m = 0 then (fp32.signed neg 0, 0)
    else if top < -12 then justBelow rm fz neg m e
    else if 6 ≤ top then justBelow rm fz neg 1 0
    else
      let u := expNeg (2 * toFixed m e)
      roundPack fp32 rm fz neg ((one256 - u) * 2 ^ 256 / (one256 + u)) (-256) true

/-- FSIGM. -/
def fSigm (rm : BitVec 3) (fz : Bool) (a : Nat) : Nat × Flags :=
  match unpack fp32 (flush fp32 fz a) with
  | .nan s => (fp32.nan, sigFlag (.nan s))
  | .inf neg => (if neg then 0 else 0x3F800000, 0)
  | .num neg m e =>
    let top := e + m.log2
    if m = 0 then (0x3F000000, 0)
    else if 7 ≤ top then (if neg then farBelow rm fz else justBelow rm fz false 1 0)
    else
      let u := expNeg (toFixed m e)
      roundPack fp32 rm fz false ((if neg then u else one256) * 2 ^ 256 / (one256 + u)) (-256) true

end Sys2Proof.Machine
end

