-- ==== Sys2Proof/Machine/FpGroup.lean ====
section
/-!
DEFINITION. The FP, FMA and packed groups (R111 to R125). The effect of each instruction that a vector loop may
hold takes the rounding mode and the flush mode as arguments, since a loop runs with those it captured (R203);
`entry` says that a sequencer entry runs it.
-/

namespace Sys2Proof.Machine
open Sys2Proof

/-- The effect of an instruction on f registers, streams and flags, by captured modes. -/
abbrev FEffect := Bool → BitVec 3 → Bool → State → FRun (State × Flags)

/-- Bits and flags as a word and flags. -/
def asWord (p : Nat × Flags) : Word × Flags := (BitVec.ofNat 32 p.1, p.2)

/-- A truth value and flags as a word and flags. -/
def asBit (p : Bool × Flags) : Word × Flags := (if p.1 then 1 else 0, p.2)

/-- A scalar instruction with a rounding field (R54, R111). -/
def performR (i : Instr) (m : BitVec 3) (rs : List Reg) (e : FEffect) (s : State) :
    Host.Outcome State Fault Refusal :=
  performF i (s.roundingOk m) rs (fun t => e false (s.rounding m) s.fz t) s

/-- A scalar instruction without one. -/
def performN (i : Instr) (rs : List Reg) (e : FEffect) (s : State) : Host.Outcome State Fault Refusal :=
  performF i true rs (fun t => e false 0 s.fz t) s

/-! ## Arithmetic (R114, R123) -/

/-- The effect of FADD (R114). -/
def effFadd (d a b : Reg) : FEffect := fun entry rm fz =>
  f2 entry d a b fun x y => asWord (fAdd fp32 rm fz x.toNat y.toNat false)

/-- FADD (R114). -/
def execFadd (d a b : Reg) (m : BitVec 3) : State → Host.Outcome State Fault Refusal :=
  performR (.fadd d a b m) m [d, a, b] (effFadd d a b)

/-- The effect of FSUB (R114). -/
def effFsub (d a b : Reg) : FEffect := fun entry rm fz =>
  f2 entry d a b fun x y => asWord (fAdd fp32 rm fz x.toNat y.toNat true)

/-- FSUB (R114). -/
def execFsub (d a b : Reg) (m : BitVec 3) : State → Host.Outcome State Fault Refusal :=
  performR (.fsub d a b m) m [d, a, b] (effFsub d a b)

/-- The effect of FMUL (R114). -/
def effFmul (d a b : Reg) : FEffect := fun entry rm fz =>
  f2 entry d a b fun x y => asWord (fMul fp32 rm fz x.toNat y.toNat)

/-- FMUL (R114). -/
def execFmul (d a b : Reg) (m : BitVec 3) : State → Host.Outcome State Fault Refusal :=
  performR (.fmul d a b m) m [d, a, b] (effFmul d a b)

/-- The effect of FDIV (R114). -/
def effFdiv (d a b : Reg) : FEffect := fun entry rm fz =>
  f2 entry d a b fun x y => asWord (fDiv fp32 rm fz x.toNat y.toNat)

/-- FDIV (R114). -/
def execFdiv (d a b : Reg) (m : BitVec 3) : State → Host.Outcome State Fault Refusal :=
  performR (.fdiv d a b m) m [d, a, b] (effFdiv d a b)

/-- The effect of FSQRT (R114). -/
def effFsqrt (d a : Reg) : FEffect := fun entry rm fz =>
  f1 entry d a fun x => asWord (fSqrt fp32 rm fz x.toNat)

/-- FSQRT (R114). -/
def execFsqrt (d a : Reg) (m : BitVec 3) : State → Host.Outcome State Fault Refusal :=
  performR (.fsqrt d a m) m [d, a] (effFsqrt d a)

/-- The effect of FMA (R123). -/
def effFma (d a b c : Reg) : FEffect := fun entry rm fz =>
  f3 entry d a b c fun x y z => asWord (fFma fp32 rm fz x.toNat y.toNat z.toNat false false)

/-- FMA (R123). -/
def execFma (d a b c : Reg) (m : BitVec 3) : State → Host.Outcome State Fault Refusal :=
  performR (.fma d a b c m) m [d, a, b, c] (effFma d a b c)

/-- The effect of FMS (R123). -/
def effFms (d a b c : Reg) : FEffect := fun entry rm fz =>
  f3 entry d a b c fun x y z => asWord (fFma fp32 rm fz x.toNat y.toNat z.toNat false true)

/-- FMS (R123). -/
def execFms (d a b c : Reg) (m : BitVec 3) : State → Host.Outcome State Fault Refusal :=
  performR (.fms d a b c m) m [d, a, b, c] (effFms d a b c)

/-- The effect of FNMA (R123). -/
def effFnma (d a b c : Reg) : FEffect := fun entry rm fz =>
  f3 entry d a b c fun x y z => asWord (fFma fp32 rm fz x.toNat y.toNat z.toNat true false)

/-- FNMA (R123). -/
def execFnma (d a b c : Reg) (m : BitVec 3) : State → Host.Outcome State Fault Refusal :=
  performR (.fnma d a b c m) m [d, a, b, c] (effFnma d a b c)

/-- The effect of FNMS (R123). -/
def effFnms (d a b c : Reg) : FEffect := fun entry rm fz =>
  f3 entry d a b c fun x y z => asWord (fFma fp32 rm fz x.toNat y.toNat z.toNat true true)

/-- FNMS (R123). -/
def execFnms (d a b c : Reg) (m : BitVec 3) : State → Host.Outcome State Fault Refusal :=
  performR (.fnms d a b c m) m [d, a, b, c] (effFnms d a b c)

/-! ## Minimum, maximum, signs, comparisons and classes (R115 to R118) -/

/-- The effect of FMIN (R80, R115). -/
def effFmin (d a b : Reg) : FEffect := fun entry _ fz =>
  f2 entry d a b fun x y => asWord (fMinMax fp32 fz false false x.toNat y.toNat)

/-- FMIN (R115). -/
def execFmin (d a b : Reg) : State → Host.Outcome State Fault Refusal :=
  performN (.fmin d a b) [d, a, b] (effFmin d a b)

/-- The effect of FMAX (R80, R115). -/
def effFmax (d a b : Reg) : FEffect := fun entry _ fz =>
  f2 entry d a b fun x y => asWord (fMinMax fp32 fz true false x.toNat y.toNat)

/-- FMAX (R115). -/
def execFmax (d a b : Reg) : State → Host.Outcome State Fault Refusal :=
  performN (.fmax d a b) [d, a, b] (effFmax d a b)

/-- The effect of FMINP (R80, R115). -/
def effFminp (d a b : Reg) : FEffect := fun entry _ fz =>
  f2 entry d a b fun x y => asWord (fMinMax fp32 fz false true x.toNat y.toNat)

/-- FMINP (R115). -/
def execFminp (d a b : Reg) : State → Host.Outcome State Fault Refusal :=
  performN (.fminp d a b) [d, a, b] (effFminp d a b)

/-- The effect of FMAXP (R80, R115). -/
def effFmaxp (d a b : Reg) : FEffect := fun entry _ fz =>
  f2 entry d a b fun x y => asWord (fMinMax fp32 fz true true x.toNat y.toNat)

/-- FMAXP (R115). -/
def execFmaxp (d a b : Reg) : State → Host.Outcome State Fault Refusal :=
  performN (.fmaxp d a b) [d, a, b] (effFmaxp d a b)

/-- The magnitude of `x` under a new sign (R116). -/
def withSign (x : Word) (neg : Bool) : Word := BitVec.ofBool neg ++ x.extractLsb' 0 31

/-- The effect of FSGNJ (R116). -/
def effFsgnj (d a b : Reg) : FEffect := fun entry _ _ =>
  f2 entry d a b fun x y => (withSign x (y.getLsbD 31), 0)

/-- FSGNJ (R116). -/
def execFsgnj (d a b : Reg) : State → Host.Outcome State Fault Refusal :=
  performN (.fsgnj d a b) [d, a, b] (effFsgnj d a b)

/-- The effect of FSGNJN (R116). -/
def effFsgnjn (d a b : Reg) : FEffect := fun entry _ _ =>
  f2 entry d a b fun x y => (withSign x (!y.getLsbD 31), 0)

/-- FSGNJN (R116). -/
def execFsgnjn (d a b : Reg) : State → Host.Outcome State Fault Refusal :=
  performN (.fsgnjn d a b) [d, a, b] (effFsgnjn d a b)

/-- The effect of FSGNJX (R116). -/
def effFsgnjx (d a b : Reg) : FEffect := fun entry _ _ =>
  f2 entry d a b fun x y => (withSign x (x.getLsbD 31 != y.getLsbD 31), 0)

/-- FSGNJX (R116). -/
def execFsgnjx (d a b : Reg) : State → Host.Outcome State Fault Refusal :=
  performN (.fsgnjx d a b) [d, a, b] (effFsgnjx d a b)

/-- FEQ (R117). -/
def execFeq (d a b : Reg) : State → Host.Outcome State Fault Refusal :=
  performN (.feq d a b) [a, b] fun _ _ fz => fx2 d a b fun x y => asBit (fEq fz x.toNat y.toNat)

/-- FLT (R117). -/
def execFlt (d a b : Reg) : State → Host.Outcome State Fault Refusal :=
  performN (.flt d a b) [a, b] fun _ _ fz => fx2 d a b fun x y => asBit (fLt fz x.toNat y.toNat)

/-- FLE (R117). -/
def execFle (d a b : Reg) : State → Host.Outcome State Fault Refusal :=
  performN (.fle d a b) [a, b] fun _ _ fz => fx2 d a b fun x y => asBit (fLe fz x.toNat y.toNat)

/-- FCLASS (R118). -/
def execFclass (d a : Reg) : State → Host.Outcome State Fault Refusal :=
  performN (.fclass d a) [a] fun _ _ _ => fx1 d a fun x => (BitVec.ofNat 32 (fClass x.toNat), 0)

/-! ## Conversions and moves (R119 to R121) -/

/-- FCVT.W.S (R119). -/
def execFcvtWS (d a : Reg) (m : BitVec 3) : State → Host.Outcome State Fault Refusal :=
  performR (.fcvtWS d a m) m [a] fun _ rm fz => fx1 d a fun x => fToInt rm fz true x.toNat

/-- FCVT.WU.S (R119). -/
def execFcvtWuS (d a : Reg) (m : BitVec 3) : State → Host.Outcome State Fault Refusal :=
  performR (.fcvtWuS d a m) m [a] fun _ rm fz => fx1 d a fun x => fToInt rm fz false x.toNat

/-- FCVT.S.W (R119). -/
def execFcvtSW (d a : Reg) (m : BitVec 3) : State → Host.Outcome State Fault Refusal :=
  performR (.fcvtSW d a m) m [d] fun _ rm fz => xf1 d a fun x => asWord (fFromInt rm fz x.toInt)

/-- FCVT.S.WU (R119). -/
def execFcvtSWu (d a : Reg) (m : BitVec 3) : State → Host.Outcome State Fault Refusal :=
  performR (.fcvtSWu d a m) m [d] fun _ rm fz => xf1 d a fun x => asWord (fFromInt rm fz x.toNat)

/-- The effect of FCVT.S.BH: element 0 widened (R120). -/
def effFcvtSBh (d a : Reg) : FEffect := fun entry _ fz =>
  f1 entry d a fun x => asWord (convert bf16 fp32 0 fz (x.toNat % 65536))

/-- FCVT.S.BH (R120). -/
def execFcvtSBh (d a : Reg) : State → Host.Outcome State Fault Refusal :=
  performN (.fcvtSBh d a) [d, a] (effFcvtSBh d a)

/-- The effect of FCVT.BH.S: bits 31:16 zero (R120). -/
def effFcvtBhS (d a : Reg) : FEffect := fun entry rm fz =>
  f1 entry d a fun x => asWord (convert fp32 bf16 rm fz x.toNat)

/-- FCVT.BH.S (R120). -/
def execFcvtBhS (d a : Reg) (m : BitVec 3) : State → Host.Outcome State Fault Refusal :=
  performR (.fcvtBhS d a m) m [d, a] (effFcvtBhS d a)

/-- The effect of FCVT.S.HH (R120). -/
def effFcvtSHh (d a : Reg) : FEffect := fun entry _ fz =>
  f1 entry d a fun x => asWord (convert fp16 fp32 0 fz (x.toNat % 65536))

/-- FCVT.S.HH (R120). -/
def execFcvtSHh (d a : Reg) : State → Host.Outcome State Fault Refusal :=
  performN (.fcvtSHh d a) [d, a] (effFcvtSHh d a)

/-- The effect of FCVT.HH.S (R120). -/
def effFcvtHhS (d a : Reg) : FEffect := fun entry rm fz =>
  f1 entry d a fun x => asWord (convert fp32 fp16 rm fz x.toNat)

/-- FCVT.HH.S (R120). -/
def execFcvtHhS (d a : Reg) (m : BitVec 3) : State → Host.Outcome State Fault Refusal :=
  performR (.fcvtHhS d a m) m [d, a] (effFcvtHhS d a)

/-- FMV.X.S (R121). -/
def execFmvXS (d a : Reg) : State → Host.Outcome State Fault Refusal :=
  performN (.fmvXS d a) [a] fun _ _ _ => fx1 d a fun x => (x, 0)

/-- FMV.S.X (R121). -/
def execFmvSX (d a : Reg) : State → Host.Outcome State Fault Refusal :=
  performN (.fmvSX d a) [d] fun _ _ _ => xf1 d a fun x => (x, 0)

/-! ## Special functions (R122) -/

/-- The effect of FEXP2 (R122). -/
def effFexp2 (d a : Reg) : FEffect := fun entry rm fz =>
  f1 entry d a fun x => asWord (fExp2 rm fz x.toNat)

/-- FEXP2 (R122). -/
def execFexp2 (d a : Reg) (m : BitVec 3) : State → Host.Outcome State Fault Refusal :=
  performR (.fexp2 d a m) m [d, a] (effFexp2 d a)

/-- The effect of FLOG2 (R122). -/
def effFlog2 (d a : Reg) : FEffect := fun entry rm fz =>
  f1 entry d a fun x => asWord (fLog2 rm fz x.toNat)

/-- FLOG2 (R122). -/
def execFlog2 (d a : Reg) (m : BitVec 3) : State → Host.Outcome State Fault Refusal :=
  performR (.flog2 d a m) m [d, a] (effFlog2 d a)

/-- The effect of FRCP (R122). -/
def effFrcp (d a : Reg) : FEffect := fun entry rm fz =>
  f1 entry d a fun x => asWord (fRcp rm fz x.toNat)

/-- FRCP (R122). -/
def execFrcp (d a : Reg) (m : BitVec 3) : State → Host.Outcome State Fault Refusal :=
  performR (.frcp d a m) m [d, a] (effFrcp d a)

/-- The effect of FRSQ (R122). -/
def effFrsq (d a : Reg) : FEffect := fun entry rm fz =>
  f1 entry d a fun x => asWord (fRsq rm fz x.toNat)

/-- FRSQ (R122). -/
def execFrsq (d a : Reg) (m : BitVec 3) : State → Host.Outcome State Fault Refusal :=
  performR (.frsq d a m) m [d, a] (effFrsq d a)

/-- The effect of FTANH (R122). -/
def effFtanh (d a : Reg) : FEffect := fun entry rm fz =>
  f1 entry d a fun x => asWord (fTanh rm fz x.toNat)

/-- FTANH (R122). -/
def execFtanh (d a : Reg) (m : BitVec 3) : State → Host.Outcome State Fault Refusal :=
  performR (.ftanh d a m) m [d, a] (effFtanh d a)

/-- The effect of FSIGM (R122). -/
def effFsigm (d a : Reg) : FEffect := fun entry rm fz =>
  f1 entry d a fun x => asWord (fSigm rm fz x.toNat)

/-- FSIGM (R122). -/
def execFsigm (d a : Reg) (m : BitVec 3) : State → Host.Outcome State Fault Refusal :=
  performR (.fsigm d a m) m [d, a] (effFsigm d a)

/-! ## Packed (R124, R125) -/

/-- Element `i` of a pair. -/
def half (x : Word) (i : Nat) : Nat := x.toNat / 65536 ^ i % 65536

/-- Two elements and their flags as one pair and their or (R124). -/
def pairUp (lo hi : Nat × Flags) : Word × Flags := (BitVec.ofNat 32 (hi.1 * 65536 + lo.1), lo.2 ||| hi.2)

/-- The effect of HADD2 (R124). -/
def effHadd2 (d a b : Reg) : FEffect := fun entry rm fz =>
  f2 entry d a b fun x y =>
    let r (i : Nat) := fAdd fp16 rm fz (half x i) (half y i) false
    pairUp (r 0) (r 1)

/-- HADD2 (R124). -/
def execHadd2 (d a b : Reg) (m : BitVec 3) : State → Host.Outcome State Fault Refusal :=
  performR (.hadd2 d a b m) m [d, a, b] (effHadd2 d a b)

/-- The effect of HMUL2 (R124). -/
def effHmul2 (d a b : Reg) : FEffect := fun entry rm fz =>
  f2 entry d a b fun x y =>
    let r (i : Nat) := fMul fp16 rm fz (half x i) (half y i)
    pairUp (r 0) (r 1)

/-- HMUL2 (R124). -/
def execHmul2 (d a b : Reg) (m : BitVec 3) : State → Host.Outcome State Fault Refusal :=
  performR (.hmul2 d a b m) m [d, a, b] (effHmul2 d a b)

/-- The effect of HFMA2: the addend is the old rd (R124). -/
def effHfma2 (d a b : Reg) : FEffect := fun entry rm fz =>
  f2d entry d a b fun z x y =>
    let r (i : Nat) := fFma fp16 rm fz (half x i) (half y i) (half z i) false false
    pairUp (r 0) (r 1)

/-- HFMA2 (R124). -/
def execHfma2 (d a b : Reg) (m : BitVec 3) : State → Host.Outcome State Fault Refusal :=
  performR (.hfma2 d a b m) m [d, a, b] (effHfma2 d a b)

/-- The effect of HMAX2 (R124). -/
def effHmax2 (d a b : Reg) : FEffect := fun entry _ fz =>
  f2 entry d a b fun x y =>
    let r (i : Nat) := fMinMax fp16 fz true false (half x i) (half y i)
    pairUp (r 0) (r 1)

/-- HMAX2 (R124). -/
def execHmax2 (d a b : Reg) : State → Host.Outcome State Fault Refusal :=
  performN (.hmax2 d a b) [d, a, b] (effHmax2 d a b)

/-- The effect of IADD.F (R125). -/
def effIaddF (d a b : Reg) : FEffect := fun entry _ _ =>
  f2 entry d a b fun x y => (x + y, 0)

/-- IADD.F (R125). -/
def execIaddF (d a b : Reg) : State → Host.Outcome State Fault Refusal :=
  performN (.iaddF d a b) [d, a, b] (effIaddF d a b)

/-- The effect of ISUB.F (R125). -/
def effIsubF (d a b : Reg) : FEffect := fun entry _ _ =>
  f2 entry d a b fun x y => (x - y, 0)

/-- ISUB.F (R125). -/
def execIsubF (d a b : Reg) : State → Host.Outcome State Fault Refusal :=
  performN (.isubF d a b) [d, a, b] (effIsubF d a b)

/-- The effect of IAND.F (R125). -/
def effIandF (d a b : Reg) : FEffect := fun entry _ _ =>
  f2 entry d a b fun x y => (x &&& y, 0)

/-- IAND.F (R125). -/
def execIandF (d a b : Reg) : State → Host.Outcome State Fault Refusal :=
  performN (.iandF d a b) [d, a, b] (effIandF d a b)

/-- The effect of IOR.F (R125). -/
def effIorF (d a b : Reg) : FEffect := fun entry _ _ =>
  f2 entry d a b fun x y => (x ||| y, 0)

/-- IOR.F (R125). -/
def execIorF (d a b : Reg) : State → Host.Outcome State Fault Refusal :=
  performN (.iorF d a b) [d, a, b] (effIorF d a b)

/-- The effect of IXOR.F (R125). -/
def effIxorF (d a b : Reg) : FEffect := fun entry _ _ =>
  f2 entry d a b fun x y => (x ^^^ y, 0)

/-- IXOR.F (R125). -/
def execIxorF (d a b : Reg) : State → Host.Outcome State Fault Refusal :=
  performN (.ixorF d a b) [d, a, b] (effIxorF d a b)

/-- The effect of ISLL.F (R125). -/
def effIsllF (d a b : Reg) : FEffect := fun entry _ _ =>
  f2 entry d a b fun x y => (x <<< (y.toNat % 32), 0)

/-- ISLL.F (R125). -/
def execIsllF (d a b : Reg) : State → Host.Outcome State Fault Refusal :=
  performN (.isllF d a b) [d, a, b] (effIsllF d a b)

/-- The effect of ISRL.F (R125). -/
def effIsrlF (d a b : Reg) : FEffect := fun entry _ _ =>
  f2 entry d a b fun x y => (x >>> (y.toNat % 32), 0)

/-- ISRL.F (R125). -/
def execIsrlF (d a b : Reg) : State → Host.Outcome State Fault Refusal :=
  performN (.isrlF d a b) [d, a, b] (effIsrlF d a b)

/-- The effect of ICMPLT.F (R125). -/
def effIcmpltF (d a b : Reg) : FEffect := fun entry _ _ =>
  f2 entry d a b fun x y => (if x.slt y then 0xFFFFFFFF else 0, 0)

/-- ICMPLT.F (R125). -/
def execIcmpltF (d a b : Reg) : State → Host.Outcome State Fault Refusal :=
  performN (.icmpltF d a b) [d, a, b] (effIcmpltF d a b)

/-- The effect of ICMPEQ.F (R125). -/
def effIcmpeqF (d a b : Reg) : FEffect := fun entry _ _ =>
  f2 entry d a b fun x y => (if x = y then 0xFFFFFFFF else 0, 0)

/-- ICMPEQ.F (R125). -/
def execIcmpeqF (d a b : Reg) : State → Host.Outcome State Fault Refusal :=
  performN (.icmpeqF d a b) [d, a, b] (effIcmpeqF d a b)

/-- The effect of ISEL.F: the mask is the old rd (R125). -/
def effIselF (d a b : Reg) : FEffect := fun entry _ _ =>
  f2d entry d a b fun z x y => ((x &&& z) ||| (y &&& ~~~z), 0)

/-- ISEL.F (R125). -/
def execIselF (d a b : Reg) : State → Host.Outcome State Fault Refusal :=
  performN (.iselF d a b) [d, a, b] (effIselF d a b)

/-! ## Bodies of vector loops (R203) -/

/-- The effect of an instruction that a loop body may hold, with its rounding field (0 where it has none); none
for every other word. -/
def loopEffect : Instr → Option (BitVec 3 × FEffect)
  | .fadd d a b m => some (m, effFadd d a b)
  | .fsub d a b m => some (m, effFsub d a b)
  | .fmul d a b m => some (m, effFmul d a b)
  | .fdiv d a b m => some (m, effFdiv d a b)
  | .fsqrt d a m => some (m, effFsqrt d a)
  | .fmin d a b => some (0, effFmin d a b)
  | .fmax d a b => some (0, effFmax d a b)
  | .fminp d a b => some (0, effFminp d a b)
  | .fmaxp d a b => some (0, effFmaxp d a b)
  | .fsgnj d a b => some (0, effFsgnj d a b)
  | .fsgnjn d a b => some (0, effFsgnjn d a b)
  | .fsgnjx d a b => some (0, effFsgnjx d a b)
  | .fcvtSBh d a => some (0, effFcvtSBh d a)
  | .fcvtSHh d a => some (0, effFcvtSHh d a)
  | .fcvtBhS d a m => some (m, effFcvtBhS d a)
  | .fcvtHhS d a m => some (m, effFcvtHhS d a)
  | .fexp2 d a m => some (m, effFexp2 d a)
  | .flog2 d a m => some (m, effFlog2 d a)
  | .frcp d a m => some (m, effFrcp d a)
  | .frsq d a m => some (m, effFrsq d a)
  | .ftanh d a m => some (m, effFtanh d a)
  | .fsigm d a m => some (m, effFsigm d a)
  | .fma d a b c m => some (m, effFma d a b c)
  | .fms d a b c m => some (m, effFms d a b c)
  | .fnma d a b c m => some (m, effFnma d a b c)
  | .fnms d a b c m => some (m, effFnms d a b c)
  | .hadd2 d a b m => some (m, effHadd2 d a b)
  | .hmul2 d a b m => some (m, effHmul2 d a b)
  | .hfma2 d a b m => some (m, effHfma2 d a b)
  | .hmax2 d a b => some (0, effHmax2 d a b)
  | .iaddF d a b => some (0, effIaddF d a b)
  | .isubF d a b => some (0, effIsubF d a b)
  | .iandF d a b => some (0, effIandF d a b)
  | .iorF d a b => some (0, effIorF d a b)
  | .ixorF d a b => some (0, effIxorF d a b)
  | .isllF d a b => some (0, effIsllF d a b)
  | .isrlF d a b => some (0, effIsrlF d a b)
  | .iselF d a b => some (0, effIselF d a b)
  | .icmpltF d a b => some (0, effIcmpltF d a b)
  | .icmpeqF d a b => some (0, effIcmpeqF d a b)
  | _ => none

end Sys2Proof.Machine
end

