-- ==== Sys2Proof/Machine/StreamUnit.lean ====
section
/-!
DEFINITION. The STREAM group: descriptors and mappings (R195 to R200), vector loops (R203 to R206).
-/

namespace Sys2Proof.Machine
open Sys2Proof

/-- The item of a descriptor written (R195). -/
def StreamDesc.setItem (d : StreamDesc) (i : BitVec 4) (a b : Word) : StreamDesc :=
  if i = 0 then { d with base := a, ctl := b }
  else if i = 5 then { d with ibase := a, shift := b }
  else { d with count := d.count.setIfInBounds (i.toNat - 1) a, stride := d.stride.setIfInBounds (i.toNat - 1) b }

/-- SCFG (R197): it names fd, so it waits for pending loops that use it (R205). -/
def execScfg (d a b : Reg) (i : BitVec 4) (s : State) : Host.Outcome State Fault Refusal :=
  perform (.scfg d a b i) s.notMemory
    (fun s =>
      if s.fBusy [d] then .error (.wait s)
      else .ok (s.mapStream d fun t => { t with desc := t.desc.setItem i (s.x a) (s.x b) })) s

/-- A descriptor that SMAP accepts (R198). -/
def StreamDesc.valid (d : StreamDesc) : Bool :=
  bitsNat d.ctl 31 4 == 0 &&
    (List.range d.ndim).all fun i => decide (1 ≤ d.countOf i) && decide (d.countOf i ≤ 65536)

/-- The stream unit's fault value: code and sequence number (R196). -/
def streamValue (code : Nat) (seq : BitVec 16) : Word := BitVec.ofNat 32 (code * 2 ^ 24 + seq.toNat)

/-- SMAP of stream `d` (R198). -/
def mapOf (d : Reg) (s : State) : State :=
  (s.mapStream d fun t => { t with snap := t.desc, pos := 0, mapped := true, seq := s.core.sseq }).mapCore
    fun c => { c with sseq := c.sseq + 1 }

/-- SMAP (R198): nothing is mapped from an invalid descriptor. -/
def execSmap (d : Reg) (s : State) : Host.Outcome State Fault Refusal :=
  perform (.smap d) s.notMemory
    (fun s =>
      if s.fBusy [d] then .error (.wait s)
      else if (s.stream d).desc.valid then .ok (mapOf d s)
      else .error (.trapIn 0x0C (streamValue 4 s.core.sseq) (recordFault ⟨d, 4, none⟩ s))) s

/-- SUNMAP (R199). -/
def execSunmap (d : Reg) (s : State) : Host.Outcome State Fault Refusal :=
  perform (.sunmap d) s.notMemory
    (fun s =>
      if s.fBusy [d] then .error (.wait s) else .ok (s.mapStream d fun t => { t with mapped := false })) s

/-- The `.stat` word of a stream (R200). DESIGN CHOICE (log 23): while the register is unmapped, write, indirect and done (and
`.pos`) still tell of the last mapping, until the next point entry. -/
def streamStat (t : Stream) : Word :=
  BitVec.ofNat 32
    (t.mapped.toNat * 2 ^ 31 + t.snap.write.toNat * 2 ^ 30 + t.snap.indirect.toNat * 2 ^ 29
      + (t.snap.total != 0 && decide (t.snap.total ≤ t.pos)).toNat * 2 ^ 28 + t.fcode.toNat * 2 ^ 24)

/-- The sequencer's free entries, of 16 (R200, R203). -/
def seqFree (c : Core) : Nat := 16 - (c.seqs.map fun q => q.body.length).foldl (· + ·) 0

/-- SSTAT (R200). DESIGN CHOICE (log 23): .pos of a stream that is past 2^32 elements is their number modulo 2^32. -/
def execSstat (d a : Reg) (q : BitVec 4) (s : State) : Host.Outcome State Fault Refusal :=
  performPure (.sstat d a q) s.notMemory
    (fun s => s.setX d
      (if q = 0 then streamStat (s.stream a)
       else if q = 1 then BitVec.ofNat 32 (s.stream a).pos
       else if q = 2 then (s.stream a).faddr
       else if q = 3 then s.core.siter
       else BitVec.ofNat 32 (seqFree s.core))) s

/-! ## Vector loops -/

/-- A word that a loop body may hold here (R203): a loop instruction whose rounding R55 accepts. -/
def bodyOk (s : State) (w : Word) : Bool :=
  match decode w with
  | .error _ => false
  | .ok i =>
    match loopEffect i with
    | some (m, _) => s.roundingOk m
    | none => false

/-- The `k` words after the VLOOP. DESIGN CHOICE (log 23): a word beyond the instruction store is 0, so that the VLOOP raises cause 0x02 with
UVAL 0 (R203). -/
def bodyWords (s : State) (k : Nat) : List Word :=
  (List.range k).map fun j =>
    let a := s.core.pc.toNat + 4 * (j + 1)
    if a < 0x40000 then s.unit.istore.word a else 0

/-- A loop pushed (R203). -/
def pushLoop (d : Reg) (body : List Word) (n : Nat) (s : State) : State :=
  let seq := s.core.sseq
  let q : SeqEntry :=
    { body := body, left := n, done := 0, rm := s.frm, fz := s.fz, seq := seq, streams := s.inUser && !s.inHandler }
  (s.mapCore fun c =>
    ({ c with sseq := seq + 1, seqs := if n = 0 then c.seqs else c.seqs ++ [q] } : Core).launches 3 seq).setX d
    (seq.setWidth 32)

/-- VLOOP (R203): the body is checked, then pushed once entries are free; execution goes on behind it. -/
def execVloop (d a : Reg) (k : BitVec 4) (s : State) : Host.Outcome State Fault Refusal :=
  performWith (.vloop d a k) s.compute
    (fun s =>
      let n := k.toNat + 1
      let body := bodyWords s n
      match body.find? (fun w => !bodyOk s w) with
      | some w => .error (.trap 2 w)
      | none =>
        if seqFree s.core < n then .error (.wait s)
        else
          .ok (finish s.core.mode ((pushLoop d body (s.x a).toNat s).mapCore fun c =>
            { c with pc := c.pc + 4 + BitVec.ofNat 32 (4 * n) }))) s

/-- VWAIT (R205): a loop that faulted is no longer pending, so a held report needs no case of its own (R134). -/
def execVwait (s : State) : Host.Outcome State Fault Refusal :=
  perform .vwait s.compute (fun s => if s.core.seqs.isEmpty then .ok s else .error (.wait s)) s

/-- One body instruction of a loop, with the captured mode. -/
def bodyStep (q : SeqEntry) (w : Word) (s : State) : FRun (State × Flags) :=
  match decode w with
  | .error _ => .ok (s, 0)
  | .ok i =>
    match loopEffect i with
    | none => .ok (s, 0)
    | some (m, eff) => eff true (if m = 7 then q.rm else m) q.fz s

/-- One iteration. -/
def bodyRun (q : SeqEntry) : List Word → State → FRun (State × Flags)
  | [], s => .ok (s, 0)
  | w :: ws, s => do
    let (t, a) ← bodyStep q w s
    let (u, b) ← bodyRun q ws t
    return (u, a ||| b)

/-- How a loop ends: done, with the flags raised, or stopped by a fault after the iterations counted. -/
inductive LoopEnd where
  | done (s : State) (fl : Flags)
  | fault (e : SFault) (s : State) (fl : Flags) (n : Nat)
  deriving DecidableEq, Repr

/-- `n` iterations: one that faults has no effect (R206). -/
def loopRun (q : SeqEntry) : Nat → Nat → Flags → State → LoopEnd
  | 0, _, fl, s => .done s fl
  | n + 1, k, fl, s =>
    match bodyRun q q.body s with
    | .ok (t, a) => loopRun q n (k + 1) (fl ||| a) t
    | .error e => .fault e s fl k

/-- The sequencer acts for whom pushed the loop, whatever runs on the core now (R202): the streams act for a loop of the point. -/
def asPushed (q : SeqEntry) (s : State) : State :=
  s.mapCore fun c => { c with mode := .user, csr := { c.csr with ustatus := setBit c.csr.ustatus 2 (!q.streams) } }

/-- Mode and USTATUS as in `s`. -/
def likeBefore (s t : State) : State :=
  t.mapCore fun c => { c with mode := s.core.mode, csr := { c.csr with ustatus := s.core.csr.ustatus } }

/-- `n` iterations of the oldest loop; it leaves the sequencer with its last one (R204, R206). A fault discards the loops behind it
and is reported. -/
def runLoop (q : SeqEntry) (rest : List SeqEntry) (n : Nat) (s : State) : State :=
  match loopRun q n q.done 0 (asPushed q s) with
  | .done t fl =>
    let left := if n = q.left then rest else { q with left := q.left - n, done := q.done + n } :: rest
    ((likeBefore s t).mapCore fun c => { c with seqs := left }).addFlags fl
  | .fault e t fl n =>
    let u := recordFault e (likeBefore s t)
    (u.mapCore fun c =>
      { c with
        seqs := [], siter := BitVec.ofNat 32 n
        reports := c.reports ++ [⟨0x0C, streamValue e.code q.seq, none, some q.seq⟩] }).addFlags fl

/-- A request of the core to its own memory that comes before the loop has no answer yet, and shares bytes with its elements (R321);
one that comes after it has not been issued (`ownHazard`). -/
def loopHeld (q : SeqEntry) (s : State) : Bool := s.core.ni.slots.toList.any fun o => requestMeets s o (loopSpans s q true)

/-- The oldest loop runs to its end, once the core's earlier requests to bytes of its elements are performed (R321). -/
def completeLoop (s : State) : State :=
  match s.core.seqs with
  | [] => s
  | q :: rest => if loopHeld q s then s else runLoop q rest q.left s

/-- The running loop of a pre-empted core stops at an iteration boundary, at one that the spec leaves open (R206, R375). -/
def settleLoop (s : State) : State :=
  match s.core.seqs with
  | [] => s
  | q :: rest => if loopHeld q s then s else runLoop q rest ((Config.openWord s.free).toNat % max 1 q.left) s.draw

/-- VECTOR_LOOP_COMPLETE (R204 to R206). -/
def execVectorLoopComplete (s : State) : Host.Outcome State Fault Refusal := engineStep completeLoop s

end Sys2Proof.Machine
end

