-- ==== Sys2Proof/Machine/Context.lean ====
section
/-!
DEFINITION. Pre-emption: what is settled and saved (R375 to R381), and the resume of a launch (R171 to R173, R382).
-/

namespace Sys2Proof.Machine
open Sys2Proof

/-! ## The context image (R376 to R378) -/

/-- Words as bytes. -/
def wordBytes (l : List Word) : List Byte := l.foldr (fun w r => bytesOf 4 w.toNat ++ r) []

/-- Bytes brought to a length with zeros. -/
def padBytes (n : Nat) (l : List Byte) : List Byte := l.take n ++ List.replicate (n - l.length) 0

/-- The core as it was interrupted: memories and engines as they stand, but mode, pc, loops and supervisor CSRs as before the entry. -/
def interrupted (old c : Core) : Core :=
  { c with
    mode := old.mode, halt := none, pc := old.pc, loop := old.loop, loopSup := old.loopSup, dpc := old.dpc
    csr := { c.csr with
      sstatus := old.csr.sstatus, scause := old.csr.scause, sval := old.csr.sval, sepc := old.csr.sepc } }

/-- The slots as a pre-emption leaves them (R261): a predicted or deferred one is deferred without frames or predicted index; an
exposing one fetches again. -/
def settleSlot (p : PredSlot) : PredSlot :=
  match p.state with
  | .free => p
  | .deciding | .predicted | .deferred => { p with state := .deferred, pidx := 0, held := none, frames := [], filled := false }
  | .exposing => { p with held := none, frames := [], filled := false }
  | .exposed => p

/-- What the save sequencer settles on a core (R375): slots, the follow attachment, the pending pre-emption. -/
def settleCore (c : Core) : Core :=
  { c with slots := vmap settleSlot c.slots, follow := if c.csr.ganginfo.getLsbD 30 then c.follow else none, lag := [], stalled := false,
           csr := { c.csr with sip := setBit c.csr.sip 1 false } }

/-- The engines stop as R375 says: commands at a row boundary, a vector loop at an iteration boundary. -/
def settleEngines (s : State) : State := settleLoop (settleCopy (settleMatrix s))

/-- The state code of a header. -/
def headerState (s : State) (c : Core) : Nat :=
  match c.point with
  | some _ => if c.csr.ustatus.getLsbD 2 then 1 else 0
  | none =>
    if ((s.launch.bind fun l => l.candidate (localOf c.id))).isSome then 2 else 3

/-- The header with its crc field zero. -/
def headerWords (s : State) (c : Core) : List Word :=
  let p := c.point.getD ⟨0, 0, 0, 0, 0⟩
  let id := (s.launch.map fun l => l.id).getD 0
  [BitVec.ofNat 32 (2 ^ 24 + headerState s c), c.pc, id, c.csr.phase, p.c1 ++ p.c0, p.c3 ++ p.c2, c.sig]
    ++ List.replicate 9 0

/-- The user CSRs of the image, in number order. -/
def imageCsrs (c : Core) : List Word :=
  let k := c.csr
  [k.fcsr, k.pthresh, k.etol, k.ectl, k.estat, k.mrcfg, mrstatOf c, k.utvec, k.ucause, k.uval, k.uepc, k.ustatus, k.uie,
    setBit k.uip 5 c.unread, 0, 0]

/-- A loop state. -/
def loopWords (l : LoopState) : List Word := [l.start, l.last, l.remaining, BitVec.ofNat 32 l.active.toNat]

/-- A stream: descriptor, snapshot, position and SMAP number. DESIGN CHOICE (log 15): the position, which may reach 65,536^4, takes
three words. -/
def streamWords (t : Stream) : List Word :=
  let d (x : StreamDesc) : List Word := [x.base, x.ctl] ++ x.count.toList ++ x.stride.toList ++ [x.ibase, x.shift]
  d t.desc ++ d t.snap ++ [BitVec.ofNat 32 t.pos, BitVec.ofNat 32 (t.pos / 2 ^ 32), BitVec.ofNat 32 (t.pos / 2 ^ 64), t.seq.setWidth 32]

/-- A sequencer entry. -/
def seqBytes (q : SeqEntry) : List Byte :=
  padBytes 96 (wordBytes ((q.body ++ List.replicate (16 - q.body.length) 0)
    ++ [BitVec.ofNat 32 q.left, BitVec.ofNat 32 (q.rm.toNat + 8 * q.fz.toNat), q.seq.setWidth 32]))

/-- A prediction slot: the words of R252, key and true index. -/
def slotWords (p : PredSlot) : List Word :=
  [slotStat p, slotSeq p, p.key, p.tidx.setWidth 32, p.base.lo, p.base.hi, BitVec.ofNat 32 p.stride, 0]

/-- The last word of a queue entry. -/
def entryWord (seq : BitVec 16) (notice remote : Bool) (next : Nat) (started : Bool) : Word :=
  BitVec.ofNat 32
    (started.toNat * 2 ^ 25 + next % 128 * 2 ^ 18 + remote.toNat * 2 ^ 17 + notice.toNat * 2 ^ 16 + seq.toNat)

/-- The row-table byte of an accumulator row. -/
def rowByte (m : Matrix) (r : Nat) : Byte :=
  match m.row r with
  | none => 0
  | some a => BitVec.ofNat 8 (a.cls.toNat * 4 + if a.float then 2 else 1)

/-- The matrix engine's part. -/
def matrixBytes (m : Matrix) : List Byte :=
  let q := m.queue.foldr (fun c l => [c.word, c.opa, c.opb, entryWord c.seq c.notice c.remote c.next c.started] ++ l) []
  padBytes 128 (wordBytes ([m.astr, m.dstr, m.rscl, m.cscl, mseqWord m, mflagsWord m, m.fault, 0] ++ q))
    ++ (List.range 128).map (rowByte m)

/-- A copy descriptor. -/
def descWords (d : CopyDesc) : List Word :=
  [d.rowlen, d.counts, d.sstr1, d.sstr2, d.dstr1, d.dstr2, d.far.lo, d.far.hi]

/-- The copy engine's part. -/
def copyBytes (e : CopyEng) : List Byte :=
  let one (c : CCmd) : List Word := [c.word, c.opa, c.opb, entryWord c.seq c.notice false c.next c.started] ++ descWords c.desc
  padBytes 256 (padBytes 128 (wordBytes (descWords e.desc ++ e.queue.foldr (fun c l => one c ++ l) []))
    ++ wordBytes [cseqWord e, e.fault])

/-- The word of a remote-request slot: taken, and its reply is there. -/
def slotWord (o : Option Slot) : Word :=
  match o with
  | none => 0
  | some x => BitVec.ofNat 32 (2 ^ 31 + x.reply.isSome.toNat * 2 ^ 30)

/-- The network interface's part. -/
def netBytes (c : Core) : List Byte :=
  padBytes 320 (wordBytes (c.ni.slots.toList.map slotWord ++ [c.ni.rfaLo, c.ni.rfaHi, c.ni.rfsent, mrstatOf c]))

/-- The tag table, 8 bytes for a way (R378). -/
def tagBytes (c : Core) : List Byte :=
  (List.range 256).foldr (fun i l =>
    (match c.tags.find? fun t => t.set == i / 4 && t.way == i % 4 with
      | none => bytesOf 8 0
      | some t => bytesOf 8 (2 ^ 63 + t.rank % 4 * 2 ^ 61 + t.tag.toNat * 2 ^ 30 + t.data.toNat)) ++ l) []

/-- A plane image: format, column exponents, elements (R376). -/
def planeBytes (p : Plane) : List Byte :=
  padBytes 256 (wordBytes (p.fmt.setWidth 32 :: (List.range 32).map fun j => (p.expo[j]?).getD 0))
    ++ (List.range 1024).foldr (fun n l => bytesOf 2 ((((p.rows[n / 32]?).getD [])[n % 32]?).getD 0).toNat ++ l) []

/-- The 24 KiB of the context frames, with a crc word. -/
def imageWith (s : State) (c0 : Core) (crc : Word) : List Byte :=
  let c := if c0.csr.ustatus.getLsbD 3 then swapShadow c0 else c0
  let inH := c.csr.ustatus.getLsbD 2
  wordBytes ((headerWords s c).take 15 ++ [crc]) ++ wordBytes c.x.toList ++ wordBytes c.shadow.toList ++ bytesOf 8 0
    ++ wordBytes c.f.toList ++ wordBytes (imageCsrs c)
    ++ wordBytes (loopWords (if inH then c.loopUser else c.loop) ++ loopWords (if inH then c.loop else .reset))
    ++ c.streams.toList.foldr (fun t l => padBytes 128 (wordBytes (streamWords t)) ++ l) []
    ++ padBytes 1536 (c.seqs.foldr (fun q l => seqBytes q ++ l) [])
    ++ c.hnd.toList.foldr (fun h l => wordBytes [hloWord h, hhiWord h] ++ l) []
    ++ c.layouts.toList.foldr (fun d l => bytesOf 8 d.toNat ++ l) []
    ++ c.slots.toList.foldr (fun p l => wordBytes (slotWords p) ++ l) []
    ++ c.locks.toList.foldr (fun o l => wordBytes [lockWord o false, lockWord o true] ++ l) []
    ++ matrixBytes c.mx ++ copyBytes c.cp ++ netBytes c ++ tagBytes c ++ planeBytes c.mx.active ++ planeBytes c.mx.shadow
    ++ c.env.toList.foldr (fun e l => padBytes 1552 (imageOf e) ++ l) []
    ++ List.replicate 1408 0

/-- The context image of a core, its CRC-32C in place (R377). -/
def contextImage (s : State) (c : Core) : List Byte := imageWith s c (crc32c (imageWith s c 0))

/-- Accumulator rows in their pool frames (R376). -/
def saveRows (c : Core) : Core :=
  c.mx.acc.foldl (fun d a =>
    let base := ((d.pool[a.row / 16]?).getD 0).toNat * 4096 + 256 * (a.row % 16)
    { d with sp := d.sp.put base (a.cells.foldr (fun v l => bytesOf 8 v.toNat ++ l) []) }) c

/-! ## Saving -/

/-- Every slot of the core has settled: only collected replies of RLOADs stay (R375). -/
def slotsSettled (c : Core) : Bool :=
  c.ni.slots.toList.all fun o => match o with
    | none => true
    | some x => x.kind == .rload && x.reply.isSome

/-- Every member has taken its entry, its requests have come back, and the pieces that its copies sent to other packages have ended (R375):
nothing of the gang is under way any more. -/
def gangSettled (s : State) (l : Launch) : Bool :=
  (l.members.all fun m => (assocGet l.parked m).isSome && slotsSettled (s.coreAt m)) &&
    !(s.away.any fun x => x.plan.isNone && x.ended.isNone && s.member l x.src)

/-- A take of the core that waits at its target is withdrawn (R309, R375). -/
def withdrawTakes (s : State) : State :=
  (List.range 32).foldl (fun t i =>
    match t.core.ni.slot i with
    | none => t
    | some x =>
      if x.kind == .take && x.reply.isNone && pkgOf x.packet.dst == t.pkg && waitsAt t x then
        (dropWaiter x t).mapNi fun n => n.setSlot i none
      else t) s

/-- A message put into the spill ring of the core in focus. One from outside the gang has its acknowledgement, so that no rollback may drop
it: the phase is unreplayable from here (R298, R408 code 5; log 13). -/
def spillInto (src : BitVec 21) (m : Msg) (s : State) : State :=
  noteIncoming src (s.mapNi fun n => { n with spill := n.spill ++ [m] })

/-- Held arrivals go to the spill ring in order, as far as it takes them (R380). The list beside it tells which of them a rollback may
discard (log 15). -/
def spillArrivals (s : State) : State :=
  s.core.ni.held.foldl (fun t h =>
    match messageOf t h.packet with
    | none => t
    | some m =>
      if t.core.ni.spillRoom m && t.core.ni.held.head? == some h then
        acceptHeld h ((spillInto h.packet.src { m with member := m.member && !h.kept } t).mapNi fun n => { n with held := n.held.tail })
      else t) s

/-- The core in focus as its save leaves it, engines and slots settled. -/
def saveState (s : State) : State := (dropLookups (fun _ => true) (settleEngines s)).mapCore settleCore

/-- The context and pool frames of a core written (R376). -/
def writeFrames (image : List Byte) (k : Core) : Core := saveRows (w0Load (58 * 4096) image k)

/-- The save of the core in focus: `old` is what it held before the entry. What the launch keeps of it a resume reads where the images
have no place for it (log 15). -/
def saveCore (old : Core) (s : State) : State :=
  let t := saveState s
  let c := interrupted old t.core
  (t.mapMyLaunch fun l => { l with parked := assocSet l.parked (localOf t.core.id) { c with sp := [] } }).mapCore fun k =>
    { writeFrames (contextImage t c) k with csr := { k.csr with ctxsaved := true }, handlerEnded := false, blockSaved := false }

/-- CONTEXT_SAVE (R375, R376, R379): what is in flight settles, then the core saves; the resident handler runs next. -/
def execContextSave (s : State) : Host.Outcome State Fault Refusal :=
  launchStep (fun s =>
    match s.launch with
    | none => s
    | some l =>
      match assocGet l.parked (localOf s.core.id) with
      | none => s
      | some old =>
        if l.stage ≠ .preempting ∨ s.core.csr.ctxsaved then s
        else
          let t := spillArrivals (withdrawTakes s)
          if gangSettled t l then saveCore old t else t) s

/-- A launch's saves and restores as a user of tenant memory (R373, kind 6), by the unit at endpoint `src`. -/
def saver (l : Launch) (src : BitVec 21) (part : Nat) : Who :=
  { tenant := l.fn.toNat, kind := 6, src := src, launch := l.id, phase := l.phase, part := part }

/-- A failure while saving or restoring: it waits, ends the launch, or is fatal to the tenant (R381, R413). -/
def saveFailed (w : Who) : VErr → State
  | .waits t => t
  | .fault _ t => t.kill w.launch
  | .poison va t => t.tenantFatal w.tenant 2 w.src w.launch va

/-- A save or restore that ends early in the state that its failure leaves. -/
def orFail {α : Type} (w : Who) : VRun α → Except State α
  | .ok a => .ok a
  | .error e => .error (saveFailed w e)

/-- The full/empty bits, one for each W0 word, in address order. -/
def fullBytes (c : Core) : List Byte :=
  (List.range 8192).map fun i =>
    (List.range 8).foldl (fun b j => if c.empty.contains (8 * i + j) then b else b ||| BitVec.ofNat 8 (2 ^ j)) 0

/-- The remap table: logical entries, then pool entries. -/
def remapBytes (c : Core) : List Byte :=
  wordBytes ((c.remap.toList ++ c.pool.toList).map fun f => f.setWidth 32)

/-- Messages one after another, as a ring that begins at 0 holds them. -/
def ringBytes (l : List Msg) : List Byte := l.foldr (fun m r => msgBytes m ++ r) []

/-- A core's block of the context region up to the overflow area, which lies there already (R286, R379). -/
def coreBlockBytes (c : Core) : List Byte :=
  c.sp.bytes 0 (72 * 4096) ++ fullBytes c ++ padBytes 0x6000 (remapBytes c) ++ padBytes 0x10000 (ringBytes c.ni.spill)

/-- The resident handler has come to the WFI that ends it (R379). -/
def handlerEnds (s : State) : Bool := s.core.handlerEnded

/-- The launch keeps the spill ring as the block of the core in focus holds it: its records say where the ring ends (R380, log 15). -/
def keepSpill (s : State) : State :=
  s.mapMyLaunch fun l =>
    match assocGet l.parked (localOf s.core.id) with
    | none => l
    | some c => { l with parked := assocSet l.parked (localOf s.core.id) { c with ni := { c.ni with spill := s.core.ni.spill } } }

/-- CONTEXT_BLOCK_WRITE (R379): after the handler, the core writes its block from its memory as it stands. -/
def execContextBlockWrite (s : State) : Host.Outcome State Fault Refusal :=
  launchStep (fun s =>
    match s.launch with
    | none => s
    | some l =>
      match coreBlock s l (localOf s.core.id) with
      | none => s
      | some a =>
        if s.entered = false ∨ s.core.csr.ctxsaved = false ∨ s.core.blockSaved ∨ handlerEnds s = false then s
        else
          match orFail (saver l s.core.id 0) (writeVirtual (saver l s.core.id 0) none a (coreBlockBytes s.core) s) with
          | .error t => t
          | .ok t => (keepSpill t).mapCore fun c => { c with blockSaved := true }) s

/-! ## The frontier image (R171 to R173) -/

/-- A run of lines that share their values. -/
structure LineRun where
  len : Nat
  hold : Bool
  hs : Nat
  h : Nat
  deriving DecidableEq, Repr

/-- Maximal runs over lines `x` to the end. -/
def runsFrom (l : Launch) : List Nat → List LineRun
  | [] => []
  | x :: xs =>
    let e := l.lineSt x
    match runsFrom l xs with
    | r :: rs => if r.hold = e.hold ∧ r.hs = e.hs ∧ r.h = e.h then { r with len := r.len + 1 } :: rs else ⟨1, e.hold, e.hs, e.h⟩ :: r :: rs
    | [] => [⟨1, e.hold, e.hs, e.h⟩]

/-- A run record (R172). -/
def runBytes (r : LineRun) : List Byte :=
  bytesOf 8 ((r.len - 1) * 2 ^ 41 + r.hold.toNat * 2 ^ 40 + r.hs * 2 ^ 23 + r.h * 2 ^ 6)

/-- Words 0 to 11 of the image header. -/
def frontierWords (l : Launch) (nruns : Nat) : List Word :=
  let e (i : Nat) : Nat := if i < l.pkt.ndim then l.extent i - 1 else 0
  let v (j : Nat) : Word := ((l.pkt.vecs[j]?).getD 0).setWidth 32
  [BitVec.ofNat 32 (2 ^ 24 + (l.pkt.ndim - 1) * 2 ^ 16 + l.pkt.nvec * 2 ^ 8), l.id, l.phase, BitVec.ofNat 32 l.nlines,
    BitVec.ofNat 32 nruns, 0, BitVec.ofNat 32 (e 1 * 2 ^ 16 + e 0), BitVec.ofNat 32 (e 3 * 2 ^ 16 + e 2), v 0, v 1, v 2, v 3]

/-- The frontier image with a crc word. -/
def frontierWith (l : Launch) (crc : Word) : List Byte :=
  let rs := runsFrom l (List.range l.nlines)
  wordBytes (frontierWords l rs.length ++ [crc, 0, 0, 0]) ++ rs.foldr (fun r b => runBytes r ++ b) []

/-- The frontier image of a launch. -/
def frontierImage (l : Launch) : List Byte := frontierWith l (crc32c (frontierWith l 0))

/-- A run record read. -/
def readRun (b : List Byte) : LineRun × Bool :=
  let n := natOfBytes b
  (⟨n / 2 ^ 41 + 1, n / 2 ^ 40 % 2 == 1, n / 2 ^ 23 % 2 ^ 17, n / 2 ^ 6 % 2 ^ 17⟩, n % 2 ^ 6 == 0)

/-- `n` run records read. -/
def readRunList : Nat → List Byte → List (LineRun × Bool)
  | 0, _ => []
  | n + 1, b => readRun (b.take 8) :: readRunList n (b.drop 8)

/-- The lines that runs describe, from line `x`; a line of zeros is not listed. -/
def linesOf : List LineRun → Nat → List LineSt
  | [], _ => []
  | r :: rs, x =>
    (if r.h = 0 ∧ r.hs = 0 ∧ r.hold = false then []
      else (List.range r.len).map fun i => ⟨x + i, r.h, r.hs, r.hold⟩) ++ linesOf rs (x + r.len)

/-- Tests 5 and 6 of R173 on one line and vector, for heights `f`. -/
def heightOk (l : Launch) (f : LineSt → Nat) (x : Nat) (v : BitVec 19) : Bool :=
  let h := f (l.lineSt x)
  h == 0 || decide (h - 1 < vecSweep v) ||
    match l.minusFace x v with
    | none => true
    | some y => decide (h - 1 - vecSweep v < f (l.lineSt y))

/-- The phase and the frontier that an image of a launch holds; none where R173 refuses it. Its phase is the image's to say. -/
def readFrontier (l : Launch) (hd runs : List Byte) : Option (Word × List LineSt) :=
  let w := wordsOf 16 hd
  let n := (pword w 4).toNat
  let rs := readRunList n runs
  let whole := hd.take 0x30 ++ bytesOf 4 0 ++ hd.drop 0x34 ++ runs
  let g : Launch := { l with lines := linesOf (rs.map fun r => r.1) 0 }
  let xs := List.range l.nlines
  let bounds : Bool := xs.all fun x =>
    decide ((g.lineSt x).hs ≤ (g.lineSt x).h) && decide ((g.lineSt x).h ≤ l.sweep) &&
      (!(g.lineSt x).hold || decide ((g.lineSt x).hs < (g.lineSt x).h))
  let heights : Bool := xs.all fun x =>
    l.pkt.vecs.all fun v => heightOk g (fun e => e.h) x v && heightOk g (fun e => e.hs) x v
  let fits : Bool := w.take 12 == frontierWords { l with phase := pword w 2 } n && (w.drop 13).all (fun x => x == 0) && pword w 12 == crc32c whole &&
    decide (1 ≤ n) && rs.all (fun r => r.2) && rs.foldl (fun a r => a + r.1.len) 0 == l.nlines
  if fits && bounds && heights then some (pword w 2, g.lines) else none

/-! ## The gang's blocks (R381) -/

/-- A barrier's words. -/
def barWords (b : Barrier) : List Word := [b.gen, b.members.setWidth 32, b.arrived.setWidth 32]

/-- A cluster block: sync memory, event-unit state, watchdog. -/
def clusterBytes (l : Launch) (u : Cluster) : List Byte :=
  let g (i : Nat) : Barrier :=
    let x := (l.groups[i]?).getD .reset
    let p := x.part (l.rankOf u.id)
    ⟨x.gen, p.members, p.arrived⟩
  u.sync.bytes 0 4096
    ++ padBytes 0x400 (wordBytes (u.bars.toList.foldr (fun b r => barWords b ++ r) []
        ++ u.evs.toList.map evstatWord ++ (List.range 16).foldr (fun i r => barWords (g i) ++ r) []))
    ++ wordBytes [u.pwdog, BitVec.ofNat 32 u.elapsed]

/-- The launch's span begins here in the tenant's space. -/
def spanBase (s : State) (l : Launch) : Nat := (s.fn l.fn.toNat).ctxBase + (l.span - 1)

/-- The distributor of the package, which writes the blocks of the gang. -/
def distributor (s : State) : BitVec 21 := s.endpoint 0x7FFF

/-- The block of cluster `k` begins here in the tenant's space. -/
def clusterBlock (s : State) (l : Launch) (k : Nat) : Nat := spanBase s l + l.imageBytes + 65536 * l.rankOf k

/-- The frontier image and every cluster block written. -/
def writeGang (l : Launch) (s : State) : VRun State := do
  let w := saver l (distributor s)
  let s ← writeVirtual (w 1) none (spanBase s l) (frontierImage l) s
  l.gang.foldlM (fun t k => writeVirtual (w 2) none (clusterBlock t l k) (clusterBytes l (t.unitAt k)) t) s

/-- A saved core is left: arrivals that found no room in its spill ring wait on the fabric (R380). -/
def leaveCore (s : State) : State :=
  let back := (s.core.ni.held.filter fun h => h.ack).map fun h => h.packet
  let t := s.mapCore fun c => abandon { c with ni := { c.ni with held := [], heldFlag := false, spill := [] } }
  { t with fabric := back ++ t.fabric }

/-- CLUSTER_BLOCK_SAVE (R359, R381): the launch is saved, and its clusters are free. -/
def execClusterBlockSave (l : BitVec 32) (s : State) : Host.Outcome State Fault Refusal :=
  launchStep (fun s =>
    match s.launch? l with
    | none => s
    | some g =>
      if g.stage ≠ .preempting ∨ g.span = 0 ∨ g.members.all (fun m => (s.coreAt m).blockSaved) = false then s
      else
        match orFail (saver g (distributor s) 1) (writeGang g s) with
        | .error t => t
        | .ok t =>
          let units := g.gang.map fun k => (k, t.unitAt k)
          (freeClusters g (t.onCores g.members leaveCore)).mapLaunch l fun g =>
            { g with stage := .saved, parkedUnits := units, lost := g.retiredOf s }) s

/-! ## Reading the images back (R376 to R381) -/

/-- Words `i` to `i + n - 1` of an image. -/
def imageWords (b : List Byte) (off n : Nat) : List Word := wordsOf n ((b.drop off).take (4 * n))

/-- A word of an image. -/
def imageWord (b : List Byte) (off : Nat) : Word := pword (imageWords b off 1) 0

/-- A number of `n` bytes of an image. -/
def imageNum (b : List Byte) (off n : Nat) : Nat := natOfBytes ((b.drop off).take n)

/-- A header that fits the launch and its phase: version, crc, launch and phase (R382). -/
def contextOk (l : Launch) (phase : Word) (b : List Byte) : Bool :=
  let whole := b.take 0x3C ++ bytesOf 4 0 ++ b.drop 0x40
  bitsNat (imageWord b 0) 31 24 == 1 && imageWord b 0x3C == crc32c whole && imageWord b 8 == l.id && imageWord b 0xC == phase

/-- The running point of a header (R377), on the line that its face coordinates name. -/
def readPoint (l : Launch) (b : List Byte) : Option Point :=
  if 1 < bitsNat (imageWord b 0) 1 0 then none
  else
    let c (i : Nat) : BitVec 16 := BitVec.ofNat 16 (imageNum b (0x10 + 2 * i) 2)
    let face := l.pkt.ext.take (l.pkt.ndim - 1)
    some ⟨c 0, c 1, c 2, c 3, (lineOf face ([c 0, c 1, c 2].map fun x => (x.toNat : Int))).getD 0⟩

/-- A loop state of an image. -/
def readLoop (b : List Byte) (off : Nat) : LoopState :=
  ⟨(imageWord b (off + 12)).getLsbD 0, imageWord b off, imageWord b (off + 4), imageWord b (off + 8)⟩

/-- A stream of an image; whether it is mapped, and its last fault, the launch kept. -/
def readStream (b : List Byte) (off : Nat) (old : Stream) : Stream :=
  let w (i : Nat) : Word := imageWord b (off + 4 * i)
  let d (k : Nat) : StreamDesc :=
    ⟨w k, w (k + 1), Vector.ofFn fun i => w (k + 2 + i.val), Vector.ofFn fun i => w (k + 6 + i.val), w (k + 10), w (k + 11)⟩
  { old with desc := d 0, snap := d 12, pos := (w 24).toNat + (w 25).toNat * 2 ^ 32 + (w 26).toNat * 2 ^ 64, seq := (w 27).truncate 16 }

/-- A sequencer entry of an image; none for an empty one. -/
def readSeq (b : List Byte) (off : Nat) (old : List SeqEntry) : Option SeqEntry :=
  let body := (imageWords b off 16).takeWhile (· != 0)
  let m := imageWord b (off + 68)
  let seq : BitVec 16 := (imageWord b (off + 72)).truncate 16
  let kept := old.find? fun q => q.seq == seq
  if body.isEmpty then none
  else
    some { body := body, left := (imageWord b (off + 64)).toNat, done := (kept.map fun q => q.done).getD 0
           rm := m.truncate 3, fz := m.getLsbD 3, seq := seq, streams := (kept.map fun q => q.streams).getD true }

/-- A handle of an image (R238). -/
def readHandle (b : List Byte) (off : Nat) : Handle :=
  let lo := imageWord b off
  let hi := imageWord b (off + 4)
  if hi.getLsbD 14 then
    { cfg := true, base := BitVec.ofNat 32 (bitsNat lo 22 0), size := 4 * (bitsNat hi 13 0 + 1), count := bitsNat hi 22 15 + 1,
      p := bitsNat lo 31 23, c := bitsNat hi 31 23 }
  else .reset

/-- A prediction slot of an image (R252, R261); what PFETCH sampled besides, the launch kept. -/
def readSlot (b : List Byte) (off : Nat) (old : PredSlot) : PredSlot :=
  let st := imageWord b off
  let sq := imageWord b (off + 4)
  let code := bitsNat st 31 29
  if code = 0 then .reset
  else
    { old with
      state := if code = 3 then .exposing else if code = 4 then .exposed else .deferred
      key := imageWord b (off + 8), tidx := (imageWord b (off + 12)).truncate 16
      base := pairOf (imageWord b (off + 16)) (imageWord b (off + 20)), stride := (imageWord b (off + 24)).toNat
      len := bitsNat st 16 14 + 1, dframe := bitsNat st 13 8, seq := sq.extractLsb' 16 16, pidx := sq.truncate 16
      conf := bitsNat st 25 23, tab := st.getLsbD 22, hit := st.getLsbD 26, drop := st.getLsbD 27
      held := none, frames := [], filled := false }

/-- A lock entry of an image (R187); its owner and its place in the order the launch kept. -/
def readLock (b : List Byte) (off : Nat) (old : Option Lock) : Option Lock :=
  let lo := imageWord b off
  let hi := imageWord b (off + 4)
  if lockWord old false = lo ∧ lockWord old true = hi then old
  else if hi.getLsbD 31 then
    some { write := hi.getLsbD 30, engine := hi.extractLsb' 28 2, first := bitsNat lo 17 0, last := bitsNat hi 17 0
           owner := ((old.map fun l => l.owner).getD 0), stamp := ((old.map fun l => l.stamp).getD 0) }
  else none

/-- The queue entries of the matrix engine (R376). -/
def readMatrixQueue (b : List Byte) : List MCmd :=
  (List.range 4).filterMap fun i =>
    let w (k : Nat) : Word := imageWord b (0xCE0 + 16 * i + 4 * k)
    if w 0 = 0 then none
    else
      some { word := w 0, opa := w 1, opb := w 2, seq := (w 3).truncate 16, notice := (w 3).getLsbD 16, remote := (w 3).getLsbD 17
             next := bitsNat (w 3) 24 18, started := (w 3).getLsbD 25, verdict := none }

/-- A plane image read (R376). -/
def readPlane (b : List Byte) (off : Nat) : Plane :=
  let fmt := imageWord b off
  if fmt = 0 then .reset
  else
    { fmt := fmt.truncate 3, expo := imageWords b (off + 4) 32
      rows := (List.range 32).map fun k => (List.range 32).map fun j => BitVec.ofNat 16 (imageNum b (off + 0x100 + 64 * k + 2 * j) 2) }

/-- The accumulator rows that the row table names, from the pool frames of a block; a word that R87 does not admit is found by the
command that reads it (R222). -/
def readRows (b block : List Byte) (pool : Vector (BitVec 7) 8) : List AccRow :=
  (List.range 128).filterMap fun r =>
    let t := imageNum b (0xD40 + r) 1
    let base := ((pool[r / 16]?).getD 0).toNat * 4096 + 256 * (r % 16)
    if t % 4 = 0 then none
    else
      some { row := r, float := t % 4 == 2, cls := BitVec.ofNat 3 (t / 4)
             cells := (List.range 32).map fun j => BitVec.ofNat 64 (imageNum block (base + 8 * j) 8) }

/-- The matrix engine of an image. -/
def readMatrix (b block : List Byte) (pool : Vector (BitVec 7) 8) (old : Matrix) : Matrix :=
  let w (i : Nat) : Word := imageWord b (0xCC0 + 4 * i)
  { old with
    active := readPlane b 0x1800, shadow := readPlane b 0x2100, acc := readRows b block pool
    astr := w 0, dstr := w 1, rscl := w 2, cscl := w 3, next := (w 4).extractLsb' 16 16, done := (w 4).truncate 16
    flags := (w 5).truncate 5, fault := w 6, queue := readMatrixQueue b }

/-- A copy descriptor of an image. -/
def readDesc (b : List Byte) (off : Nat) : CopyDesc :=
  let w (i : Nat) : Word := imageWord b (off + 4 * i)
  ⟨w 0, w 1, w 2, w 3, w 4, w 5, pairOf (w 6) (w 7)⟩

/-- The copy engine of an image; the row index has 7 bits there, and the launch kept the rest, with the mode of each command (log 15). -/
def readCopy (b : List Byte) (old : CopyEng) : CopyEng :=
  let entry (i : Nat) : Option CCmd :=
    let w (k : Nat) : Word := imageWord b (0xDE0 + 48 * i + 4 * k)
    let seq : BitVec 16 := (w 3).truncate 16
    let next := bitsNat (w 3) 24 18
    let kept := old.queue.find? fun q => q.seq == seq
    if w 0 = 0 then none
    else
      some { word := w 0, opa := w 1, opb := w 2, seq := seq, notice := (w 3).getLsbD 16, desc := readDesc b (0xDF0 + 48 * i)
             next := (kept.map fun q => q.next / 128 * 128).getD 0 + next, started := (w 3).getLsbD 25, verdict := none
             user := (kept.map fun q => q.user).getD true }
  let seqs := imageWord b 0xE40
  { desc := readDesc b 0xDC0, queue := [0, 1].filterMap entry, next := seqs.extractLsb' 16 16, done := seqs.truncate 16
    fault := imageWord b 0xE44, got := old.got }

/-- The network interface of an image: the replies that wait for RWAIT the launch kept. -/
def readNet (b : List Byte) (old : NetIf) : NetIf :=
  let taken (i : Nat) : Bool := (imageWord b (0xEC0 + 4 * i)).getLsbD 31
  let st := imageWord b 0xF4C
  { old with
    slots := Vector.ofFn fun i : Fin 32 => if taken i.val then old.slots[i] else none, order := old.order.filter taken
    rfaLo := imageWord b 0xF40, rfaHi := imageWord b 0xF44, rfsent := imageWord b 0xF48
    ovf := st.getLsbD 31, wr := bitsNat st 26 16, rd := bitsNat st 10 0 }

/-- The tag table of an image (R378). -/
def readTags (b : List Byte) : List TagWay :=
  (List.range 256).filterMap fun i =>
    let n := imageNum b (0x1000 + 8 * i) 8
    if n / 2 ^ 63 = 1 then
      some ⟨i / 4, i % 4, BitVec.ofNat 26 (n / 2 ^ 30), BitVec.ofNat 30 n, n / 2 ^ 61 % 4⟩
    else none

/-- An envelope of an image (R266). -/
def readEnvelope (b : List Byte) (off : Nat) : Envelope :=
  { lo := imageWord b off, hi := imageWord b (off + 4)
    lines := (List.range (imageNum b (off + 8) 1)).map fun i =>
      let p := off + 16 + 12 * i
      ⟨imageWord b p, imageWord b (p + 4), (imageWord b (p + 8)).truncate 16⟩ }

/-- The user CSRs of an image. -/
def readCsrs (b : List Byte) (c : Csrs) : Csrs :=
  let k (i : Nat) : Word := imageWord b (0x160 + 4 * i)
  { c with
    fcsr := k 0, pthresh := k 1, etol := k 2, ectl := k 3, estat := k 4, mrcfg := k 5, cfgerr := (k 6).getLsbD 30, utvec := k 7
    ucause := k 8, uval := k 9, uepc := k 10, ustatus := k 11, uie := k 12, uip := setBit (k 13) 5 false, phase := imageWord b 0xC
    ctxsaved := false }

/-- A core read back from its context image `b` and its block; `c` is what the launch kept of it, for what has no place there
(log 15). -/
def readImage (l : Launch) (b block : List Byte) (c : Core) : Core :=
  let inH := (imageWord b 0x18C).getLsbD 2
  let d : Core :=
    { c with
      pc := imageWord b 4, point := readPoint l b, sig := imageWord b 0x18
      x := Vector.ofFn fun i : Fin 32 => imageWord b (0x40 + 4 * i.val)
      shadow := Vector.ofFn fun i : Fin 6 => imageWord b (0xC0 + 4 * i.val)
      f := Vector.ofFn fun i : Fin 32 => imageWord b (0xE0 + 4 * i.val)
      csr := readCsrs b c.csr
      loop := readLoop b (if inH then 0x1B0 else 0x1A0), loopUser := if inH then readLoop b 0x1A0 else c.loopUser
      streams := Vector.ofFn fun i : Fin 6 => readStream b (0x1C0 + 128 * i.val) c.streams[i]
      seqs := (List.range 16).filterMap fun i => readSeq b (0x4C0 + 96 * i) c.seqs
      hnd := Vector.ofFn fun i : Fin 8 => readHandle b (0xAC0 + 8 * i.val)
      layouts := Vector.ofFn fun i : Fin 8 => BitVec.ofNat 64 (imageNum b (0xB00 + 8 * i.val) 8)
      slots := Vector.ofFn fun i : Fin 8 => readSlot b (0xB40 + 32 * i.val) c.slots[i]
      locks := Vector.ofFn fun i : Fin 16 => readLock b (0xC40 + 8 * i.val) c.locks[i]
      mx := readMatrix b block c.pool c.mx, cp := readCopy b c.cp, ni := readNet b c.ni, tags := readTags b
      env := Vector.ofFn fun i : Fin 8 => readEnvelope b (0x2A00 + 1552 * i.val) }
  if d.csr.ustatus.getLsbD 3 then swapShadow d else d

/-- A frame number of the remap table of a core block. -/
def readFrame (b : List Byte) (i : Nat) : BitVec 7 := (imageWord b (0x4A000 + 4 * i)).truncate 7

/-- The empty words that the full/empty bits of a core block show. -/
def readEmpty (b : List Byte) : List Nat :=
  let bits := (b.drop 0x48000).take 0x2000
  (List.range 65536).filter fun w => !(((bits[w / 8]?).getD 0).getLsbD (w % 8))

/-- The memories of a core read back from its block (R379). -/
def readBlockOf (b : List Byte) (c : Core) : Core :=
  { c with
    sp := Memory.put [] 0 (b.take (72 * 4096)), empty := readEmpty b
    remap := Vector.ofFn fun i => readFrame b i.val, pool := Vector.ofFn fun i => readFrame b (64 + i.val) }

/-- The context image inside a core block: the frames that hold W0 from cbase. -/
def imageIn (b : List Byte) : List Byte :=
  (List.range 6).foldr (fun i l => (b.drop ((readFrame b (58 + i)).toNat * 4096)).take 4096 ++ l) []

/-- `n` records of a spill ring, which begins at 0. -/
def readRecords : Nat → List Byte → List Msg
  | 0, _ => []
  | n + 1, b =>
    let h : DWord := BitVec.ofNat 64 (natOfBytes (b.take 8))
    { hdr := h, payload := (b.drop 8).take (32 * hdrUnits h - 8), member := false } :: readRecords n (b.drop (32 * hdrUnits h))

/-- A spilled message, as read back, waits again at the interface of core `c`; its sender has had its acknowledgement. -/
def heldAgain (c : Core) (x : Msg × Msg) : Held :=
  { packet := { src := hdrEp x.1.hdr, dst := c.id, tenant := c.tenant, slot := 0, body := .msg x.1.hdr x.1.payload }
    ack := false, kept := !x.2.member }

/-- A barrier's words read. -/
def readBarrier (b : List Byte) (off : Nat) : Barrier :=
  ⟨imageWord b off, (imageWord b (off + 4)).truncate 17, (imageWord b (off + 8)).truncate 17⟩

/-- An event line read from its EVSTAT word; those who waited issue again (R316). -/
def readEvLine (w : Word) : EvLine :=
  { count := bitsNat w 15 0, ovf := w.getLsbD 30, owner := if w.getLsbD 31 then some (bitsNat w 20 16) else none
    waiters := [], lockers := [] }

/-! ## Resume (R382) -/

/-- What a resume reads. -/
structure Saved where
  text : List Byte
  units : List (Nat × List Byte)
  head : List Byte
  runs : List Byte
  deriving DecidableEq, Repr

/-- The kernel image could not be read at a resume: it waits, or the launch ends. -/
def textFailed (id : Word) : VErr → State
  | .waits t => t
  | .fault _ t => t.kill id
  | .poison _ t => t.kill id

/-- The text of a launch read from its kernel image (R352, R382). -/
def readText (l : Launch) (s : State) : VRun (List Byte × State) := do
  let w := saver l (distributor s) 3
  let (hd, s) ← readVirtual w l.pkt.kimg 32 s
  readVirtual w (l.pkt.kimg + 32) (min 262144 (pword (wordsOf 8 hd) 0).toNat) s

/-- What a resume reads up to the check of the frontier image, in the order of R382; an error is the state that it leaves. -/
def readSaved (l : Launch) (s : State) : Except State (Saved × State) := do
  let w := saver l (distributor s) 3
  let (text, s) ← (match readText l s with
    | .ok r => .ok r
    | .error e => .error (textFailed l.id e))
  let (units, s) ← l.gang.foldlM (fun (a : List (Nat × List Byte) × State) k => do
    let (b, t) ← orFail w (readVirtual w (clusterBlock a.2 l k) 0x1408 a.2)
    return (a.1 ++ [(k, b)], t)) ([], s)
  let (head, s) ← orFail w (readVirtual w (spanBase s l) 64 s)
  let n := min (pword (wordsOf 16 head) 4).toNat l.nlines
  let (runs, s) ← orFail w (readVirtual w (spanBase s l + 64) (8 * n) s)
  return (⟨text, units, head, runs⟩, s)

/-- The core blocks, read once the frontier image has been accepted (R382). -/
def readBlocks (l : Launch) (s : State) : Except State (List (Nat × List Byte) × State) :=
  l.members.foldlM (fun (a : List (Nat × List Byte) × State) m => do
    let w := saver l (a.2.endpoint m) 3
    let (b, t) ← orFail w (readVirtual w ((coreBlock a.2 l m).getD 0) 0x60000 a.2)
    return (a.1 ++ [(m, b)], t)) ([], s)

/-- The bytes read of a cluster's block. -/
def Saved.unit (d : Saved) (k : Nat) : List Byte := ((d.units.find? fun e => e.1 == k).map fun e => e.2).getD []

/-- A cluster unit with text and block restored (R381, R382); snapshots of the phase start the launch kept (log 15). -/
def resumeUnit (l : Launch) (d : Saved) (u : Cluster) : Cluster :=
  let old := (assocGet l.parkedUnits u.id).getD u
  let b := d.unit u.id
  { u with
    istore := u.istore.put 0 d.text, launch := some l.id, key := some l.key
    sync := Memory.put [] 0 (b.take 4096), syncSnap := old.syncSnap
    bars := Vector.ofFn fun i : Fin 32 => readBarrier b (0x1000 + 12 * i.val), barsSnap := old.barsSnap
    evs := Vector.ofFn fun i : Fin 32 => readEvLine (imageWord b (0x1180 + 4 * i.val)), evsSnap := old.evsSnap
    pwdog := imageWord b 0x1400, limit := old.limit, elapsed := (imageWord b 0x1404).toNat }

/-- A device group from its words in the cluster blocks. -/
def readGroup (l : Launch) (d : Saved) (i : Nat) : Group :=
  let at_ (r : Nat) : Barrier := readBarrier (d.unit ((l.gang[r]?).getD 0)) (0x1200 + 12 * i)
  ⟨(at_ 0).gen, (List.range l.gang.length).map fun r => ⟨r, (at_ r).members, (at_ r).arrived⟩⟩

/-- A core restored (R382): user mode, supervisor CSRs as before the entry; spilled arrivals come before any newer one (R298,
R380). -/
def resumeCore (l : Launch) (m : Nat) (b : List Byte) (s : State) : State :=
  let k := s.core
  let c := readImage l (imageIn b) b (readBlockOf b { (assocGet l.parked m).getD k with imem := k.imem })
  let held := ((readRecords c.ni.spill.length (b.drop 0x50000)).zip c.ni.spill).map (heldAgain k) ++ k.ni.held
  settleRing (s.mapCore fun _ =>
    { c with
      id := k.id, mode := .user, halt := none, stalled := false, handlerEnded := false, blockSaved := false, csr := { c.csr with sip := k.csr.sip }
      ni := { c.ni with held := held, heldFlag := !held.isEmpty, spill := [] } })

/-- A core of the launch's clusters was retired since it left them (R382). -/
def coreLost (s : State) (l : Launch) : Bool := (l.retiredOf s).any fun m => !l.lost.contains m

/-- The launch runs again, in the phase and from the frontier of its image. -/
def resumeGang (l : Launch) (d : Saved) (cores : List (Nat × List Byte)) (phase : Word) (ls : List LineSt) (s : State) : State :=
  let s1 := (shelve l s).onUnits l.gang (resumeUnit l d)
  let s2 := s1.mapLaunch l.id fun g =>
    { g with
      stage := .running, phase := phase, lines := ls, groups := Vector.ofFn fun i : Fin 16 => readGroup l d i.val
      placedAt := s.cycle.toNat, parked := [], parkedUnits := [], backlog := [] }
  let s3 := { s2 with fabric := l.backlog ++ s2.fabric }
  cores.foldl (fun t e => t.at e.1 (resumeCore l e.1 e.2)) s3

/-- LAUNCH_RESUME (R359, R382): the head of its function, once the clusters that it left are free. -/
def execLaunchResume (l : BitVec 32) (s : State) : Host.Outcome State Fault Refusal :=
  launchStep (fun s =>
    match s.launch? l with
    | none => s
    | some g =>
      if g.stage ≠ .saved ∨ (selected s g.fn.toNat).map (fun h => h.id) ≠ some l ∨ fitsOn g (freeClustersOf s g.fn.toNat) = false then s
      else if coreLost s g then s.kill l
      else if g.parked.isEmpty then (takeGang g s).mapLaunch l fun g => { g with stage := .placed, placedAt := s.cycle.toNat }
      else
        match readSaved g s with
        | .error t => t
        | .ok (d, t) =>
          match readFrontier g d.head d.runs with
          | none => t.kill l
          | some (phase, ls) =>
            match readBlocks g t with
            | .error u => u
            | .ok (cores, u) =>
              if cores.all fun e => contextOk g phase (imageIn e.2) then resumeGang g d cores phase ls u else u.kill l) s

end Sys2Proof.Machine
end

