-- ==== Sys2Proof/Machine/Resets.lean ====
section
/-!
DEFINITION. The resets (R434), the boot (R435), configuration requests, and the preparation of a cluster (R364).
-/

namespace Sys2Proof.Machine
open Sys2Proof

/-! ## Cold and warm reset (R434) -/

/-- The units of a package after a reset: a withdrawn cluster stays withdrawn, as the non-volatile store says (R417,
R435). -/
def unitsAfter (s : State) : List (Nat × Cluster) :=
  ((s.unit.id, s.unit) :: s.units).foldl (fun l e =>
    if e.2.withdrawn ∧ e.1 ≠ 0 then assocSet l e.1 { Cluster.reset e.1 with withdrawn := true } else l) []

/-- What both resets leave: core 0 of the package in focus, every other core, unit and function as reset leaves it.
The schedule, the inputs and the counter of free values are the model's own. -/
def freshPackage (s : State) : State :=
  let pkg := s.pkg
  { State.reset with
    core := .reset (BitVec.ofNat 21 (pkg * 0x8000))
    unit := { Cluster.reset 0 with withdrawn := (s.unitAt 0).withdrawn }
    units := unitsAfter s
    lease := { LeaseUnit.reset with domain := BitVec.ofNat 64 (2 ^ pkg) }
    flint := { Flint.reset with
      identity := s.flint.identity, lastNonce := s.flint.lastNonce, ckImages := s.flint.ckImages,
      coldResets := s.flint.coldResets, life := s.flint.life, keys := s.flint.keys, gens := s.flint.gens
      roots := s.flint.roots, minVersion := s.flint.minVersion }
    quartz := { Quartz.reset with
      retired := s.quartz.retired, spared := s.quartz.spared, images := s.quartz.images }
    inputs := s.inputs, schedule := s.schedule, free := s.free }

/-- Tenant keys exist in this lifecycle state (R426). -/
def hasKeys (l : Life) : Bool := l == .provisioned || l == .awaiting

/-- Flint after a cold reset (R421, R426): locked is left for awaiting-quote, with every generation incremented, and the keys are those of
draw `n`. -/
def coldFlint (n : Nat) (f : Flint) : Flint :=
  let life := if f.life = .locked then .awaiting else f.life
  { f with
    life := life, gens := if f.life = .locked then nextGens f.gens else f.gens, coldResets := f.coldResets + 1
    keys := if hasKeys life then newKeys n else .replicate 32 none }

/-- A cold reset: every field takes its reset value, and HBM holds nothing. -/
def coldReset (s : State) : State := (freshPackage s).draw.mapFlint (coldFlint (s.free + 1))

/-- The slots whose images a warm reset loads anew; Flint's and Quartz's own go on running (R436). -/
def warmSlots : List Nat := [2, 3, 4]

/-- A warm reset keeps HBM, keys, generations, the lifecycle, ALMSTAT.level, CYCLE and the field-test records, and with the frequencies of
the islands their throttling; the locked state stays Fatal. -/
def warmReset (s : State) : State :=
  let t := freshPackage s
  { t with
    hbm := s.hbm, blocks := s.blocks, cycle := s.cycle
    flint := { t.flint with
      level := s.flint.level, measures := Vector.ofFn fun i => if warmSlots.contains i.val then 0 else s.flint.measures[i] }
    quartz := { t.quartz with
      records := s.quartz.records, boot := 2, freq := s.quartz.freq, throttled := s.quartz.throttled
      loaded := s.quartz.loaded.filter fun e => !warmSlots.contains e.1, fatal := s.flint.life == .locked } }

/-- COLD_RESET (R434). -/
def execColdReset (s : State) : Host.Outcome State Fault Refusal := happen coldReset s

/-- WARM_RESET (R434). -/
def execWarmReset (s : State) : Host.Outcome State Fault Refusal := happen warmReset s

/-- A write of FRST: ignored on virtual functions (R432). -/
def frstStore (t : Nat) (v : Word) (s : State) : State := if t = 0 ∧ v.getLsbD 0 then warmReset s else s

/-- FRST_WARM (R432). -/
def execFrstWarm (t : BitVec 5) (s : State) : Host.Outcome State Fault Refusal := hostStep (frstStore t.toNat 1) s

/-! ## Function-level reset (R421, R434) -/

/-- The clusters that a tenant owns. -/
def clustersOf (s : State) (t : Nat) : List Nat := (List.range 1024).filter fun k => (s.unitAt k).owner.toNat == t

/-- New keys for tenant `t` of draw `n`, in place of its erased ones, with its generation incremented (R421). -/
def rekey (n : Nat) (t : BitVec 5) (f : Flint) : Flint :=
  { f with
    gens := vmod f.gens t.toNat (· + 1)
    keys := f.keys.set t.toNat (if hasKeys f.life then some (newKey n t.toNat) else none) t.isLt }

/-- The function-level reset of virtual function `t`; disabling the function does the same (R393, R421; log 19). -/
def functionReset (t : BitVec 5) (s : State) : State :=
  let n := t.toNat
  let mine := (s.launches.filter fun l => l.fn == t).map fun l => l.id
  let s1 := mine.foldl (fun u id => u.kill id) s
  let s2 := s1.onUnits (clustersOf s1 n) fun u => { u with ownBusy := true }
  let s3 := endTenantLeases t s2
  let s4 := s3.draw.mapFlint (rekey (s3.free + 1) t)
  (s4.mapFn n fun _ => .reset).mapQuartz fun q => { q with msixPend := q.msixPend.filter fun e => e.1 != t }

/-- VF_FUNCTION_LEVEL_RESET (R434): on the physical function it is a warm reset. -/
def execVfFunctionLevelReset (t : BitVec 5) (s : State) : Host.Outcome State Fault Refusal :=
  happen (fun s => if t = 0 then warmReset s else functionReset t s) s

/-! ## The boot (R435) -/

/-- The slots whose images a boot loads: all after a cold reset, the last three after a warm one (R435, R436). -/
def bootSlots (s : State) : List Nat := if s.quartz.boot = 0 then [0, 1] ++ warmSlots else warmSlots

/-- Flint refuses the stored image of slot `i` by its signatures or its version (R427). -/
def refusesImage (s : State) (i : Nat) : Bool := ((assocGet s.quartz.images i).bind (imageFault s.flint i)).isSome

/-- No image of Flint or of Quartz runs, and a warm reset, which loads neither, goes on to the boot (R436). -/
def firmwareMissing (s : State) : Bool := s.quartz.boot != 0 && [0, 1].any fun i => (assocGet s.quartz.loaded i).isNone

/-- Flint refuses an image that the boot loads (R427), or has none to load it with; `ok` says that every image was read as it was stored,
and that those as delivered pass. -/
def imagesRefused (ok : Bool) (s : State) : Bool := !ok || firmwareMissing s || (bootSlots s).any (refusesImage s)

/-- The slots that a boot loads before it meets an image that is refused, in slot order (R435, steps 2 and 4). DESIGN CHOICE (log 25): which
one that was is a free value where it was not a stored one. -/
def bootLoads (ok : Bool) (s : State) : List Nat :=
  let l := (bootSlots s).takeWhile fun i => !refusesImage s i
  if firmwareMissing s then [] else if ok then l else l.take ((Config.openWord s.free).toNat % (bootSlots s).length)

/-- The measurement of the image of slot `i` (R427). -/
def measureOf (s : State) (i : Nat) : BitVec 384 :=
  match assocGet s.quartz.images i with
  | some m => Config.sha384 m.len m.words
  | none => Config.factoryMeasure i

/-- The image of slot `i` loaded and measured (R427, R435). -/
def loadFirmware (s : State) (i : Nat) : State :=
  (s.mapQuartz fun q => { q with loaded := assocSet q.loaded i (assocGet q.images i) }).mapFlint fun f =>
    { f with measures := f.measures.setIfInBounds i (measureOf s i) }

/-- BOOT (R435): from where the reset left it to FSTAT.ready with the images loaded, or held in recovery by a refused image, with those before it
loaded and measured; only a reset leaves the hold. -/
def execBoot (ok : Bool) (s : State) : Host.Outcome State Fault Refusal :=
  happen (fun s =>
    if s.quartz.ready || s.quartz.recov || s.quartz.off then s
    else if imagesRefused ok s then
      ((bootLoads ok s).foldl loadFirmware s.draw).mapQuartz fun q =>
        { q with boot := 2, recov := true, freq := if q.boot = 0 then .replicate 8 425 else q.freq }
    else
      ((bootSlots s).foldl loadFirmware s).mapQuartz fun q =>
        { q with boot := 6, ready := true, freq := .replicate 8 850, throttled := [] }) s

/-- CONFIG_REQUEST (R435): retry status until step 6; in recovery only the physical function is presented. -/
def execConfigRequest (t : BitVec 5) (s : State) : Host.Outcome State Fault Refusal :=
  happen (fun s => s.mapQuartz fun q => { q with crs := !(q.ready || (q.recov && t == 0)) }) s

/-! ## Preparation of a cluster (R364) -/

/-- A core scrubbed, compute core or steward: frames, full/empty bits, and the x, f, shadow and envelope registers, all zero. -/
def scrubCore (c : Core) : Core :=
  { c with
    sp := [], empty := [], x := .replicate 32 0, f := .replicate 32 0, shadow := .replicate 6 0
    env := .replicate 8 ⟨0, 0, []⟩ }

/-- SCTX.tenant written by Quartz (R43, R364). -/
def assignTenant (t : BitVec 5) (s : State) : State :=
  writeSctx (setField s.core.csr.sctx 16 5 t.toNat) s

/-- A cluster unit scrubbed: instruction store, sync memory, event unit and predictor table. -/
def scrubUnit (u : Cluster) : Cluster :=
  { u with
    istore := [], sync := [], syncSnap := [], bars := .replicate 32 .reset, barsSnap := .replicate 32 .reset
    evs := .replicate 32 .reset, evsSnap := .replicate 32 .reset, pred := [], predq := [], ownBusy := false }

/-- CLUSTER_PREPARATION_DONE (R364). An arrival that a core still holds for the old owner is refused. -/
def execClusterPreparationDone (c : BitVec 10) (s : State) : Host.Outcome State Fault Refusal :=
  happen (fun s =>
    let k := c.toNat
    if (s.unitAt k).ownBusy then
      let t := (s.unitAt k).owner
      (s.onCores (coresOf k ++ [0x4000 + k]) fun u =>
        (assignTenant t ((dropHeld u).mapCore scrubCore)).mapCore fun c => { c with tags := [] }).onUnits [k] scrubUnit
    else s) s

end Sys2Proof.Machine
end

