-- ==== Sys2Proof/Machine/Device.lean ====
section
/-!
DEFINITION. The registers outside the cores: the management window of region 5 (R366, R398, R419, R425, R429, R436,
R440), the registers of a function (R347, R371 to R374, R414, R432), and what the host does to them.
-/

namespace Sys2Proof.Machine
open Sys2Proof

/-! ## Tenant control (R366) -/

/-- CLOWN. -/
def clownWord (u : Cluster) : Word :=
  BitVec.ofNat 32 (u.ownBusy.toNat * 2 ^ 31 + u.ownErr.toNat * 2 ^ 30 + u.owner.toNat)

/-- Cluster `k` holds a gang or a saved context. -/
def clusterHeld (s : State) (k : Nat) : Bool :=
  (s.unitAt k).launch.isSome || s.launches.any fun l => l.stage == .saved && l.gang.contains k

/-- A write of CLOWN.owner: ignored while busy, refused while the cluster is held; a new value starts the
preparation. -/
def ownerStore (k : Nat) (t : BitVec 5) (s : State) : State :=
  if (s.unitAt k).ownBusy || (s.unitAt k).owner == t then s
  else if clusterHeld s k then s.onUnits [k] fun u => { u with ownErr := true }
  else s.onUnits [k] fun u => { u with owner := t, ownBusy := true }

/-- A write of CLOWN. -/
def clownStore (k : Nat) (v : Word) (s : State) : State :=
  ownerStore k (v.truncate 5) (s.onUnits [k] fun u => { u with ownErr := u.ownErr && !v.getLsbD 30 })

/-- CLOWN_OWNER_WRITE (R366), by the physical function. -/
def execClownOwnerWrite (c : BitVec 10) (t : BitVec 5) (s : State) : Host.Outcome State Fault Refusal :=
  hostStep (ownerStore c.toNat t) s

/-- SYNCE of entry `i` = 32 s + t. -/
def synceWord (s : State) (i : Nat) : DWord :=
  let e := (assocGet s.syncTab i).getD 0
  BitVec.ofNat 64 (e % 2 * 2 ^ 63 + (e - e % 2))

/-- A write of SYNCE: ignored where the stack field is 24 or above. -/
def synceStore (i : Nat) (v : DWord) (s : State) : State :=
  if 24 ≤ (v.extractLsb' 36 5).toNat then s
  else { s with syncTab := assocSet s.syncTab i ((v.extractLsb' 20 21).toNat * 2 ^ 20 + (v.getLsbD 63).toNat) }

/-- One word of a SYNCE entry written; the other keeps its value. -/
def synceHalf (i : Nat) (high : Bool) (v : Word) (s : State) : State :=
  let old := synceWord s i
  synceStore i (if high then pairOf old.lo v else pairOf v old.hi) s

/-- INGR of entry `i` = 32 a + t. -/
def ingrWord (s : State) (i : Nat) : Word :=
  let e := (assocGet s.lease.ingress i).getD 0
  BitVec.ofNat 32 ((e.getLsbD 5).toNat * 2 ^ 31 + e.toNat % 32)

/-- The tenant-control block, read. -/
def tenantLoad (s : State) (o : Nat) : Word :=
  if o < 0x1000 then clownWord (s.unitAt (o / 4))
  else if 0x1000 ≤ o ∧ o < 0x1080 then BitVec.ofNat 32 (budgetOf s (BitVec.ofNat 5 ((o - 0x1000) / 4)))
  else if 0x10000 ≤ o ∧ o < 0x40000 then
    let v := synceWord s ((o - 0x10000) / 8)
    if o % 8 = 4 then v.hi else v.lo
  else if 0x40000 ≤ o ∧ o < 0x42000 then ingrWord s ((o - 0x40000) / 4)
  else 0

/-- The tenant-control block, written. -/
def tenantStore (o : Nat) (v : Word) (s : State) : State :=
  if o < 0x1000 then clownStore (o / 4) v s
  else if 0x1000 ≤ o ∧ o < 0x1080 then
    s.mapLease fun u => { u with lbud := assocSet u.lbud ((o - 0x1000) / 4) (min 256 (bitsNat v 8 0)) }
  else if 0x10000 ≤ o ∧ o < 0x40000 then synceHalf ((o - 0x10000) / 8) (o % 8 == 4) v s
  else if 0x40000 ≤ o ∧ o < 0x42000 then
    let i := (o - 0x40000) / 4
    ingrStore (BitVec.ofNat 6 (i / 32)) (BitVec.ofNat 5 i) v s
  else s

/-! ## Gateways (R398) -/

/-- BUNST of a bundle. -/
def bunstWord (x : Bundle) : Word :=
  BitVec.ofNat 32
    (x.state.toNat * 2 ^ 29 + x.peer.toNat * 2 ^ 23 + x.tenant.toNat * 2 ^ 18 + x.rxlive * 2 ^ 8 + x.txlive)

/-- A gateway register, read: gateway `k`, offset `o`. -/
def gatewayLoad (s : State) (k o : Nat) : Word :=
  if o = 0 then BitVec.ofNat 32 ((assocGet s.lease.flowgap k).getD 300)
  else if 0x100 ≤ o ∧ o < 0x140 then bunstWord (bundleAt s.lease (16 * k + (o - 0x100) / 4))
  else 0

/-- A gateway register, written: a flowlet gap below 50 stores 50. -/
def gatewayStore (k o : Nat) (v : Word) (s : State) : State :=
  if o = 0 then s.mapLease fun u => { u with flowgap := assocSet u.flowgap k (max 50 (bitsNat v 15 0)) } else s

/-! ## Flint's blocks -/

/-- The alarm block (R425), read. -/
def alarmLoad (o : Nat) (s : State) : Word × State :=
  if o = 0 then (s.flint.almctl, s)
  else if o = 4 then almstatLoad s
  else if 0x10 ≤ o ∧ o < 0x90 then (almt s ((o - 0x10) / 4), s)
  else (0, s)

/-- The quote block (R429), read. -/
def quoteLoad (o : Nat) (s : State) : Word :=
  if s.flint.life = .decommissioned then 0
  else if o = 4 then qtstat s
  else if 0x20 ≤ o ∧ o < 0x40 then (s.flint.nonce[(o - 0x20) / 4]?).getD 0
  else if 0x1000 ≤ o ∧ o < 0x1E80 then (s.flint.qbuf[(o - 0x1000) / 4]?).getD 0
  else 0

/-- The quote block, written. -/
def quoteStore (o : Nat) (v : Word) (s : State) : State :=
  if o = 0 then (if v.getLsbD 31 then quoteGo s else s)
  else if s.flint.life = .decommissioned then s
  else if o = 4 then qtstatWrite v s
  else if 0x20 ≤ o ∧ o < 0x40 then nonceWrite ((o - 0x20) / 4) v s
  else s

/-- The checkpoint block (R440), read. -/
def checkpointLoad (s : State) (o : Nat) : Word :=
  if o = 0 then s.flint.ckctl
  else if o = 4 then s.flint.ckLo
  else if o = 8 then s.flint.ckHi
  else if o = 0xC then ckstat s
  else if o = 0x10 then s.flint.ckrx
  else 0

/-- The checkpoint block, written. -/
def checkpointStore (o : Nat) (v : Word) (s : State) : State :=
  if o = 0 then ckctlWrite v s
  else if o = 4 then s.mapFlint fun f => { f with ckLo := v &&& 0xFFFFF000#32 }
  else if o = 8 then s.mapFlint fun f => { f with ckHi := v }
  else if o = 0xC then ckstatWrite v s
  else if o = 0x10 then ckrxStore v s
  else s

/-- The recovery mailbox (R436), read. -/
def recoveryLoad (s : State) (o : Nat) : Word :=
  if o = 0 then s.flint.rmslot.setWidth 32
  else if o = 4 then s.flint.rmlen
  else if o = 8 then rmstat s
  else 0

/-- The recovery mailbox, written. -/
def recoveryStore (o : Nat) (v : Word) (s : State) : State :=
  if o = 0 then rmctlWrite v s
  else if o = 4 then s.mapFlint fun f => { f with rmlen := v &&& 0x1FFFFF#32 }
  else if o = 8 then rmstatWrite v s
  else s

/-! ## The management window (R431) -/

/-- A word of region 5 read at an offset that is a multiple of 4; an unlisted offset reads zero. -/
def mgmtLoad (o : Nat) (s : State) : Word × State :=
  if 0x400000 ≤ o ∧ o < 0x410000 then (gatewayLoad s ((o - 0x400000) / 0x1000) (o % 0x1000), s)
  else if 0x500000 ≤ o ∧ o < 0x542000 then (tenantLoad s (o - 0x500000), s)
  else if 0x800000 ≤ o ∧ o < 0x810000 then
    ((((s.quartz.records[(o - 0x800000) / 16]?).map recWords).getD [])[o % 16 / 4]?.getD 0, s)
  else if 0xC00000 ≤ o ∧ o < 0xC10000 then alarmLoad (o - 0xC00000) s
  else if 0xC10000 ≤ o ∧ o < 0xC20000 then (quoteLoad (o - 0xC10000) s, s)
  else if 0xD00000 ≤ o ∧ o < 0xD10000 then (checkpointLoad s (o - 0xD00000), s)
  else if 0xE00000 ≤ o ∧ o < 0xE10000 then (recoveryLoad s (o - 0xE00000), s)
  else if 0xF00000 ≤ o ∧ o < 0x1000000 then ((assocGet s.flint.rmbuf ((o - 0xF00000) / 4)).getD 0, s)
  else (0, s)

/-- A word of region 5 written; a write to an unlisted offset is ignored. -/
def mgmtStore (o : Nat) (v : Word) (s : State) : State :=
  if 0x400000 ≤ o ∧ o < 0x410000 then gatewayStore ((o - 0x400000) / 0x1000) (o % 0x1000) v s
  else if 0x500000 ≤ o ∧ o < 0x542000 then tenantStore (o - 0x500000) v s
  else if 0xC00000 ≤ o ∧ o < 0xC10000 then (if o = 0xC00000 then almctlWrite v s else s)
  else if 0xC10000 ≤ o ∧ o < 0xC20000 then quoteStore (o - 0xC10000) v s
  else if 0xD00000 ≤ o ∧ o < 0xD10000 then checkpointStore (o - 0xD00000) v s
  else if 0xE00000 ≤ o ∧ o < 0xE10000 then recoveryStore (o - 0xE00000) v s
  else if 0xF00000 ≤ o ∧ o < 0x1000000 then
    s.mapFlint fun f => { f with rmbuf := assocSet f.rmbuf ((o - 0xF00000) / 4) v }
  else s

/-- `z` bytes of region 5 read: 8 bytes are two words, the low one first. -/
def mgmtRead (o z : Nat) (s : State) : DWord × State :=
  if z = 8 then
    let (lo, s1) := mgmtLoad o s
    let (hi, s2) := mgmtLoad (o + 4) s1
    (pairOf lo hi, s2)
  else ((mgmtLoad o s).1.setWidth 64, (mgmtLoad o s).2)

/-- `z` bytes of region 5 written: a SYNCE entry is written whole, anything else word by word. -/
def mgmtWrite (o z : Nat) (v : DWord) (s : State) : State :=
  if z = 8 then
    if 0x510000 ≤ o ∧ o < 0x540000 then synceStore ((o - 0x510000) / 8) v s
    else mgmtStore (o + 4) v.hi (mgmtStore o v.lo s)
  else mgmtStore o v.lo s

/-! ## The fault queue and translation registers of a function (R371 to R374, R414) -/

/-- Word `i` of a fault record (R373). -/
def recordWord (r : FRec) (i : Nat) : Word :=
  match i with
  | 0 => BitVec.ofNat 32 r.va
  | 1 => BitVec.ofNat 32 (r.va / 2 ^ 32 % 512)
  | 2 => BitVec.ofNat 32 (r.kind.toNat * 2 ^ 28 + r.why.toNat * 2 ^ 24 + r.src.toNat)
  | 3 => r.launch
  | 4 => r.phase
  | 5 => BitVec.ofNat 32 (r.waiters * 2 ^ 16)
  | 6 => r.time.lo
  | _ => r.time.hi

/-- The unanswered record in a slot of a function's queue. -/
def openRecord (s : State) (t slot : Nat) : Option FRec := (s.fn t).records.find? fun r => r.slot == slot && !r.answered

/-- A record of a function changed. -/
def mapRecord (t slot : Nat) (f : FRec → FRec) (s : State) : State :=
  s.mapFn t fun h => { h with records := h.records.map fun r => if r.slot = slot then f r else r }

/-- Records that waited enter where a slot is free now. -/
def settleQueue (t : Nat) (s : State) : State := fqDrain ((s.fn t).fqwait.length + 1) t s

/-- A cached translation of a tenant that covers an address. -/
def covers (t va : Nat) (e : AtcEnt) : Bool := e.tenant.toNat == t && decide (e.va ≤ va) && decide (va < e.va + 2 ^ e.bits)

/-- FQRESP retry (R374): every request of the record translates again, before any that came later, and the device walks again: no cached
leaf of the address answers them. -/
def fqRetry (t slot : Nat) (s : State) : State :=
  match openRecord s t slot with
  | none => s
  | some r =>
    let u := mapRecord t slot (fun x => { x with answered := true, reqs := [], asks := [] }) s
    settleQueue t { u with fabric := r.reqs ++ u.fabric, atc := u.atc.filter fun e => !covers t r.va e }

/-- FQRESP fail (R374): every request of the record completes as non-replayable, each with its own address. -/
def fqFail (t slot : Nat) (s : State) : State :=
  match openRecord s t slot with
  | none => s
  | some r =>
    let u := mapRecord t slot (fun x => { x with answered := true, reqs := [] }) s
    settleQueue t (r.reqs.foldl State.failXlate u)

/-- A write of FQRESP. -/
def fqrespStore (t : Nat) (v : Word) (s : State) : State :=
  if v.getLsbD 31 then fqFail t (bitsNat v 5 0) s else fqRetry t (bitsNat v 5 0) s

/-- A write of FQTAIL: slots are free, and faults that waited enter in arrival order. -/
def fqtailStore (t : Nat) (v : Word) (s : State) : State :=
  settleQueue t (s.mapFn t fun h => { h with fqtail := bitsNat v 6 0 })

/-- A write of ATCINV.lo: an order of 26 to 31 stores 25. -/
def atcLoStore (t : Nat) (v : Word) (s : State) : State :=
  s.mapFn t fun h => { h with atcinvLo := BitVec.ofNat 32 (bitsNat v 31 16 * 2 ^ 16 + min 25 (bitsNat v 4 0)) }

/-- A write of ATCINV.hi starts an invalidation of the range that lo and hi name now, unless one is in progress (R372). -/
def atcHiStore (t : Nat) (v : Word) (s : State) : State :=
  s.mapFn t fun h => if h.atcBusy then h else { h with atcinvHi := v &&& 0x1FF, atcBusy := true, atcTaken := h.atcinvLo }

/-- FQRESP_RETRY (R374). -/
def execFqrespRetry (t : BitVec 5) (r : BitVec 6) (s : State) : Host.Outcome State Fault Refusal :=
  queueStep (fqRetry t.toNat r.toNat) s

/-- FQRESP_FAIL (R374). -/
def execFqrespFail (t : BitVec 5) (r : BitVec 6) (s : State) : Host.Outcome State Fault Refusal :=
  queueStep (fqFail t.toNat r.toNat) s

/-- FQTAIL_WRITE (R374). -/
def execFqtailWrite (t : BitVec 5) (v : BitVec 32) (s : State) : Host.Outcome State Fault Refusal :=
  queueStep (fqtailStore t.toNat v) s

/-- ATCINV_WRITE (R372). -/
def execAtcinvWrite (t : BitVec 5) (v : BitVec 32) (s : State) : Host.Outcome State Fault Refusal :=
  queueStep (atcHiStore t.toNat v) s

/-- A cached translation lies in the range of a function's invalidation. -/
def inRange (h : HostFn) (e : AtcEnt) : Bool :=
  let a := h.atcinvHi.toNat * 2 ^ 32 + bitsNat h.atcTaken 31 16 * 2 ^ 16
  let n := 2 ^ (16 + bitsNat h.atcTaken 4 0)
  let whole := bitsNat h.atcTaken 4 0 == 25
  whole || (decide (e.va < a + n) && decide (a < e.va + 2 ^ e.bits))

/-- A translated request of a tenant is still under way to its home slice. -/
def forwarded (t : Nat) (p : Packet) : Bool :=
  match p.body with
  | .amoPhys _ _ _ _ _ _ _ => p.tenant.toNat == t
  | .readPhys _ _ _ _ => p.tenant.toNat == t
  | .writePhys _ _ _ _ => p.tenant.toNat == t
  | _ => false

/-- ATC_INVALIDATION_DONE (R372): due once every request translated through an entry of the range is performed. -/
def execAtcInvalidationDone (t : BitVec 5) (s : State) : Host.Outcome State Fault Refusal :=
  happen (fun s =>
    let h := s.fn t.toNat
    if !h.atcBusy || s.fabric.any (forwarded t.toNat) then s
    else
      let u := { s with atc := s.atc.filter fun e => !(e.tenant == t && inRange h e) }
      u.mapFn t.toNat fun h => { h with atcBusy := false }) s

/-- A translation register (offset from 0x2_0000), written. -/
def translationStore (t o : Nat) (v : Word) (s : State) : State :=
  let fn (f : HostFn → HostFn) : State := s.mapFn t f
  if o = 0 then fn fun h => { h with trootLo := v &&& 0xFFFFC000#32 }
  else if o = 4 then fn fun h => { h with trootHi := v &&& 0x1FF#32 }
  else if o = 8 then fn fun h => { h with fqctl := v &&& 0xC0000000#32 }
  else if o = 0x10 then fqtailStore t v s
  else if o = 0x14 then fqrespStore t v s
  else if o = 0x18 then atcLoStore t v s
  else if o = 0x1C then atcHiStore t v s
  else if o = 0x24 then fn fun h => { h with ctxLo := v &&& 0xFFFF0000#32 }
  else if o = 0x28 then fn fun h => { h with ctxHi := v &&& 0x1FF#32 }
  else if o = 0x2C then fn fun h => { h with ctxSize := v &&& 0xFFFF#32 }
  else if o = 0x30 then (if v.getLsbD 31 then fn fun h => { h with tfatal := setBit h.tfatal 31 false } else s)
  else s

/-- A translation register, read. -/
def translationLoad (s : State) (t o : Nat) : Word :=
  let h := s.fn t
  if o = 0 then h.trootLo
  else if o = 4 then h.trootHi
  else if o = 8 then h.fqctl
  else if o = 0xC then BitVec.ofNat 32 h.fqhead
  else if o = 0x10 then BitVec.ofNat 32 h.fqtail
  else if o = 0x18 then h.atcinvLo
  else if o = 0x1C then h.atcinvHi
  else if o = 0x20 then BitVec.ofNat 32 h.atcBusy.toNat
  else if o = 0x24 then h.ctxLo
  else if o = 0x28 then h.ctxHi
  else if o = 0x2C then h.ctxSize
  else if o = 0x30 then h.tfatal
  else if o = 0x34 then h.tflaunch
  else if o = 0x38 then h.tfva
  else if 0x100 ≤ o ∧ o < 0x900 then
    ((h.records.find? fun r => r.slot == (o - 0x100) / 32).map fun r => recordWord r (o % 32 / 4)).getD 0
  else 0

/-! ## Queue registers (R347) -/

/-- A queue register (offset in the queue's 0x40), written. -/
def queueStore (t q o : Nat) (v : Word) (s : State) : State :=
  if o = 0 then
    s.mapQueue t q fun x => if x.en then x else { x with base := x.base / 2 ^ 32 * 2 ^ 32 + bitsNat v 31 6 * 64 }
  else if o = 4 then
    s.mapQueue t q fun x => if x.en then x else { x with base := bitsNat v 8 0 * 2 ^ 32 + x.base % 2 ^ 32 }
  else if o = 8 then qctlStore t q v s
  else if o = 0x10 then qwrStore t q v s
  else if o = 0x14 then qstatStore t q v s
  else if o = 0x20 then s.mapQueue t q fun x => { x with pwdog := v }
  else if o = 0x24 then s.mapQueue t q fun x => { x with jrn := min 16 (bitsNat v 4 0) }
  else s

/-- A queue register, read; QUND is cleared by QUND_READ. -/
def queueLoad (s : State) (t q o : Nat) : Word :=
  let x := s.queue t q
  if o = 0 then BitVec.ofNat 32 x.base
  else if o = 4 then BitVec.ofNat 32 (x.base / 2 ^ 32)
  else if o = 8 then qctlWord x
  else if o = 0xC then x.rd.setWidth 32
  else if o = 0x10 then x.wr.setWidth 32
  else if o = 0x14 then qstatWord x
  else if o = 0x18 then BitVec.ofNat 32 x.undCount
  else if o = 0x1C then BitVec.ofNat 32 (inflight s t q)
  else if o = 0x20 then x.pwdog
  else if o = 0x24 then BitVec.ofNat 32 x.jrn
  else 0

/-! ## A function's BAR 0 (R431, R432) -/

/-- FSTAT; lcs is 0 until the boot has come to its end or holds in recovery (log 19). -/
def fstat (s : State) (t : Nat) : Word :=
  let up := s.quartz.ready || s.quartz.recov
  BitVec.ofNat 32
    (s.quartz.ready.toNat * 2 ^ 31 + (s.quartz.recov && t == 0).toNat * 2 ^ 30
      + (s.flint.life == .locked).toNat * 2 ^ 29
      + (!s.quartz.throttled.isEmpty).toNat * 2 ^ 28
      + (if up then lifeCode s.flint.life else 0) * 2 ^ 16)

/-- The pending bits of the MSI-X vectors: raised and masked (log 22). -/
def pbaWord (s : State) (t : Nat) : Word :=
  BitVec.ofNat 32 (((List.range 4).filter fun v =>
    s.quartz.msixPend.contains (BitVec.ofNat 5 t, BitVec.ofNat 2 v)).foldl (fun a v => a + 2 ^ v) 0)

/-- Pending vectors of a function that no mask bit holds back any more are delivered (log 22). -/
def settleMsix (t : Nat) (s : State) : State :=
  (List.range 4).foldl (fun (u : State) v =>
    let e := (BitVec.ofNat 5 t, BitVec.ofNat 2 v)
    if !(u.fn t).masked v && u.quartz.msixPend.contains e then
      u.mapQuartz fun q => { q with msix := q.msix ++ [e], msixPend := q.msixPend.filter (· != e) }
    else u) s

/-- A word of a function's BAR 0, read. -/
def fnLoad (s : State) (t o : Nat) : Word :=
  if o = 0 then fstat s t
  else if 0x10000 ≤ o ∧ o < 0x10400 then queueLoad s t ((o - 0x10000) / 0x40) (o % 0x40)
  else if 0x20000 ≤ o ∧ o < 0x20900 then translationLoad s t (o - 0x20000)
  else if 0x30000 ≤ o ∧ o < 0x30040 then ((s.fn t).msixTable[(o - 0x30000) / 4]?).getD 0
  else if o = 0x38000 then pbaWord s t
  else 0

/-- A word of a function's BAR 0, written; queue and translation writes are accepted once the function is ready. -/
def fnStore (t o : Nat) (v : Word) (s : State) : State :=
  if o = 4 then frstStore t v s
  else if 0x10000 ≤ o ∧ o < 0x10400 then
    (if s.quartz.ready then queueStore t ((o - 0x10000) / 0x40) (o % 0x40) v s else s)
  else if 0x20000 ≤ o ∧ o < 0x20900 then (if s.quartz.ready then translationStore t (o - 0x20000) v s else s)
  else if 0x30000 ≤ o ∧ o < 0x30040 then
    settleMsix t (s.mapFn t fun h => { h with msixTable := h.msixTable.setIfInBounds ((o - 0x30000) / 4) v })
  else s

/-! ## Writes by the host -/

/-- The word offset of a host write. -/
def wordOffset (o : BitVec 24) : Nat := o.toNat / 4 * 4

/-- REGISTER_WRITE (R6, R431): BAR 0 of every function, BAR 2 of the physical function. A Fatal device, and one whose islands are off,
still serves the quote registers (R16, R404, R429). -/
def execRegisterWrite (t : BitVec 5) (bar : BitVec 2) (o : BitVec 24) (v : BitVec 32) (s : State) :
    Host.Outcome State Fault Refusal :=
  happen (fun s =>
    let a := wordOffset o
    if bar = 0 then (if hostServed s then fnStore t.toNat a v s else s)
    else if bar = 2 ∧ t = 0 then
      if hostServed s || (decide (0xC10000 ≤ a) && decide (a < 0xC20000)) then mgmtStore a v s else s
    else s) s

/-- A word that the host writes to a block for tenant `t`: a part of it, which reads what the block holds first, and is not
performed where that is poison (R405, R422). -/
def hostPart (t : BitVec 5) (va pa : Nat) (v : Word) (s : State) : State :=
  let u := examine t va pa (s.endpoint 0x7FFF) 0 s
  if (u.block (blockOf pa)).poison then u else writeBlock t pa (bytesOf 4 v.toNat) u

/-- A word of HBM written at a physical address by the physical function: a partial write to a poisoned block is not
performed (R405). -/
def physWrite (pa : Nat) (v : Word) (s : State) : State := if physOk pa then hostPart 0 pa pa v s else s

/-- POSTED_WRITE (R348): a word that the host writes to HBM, physical or tenant-virtual; one that does not translate is
dropped (log 17), and poison in the tables is fatal to their tenant (R413). -/
def execPostedWrite (t : BitVec 5) (phys : Bool) (o : BitVec 41) (v : BitVec 32) (s : State) :
    Host.Outcome State Fault Refusal :=
  hostStep (fun s =>
    let a := o.toNat / 4 * 4
    if phys then (if t = 0 then physWrite a v s else s)
    else
      let u := walkSeen t.toNat a (s.endpoint 0x7FFF) 0 s
      match walk s t.toNat a with
      | .leaf pa w _ _ => if w then hostPart t a pa v u else u
      | .tablePoison _ => u.tenantFatal t.toNat 1 (s.endpoint 0x7FFF) 0 a
      | _ => u) s

end Sys2Proof.Machine
end

