-- ==== Sys2Proof/Machine/Integer.lean ====
section
/-!
DEFINITION. The integer, bit-field and control instructions (R95 to R110). They decode on every kind of core and
raise no trap but those of JALR.
-/

namespace Sys2Proof.Machine
open Sys2Proof

/-! ## Operations on words -/

/-- The shift amount in bits 4:0 of an operand (R97). -/
def shamt (b : Word) : Nat := b.toNat % 32

/-- 1 or 0. -/
def boolWord (b : Bool) : Word := if b then 1 else 0

def aluAdd (a b : Word) : Word := a + b
def aluSub (a b : Word) : Word := a - b
def aluAnd (a b : Word) : Word := a &&& b
def aluOr (a b : Word) : Word := a ||| b
def aluXor (a b : Word) : Word := a ^^^ b
def aluAndn (a b : Word) : Word := a &&& ~~~b
def aluSll (a b : Word) : Word := a <<< shamt b
def aluSrl (a b : Word) : Word := a >>> shamt b
def aluSra (a b : Word) : Word := a.sshiftRight (shamt b)
def aluRor (a b : Word) : Word := a.rotateRight (shamt b)
def aluSlt (a b : Word) : Word := boolWord (a.slt b)
def aluSltu (a b : Word) : Word := boolWord (a.ult b)
def aluMin (a b : Word) : Word := if a.sle b then a else b
def aluMax (a b : Word) : Word := if b.sle a then a else b
def aluMinu (a b : Word) : Word := if a.ule b then a else b
def aluMaxu (a b : Word) : Word := if b.ule a then a else b

/-- The low half of the product (R100). -/
def aluMul (a b : Word) : Word := a * b
/-- The high half of an exact product. -/
def highHalf (p : Int) : Word := BitVec.ofInt 32 (p / 4294967296)
def aluMulh (a b : Word) : Word := highHalf (a.toInt * b.toInt)
def aluMulhu (a b : Word) : Word := highHalf (a.toNat * b.toNat : Nat)
def aluMulhsu (a b : Word) : Word := highHalf (a.toInt * b.toNat)

/-- DIV: quotient toward zero; all ones for b = 0; the overflowing case wraps to 0x8000_0000 (R100). -/
def aluDiv (a b : Word) : Word := if b = 0 then 0xFFFFFFFF else BitVec.ofInt 32 (a.toInt.tdiv b.toInt)
def aluDivu (a b : Word) : Word := if b = 0 then 0xFFFFFFFF else BitVec.ofNat 32 (a.toNat / b.toNat)
/-- REM: the sign of the dividend; a for b = 0 (R100). -/
def aluRem (a b : Word) : Word := if b = 0 then a else BitVec.ofInt 32 (a.toInt.tmod b.toInt)
def aluRemu (a b : Word) : Word := if b = 0 then a else BitVec.ofNat 32 (a.toNat % b.toNat)

/-- The number of zero bits from bit `i - 1` down to the first 1. -/
def zerosDown (a : Word) : Nat → Nat
  | 0 => 0
  | i + 1 => if a.getLsbD i then 0 else zerosDown a i + 1

/-- The number of zero bits among the `i` bits from bit `j` up to the first 1. -/
def zerosUp (a : Word) : Nat → Nat → Nat
  | 0, _ => 0
  | i + 1, j => if a.getLsbD j then 0 else zerosUp a i (j + 1) + 1

/-- The number of 1 bits below bit `i`. -/
def onesBelow (a : Word) : Nat → Nat
  | 0 => 0
  | i + 1 => onesBelow a i + (a.getLsbD i).toNat

def bitsClz (a : Word) : Word := BitVec.ofNat 32 (zerosDown a 32)
def bitsCtz (a : Word) : Word := BitVec.ofNat 32 (zerosUp a 32 0)
def bitsPopc (a : Word) : Word := BitVec.ofNat 32 (onesBelow a 32)
def bitsBrev (a : Word) : Word := a.reverse
def bitsBswap (a : Word) : Word :=
  a.extractLsb' 0 8 ++ a.extractLsb' 8 8 ++ a.extractLsb' 16 8 ++ a.extractLsb' 24 8

/-- pos of a field descriptor (R102). -/
def fieldPos (b : Word) : Nat := bitsNat b 4 0
/-- len of a field descriptor, cut at bit 31 (R102). -/
def fieldLen (b : Word) : Nat := min (bitsNat b 9 5 + 1) (32 - fieldPos b)
/-- The mask of a field descriptor (R102). -/
def fieldMask (b : Word) : Word := BitVec.ofNat 32 ((2 ^ fieldLen b - 1) * 2 ^ fieldPos b)

def bitsBfxu (a b : Word) : Word := (a &&& fieldMask b) >>> fieldPos b
def bitsBfx (a b : Word) : Word := sextWord (bitsBfxu a b) (fieldLen b)
def bitsBfi (d a b : Word) : Word := (d &&& ~~~(fieldMask b)) ||| ((a <<< fieldPos b) &&& fieldMask b)

/-- OKEY.W (R103). -/
def keyWord (a : Word) : Word := BitVec.ofNat 32 (okey a.toNat 32)
/-- OKEY.H: both halves (R103). -/
def keyHalves (a : Word) : Word := BitVec.ofNat 32 (okey (a.toNat / 65536) 16 * 65536 + okey (a.toNat % 65536) 16)

/-! ## Register and immediate forms -/

/-- ADD (R97). -/
def execAdd (d a b : Reg) : State → Host.Outcome State Fault Refusal :=
  performPure (.add d a b) true fun s => s.setX d (aluAdd (s.x a) (s.x b))

/-- SUB (R97). -/
def execSub (d a b : Reg) : State → Host.Outcome State Fault Refusal :=
  performPure (.sub d a b) true fun s => s.setX d (aluSub (s.x a) (s.x b))

/-- AND (R97). -/
def execAnd (d a b : Reg) : State → Host.Outcome State Fault Refusal :=
  performPure (.and d a b) true fun s => s.setX d (aluAnd (s.x a) (s.x b))

/-- OR (R97). -/
def execOr (d a b : Reg) : State → Host.Outcome State Fault Refusal :=
  performPure (.or d a b) true fun s => s.setX d (aluOr (s.x a) (s.x b))

/-- XOR (R97). -/
def execXor (d a b : Reg) : State → Host.Outcome State Fault Refusal :=
  performPure (.xor d a b) true fun s => s.setX d (aluXor (s.x a) (s.x b))

/-- ANDN (R97). -/
def execAndn (d a b : Reg) : State → Host.Outcome State Fault Refusal :=
  performPure (.andn d a b) true fun s => s.setX d (aluAndn (s.x a) (s.x b))

/-- SLL (R97). -/
def execSll (d a b : Reg) : State → Host.Outcome State Fault Refusal :=
  performPure (.sll d a b) true fun s => s.setX d (aluSll (s.x a) (s.x b))

/-- SRL (R97). -/
def execSrl (d a b : Reg) : State → Host.Outcome State Fault Refusal :=
  performPure (.srl d a b) true fun s => s.setX d (aluSrl (s.x a) (s.x b))

/-- SRA (R97). -/
def execSra (d a b : Reg) : State → Host.Outcome State Fault Refusal :=
  performPure (.sra d a b) true fun s => s.setX d (aluSra (s.x a) (s.x b))

/-- ROR (R97). -/
def execRor (d a b : Reg) : State → Host.Outcome State Fault Refusal :=
  performPure (.ror d a b) true fun s => s.setX d (aluRor (s.x a) (s.x b))

/-- SLT (R97). -/
def execSlt (d a b : Reg) : State → Host.Outcome State Fault Refusal :=
  performPure (.slt d a b) true fun s => s.setX d (aluSlt (s.x a) (s.x b))

/-- SLTU (R97). -/
def execSltu (d a b : Reg) : State → Host.Outcome State Fault Refusal :=
  performPure (.sltu d a b) true fun s => s.setX d (aluSltu (s.x a) (s.x b))

/-- MIN (R97). -/
def execMin (d a b : Reg) : State → Host.Outcome State Fault Refusal :=
  performPure (.min d a b) true fun s => s.setX d (aluMin (s.x a) (s.x b))

/-- MAX (R97). -/
def execMax (d a b : Reg) : State → Host.Outcome State Fault Refusal :=
  performPure (.max d a b) true fun s => s.setX d (aluMax (s.x a) (s.x b))

/-- MINU (R97). -/
def execMinu (d a b : Reg) : State → Host.Outcome State Fault Refusal :=
  performPure (.minu d a b) true fun s => s.setX d (aluMinu (s.x a) (s.x b))

/-- MAXU (R97). -/
def execMaxu (d a b : Reg) : State → Host.Outcome State Fault Refusal :=
  performPure (.maxu d a b) true fun s => s.setX d (aluMaxu (s.x a) (s.x b))

/-- MUL (R100). -/
def execMul (d a b : Reg) : State → Host.Outcome State Fault Refusal :=
  performPure (.mul d a b) true fun s => s.setX d (aluMul (s.x a) (s.x b))

/-- MULH (R100). -/
def execMulh (d a b : Reg) : State → Host.Outcome State Fault Refusal :=
  performPure (.mulh d a b) true fun s => s.setX d (aluMulh (s.x a) (s.x b))

/-- MULHU (R100). -/
def execMulhu (d a b : Reg) : State → Host.Outcome State Fault Refusal :=
  performPure (.mulhu d a b) true fun s => s.setX d (aluMulhu (s.x a) (s.x b))

/-- MULHSU (R100). -/
def execMulhsu (d a b : Reg) : State → Host.Outcome State Fault Refusal :=
  performPure (.mulhsu d a b) true fun s => s.setX d (aluMulhsu (s.x a) (s.x b))

/-- DIV (R100). -/
def execDiv (d a b : Reg) : State → Host.Outcome State Fault Refusal :=
  performPure (.div d a b) true fun s => s.setX d (aluDiv (s.x a) (s.x b))

/-- DIVU (R100). -/
def execDivu (d a b : Reg) : State → Host.Outcome State Fault Refusal :=
  performPure (.divu d a b) true fun s => s.setX d (aluDivu (s.x a) (s.x b))

/-- REM (R100). -/
def execRem (d a b : Reg) : State → Host.Outcome State Fault Refusal :=
  performPure (.rem d a b) true fun s => s.setX d (aluRem (s.x a) (s.x b))

/-- REMU (R100). -/
def execRemu (d a b : Reg) : State → Host.Outcome State Fault Refusal :=
  performPure (.remu d a b) true fun s => s.setX d (aluRemu (s.x a) (s.x b))

/-- CLZ (R101). -/
def execClz (d a : Reg) : State → Host.Outcome State Fault Refusal :=
  performPure (.clz d a) true fun s => s.setX d (bitsClz (s.x a))

/-- CTZ (R101). -/
def execCtz (d a : Reg) : State → Host.Outcome State Fault Refusal :=
  performPure (.ctz d a) true fun s => s.setX d (bitsCtz (s.x a))

/-- POPC (R101). -/
def execPopc (d a : Reg) : State → Host.Outcome State Fault Refusal :=
  performPure (.popc d a) true fun s => s.setX d (bitsPopc (s.x a))

/-- BREV (R101). -/
def execBrev (d a : Reg) : State → Host.Outcome State Fault Refusal :=
  performPure (.brev d a) true fun s => s.setX d (bitsBrev (s.x a))

/-- BSWAP (R101). -/
def execBswap (d a : Reg) : State → Host.Outcome State Fault Refusal :=
  performPure (.bswap d a) true fun s => s.setX d (bitsBswap (s.x a))

/-- BFX (R102). -/
def execBfx (d a b : Reg) : State → Host.Outcome State Fault Refusal :=
  performPure (.bfx d a b) true fun s => s.setX d (bitsBfx (s.x a) (s.x b))

/-- BFXU (R102). -/
def execBfxu (d a b : Reg) : State → Host.Outcome State Fault Refusal :=
  performPure (.bfxu d a b) true fun s => s.setX d (bitsBfxu (s.x a) (s.x b))

/-- BFI (R102). -/
def execBfi (d a b : Reg) : State → Host.Outcome State Fault Refusal :=
  performPure (.bfi d a b) true fun s => s.setX d (bitsBfi (s.x d) (s.x a) (s.x b))

/-- OKEY.H: its source is an f register, mapped or not (R28, R103). -/
def execOkeyH (d a : Reg) : State → Host.Outcome State Fault Refusal :=
  performF (.okeyH d a) true [a] (fx1 d a fun v => (keyHalves v, 0))

/-- OKEY.W (R103). -/
def execOkeyW (d a : Reg) : State → Host.Outcome State Fault Refusal :=
  performF (.okeyW d a) true [a] (fx1 d a fun v => (keyWord v, 0))

/-- ADDI (R98). -/
def execAddi (d a : Reg) (i : BitVec 16) : State → Host.Outcome State Fault Refusal :=
  performPure (.addi d a i) true fun s => s.setX d (aluAdd (s.x a) (i.signExtend 32))

/-- ANDI (R98). -/
def execAndi (d a : Reg) (i : BitVec 16) : State → Host.Outcome State Fault Refusal :=
  performPure (.andi d a i) true fun s => s.setX d (aluAnd (s.x a) (i.setWidth 32))

/-- ORI (R98). -/
def execOri (d a : Reg) (i : BitVec 16) : State → Host.Outcome State Fault Refusal :=
  performPure (.ori d a i) true fun s => s.setX d (aluOr (s.x a) (i.setWidth 32))

/-- XORI (R98). -/
def execXori (d a : Reg) (i : BitVec 16) : State → Host.Outcome State Fault Refusal :=
  performPure (.xori d a i) true fun s => s.setX d (aluXor (s.x a) (i.setWidth 32))

/-- SLTI (R98). -/
def execSlti (d a : Reg) (i : BitVec 16) : State → Host.Outcome State Fault Refusal :=
  performPure (.slti d a i) true fun s => s.setX d (aluSlt (s.x a) (i.signExtend 32))

/-- SLTIU (R98). -/
def execSltiu (d a : Reg) (i : BitVec 16) : State → Host.Outcome State Fault Refusal :=
  performPure (.sltiu d a i) true fun s => s.setX d (aluSltu (s.x a) (i.signExtend 32))

/-- SLLI (R99). -/
def execSlli (d a : Reg) (n : BitVec 5) : State → Host.Outcome State Fault Refusal :=
  performPure (.slli d a n) true fun s => s.setX d (aluSll (s.x a) (n.setWidth 32))

/-- SRLI (R99). -/
def execSrli (d a : Reg) (n : BitVec 5) : State → Host.Outcome State Fault Refusal :=
  performPure (.srli d a n) true fun s => s.setX d (aluSrl (s.x a) (n.setWidth 32))

/-- SRAI (R99). -/
def execSrai (d a : Reg) (n : BitVec 5) : State → Host.Outcome State Fault Refusal :=
  performPure (.srai d a n) true fun s => s.setX d (aluSra (s.x a) (n.setWidth 32))

/-- RORI (R99). -/
def execRori (d a : Reg) (n : BitVec 5) : State → Host.Outcome State Fault Refusal :=
  performPure (.rori d a n) true fun s => s.setX d (aluRor (s.x a) (n.setWidth 32))

/-! ## Upper immediates, jumps, branches and the loop -/

/-- LUI (R104). -/
def execLui (d : Reg) (i : BitVec 21) : State → Host.Outcome State Fault Refusal :=
  performPure (.lui d i) true fun s => s.setX d (i.setWidth 32 <<< 11)

/-- AUIPC (R104). -/
def execAuipc (d : Reg) (i : BitVec 21) : State → Host.Outcome State Fault Refusal :=
  performPure (.auipc d i) true fun s => s.setX d (s.core.pc + (i.setWidth 32 <<< 11))

/-- JAL (R105). -/
def execJal (d : Reg) (i : BitVec 21) : State → Host.Outcome State Fault Refusal :=
  performWith (.jal d i) true fun s =>
    .ok (retireTo (s.core.pc + i.signExtend 32 * 4) (s.setX d (s.core.pc + 4)))

/-- JALR: a misaligned target raises cause 0x01 at the JALR (R105). -/
def execJalr (d a : Reg) (i : BitVec 16) : State → Host.Outcome State Fault Refusal :=
  performWith (.jalr d a i) true fun s =>
    let t := effective s a i
    if t &&& 3 ≠ 0 then .error (.trap 1 t) else .ok (retireTo t (s.setX d (s.core.pc + 4)))

/-- The target of a branch (R46). -/
def branchTarget (s : State) (i : BitVec 16) : Word := s.core.pc + i.signExtend 32 * 4

/-- A branch: taken it retires to its target, otherwise it falls through (R107, R109). -/
def branch (taken : Bool) (i : BitVec 16) (s : State) : State :=
  if taken then retireTo (branchTarget s i) s else retire s

/-- BEQ (R107). -/
def execBeq (a b : Reg) (i : BitVec 16) : State → Host.Outcome State Fault Refusal :=
  performWith (.beq a b i) true fun s => .ok (branch (s.x a == s.x b) i s)

/-- BNE (R107). -/
def execBne (a b : Reg) (i : BitVec 16) : State → Host.Outcome State Fault Refusal :=
  performWith (.bne a b i) true fun s => .ok (branch (s.x a != s.x b) i s)

/-- BLT (R107). -/
def execBlt (a b : Reg) (i : BitVec 16) : State → Host.Outcome State Fault Refusal :=
  performWith (.blt a b i) true fun s => .ok (branch ((s.x a).slt (s.x b)) i s)

/-- BGE (R107). -/
def execBge (a b : Reg) (i : BitVec 16) : State → Host.Outcome State Fault Refusal :=
  performWith (.bge a b i) true fun s => .ok (branch ((s.x b).sle (s.x a)) i s)

/-- BLTU (R107). -/
def execBltu (a b : Reg) (i : BitVec 16) : State → Host.Outcome State Fault Refusal :=
  performWith (.bltu a b i) true fun s => .ok (branch ((s.x a).ult (s.x b)) i s)

/-- BGEU (R107). -/
def execBgeu (a b : Reg) (i : BitVec 16) : State → Host.Outcome State Fault Refusal :=
  performWith (.bgeu a b i) true fun s => .ok (branch ((s.x b).ule (s.x a)) i s)

/-- The trip count of LOOP: the exact difference of two signed words (R108). -/
def loopCount (a b : Word) : Int := a.toInt - b.toInt

/-- LOOP (R108). -/
def execLoop (a b : Reg) (i : BitVec 16) : State → Host.Outcome State Fault Refusal :=
  performWith (.loop a b i) true fun s =>
    let n := loopCount (s.x a) (s.x b)
    let last := s.core.pc + i.setWidth 32 * 4
    if n ≤ 0 then
      .ok (retireTo (last + 4) (s.mapCore fun c => { c with loop := { c.loop with active := false } }))
    else
      .ok (retire (s.mapCore fun c =>
        { c with loop := { active := true, start := s.core.pc + 4, last := last, remaining := BitVec.ofInt 32 n } }))

/-- A word of major opcode 0: illegal whatever its other bits (R53). -/
def execIll (x : BitVec 26) (s : State) : Host.Outcome State Fault Refusal := .next (raise 2 (wordOf (.ill x)) s)

end Sys2Proof.Machine
end

