-- ==== Sys2Proof/Machine/Memory.lean ====
section
/-!
DEFINITION. Loads and stores (R183, R184), the MEMX group: tag table (R188, R189), full/empty words (R190 to R193)
and fences (R325 to R328).
-/

namespace Sys2Proof.Machine
open Sys2Proof

/-! ## Loads -/

/-- A load whose value goes to x register `d` through `ext`. -/
def loadX (d : Reg) (size : Nat) (ext : Nat → Word) (a : Word) (s : State) : Run State :=
  (load ⟨size, false, false⟩ a s).map fun r => r.2.setX d (ext r.1)

/-- LB (R183). -/
def execLb (d a : Reg) (i : BitVec 16) (s : State) : Host.Outcome State Fault Refusal :=
  perform (.lb d a i) true (loadX d 1 (fun v => (BitVec.ofNat 8 v).signExtend 32) (effective s a i)) s

/-- LBU (R183). -/
def execLbu (d a : Reg) (i : BitVec 16) (s : State) : Host.Outcome State Fault Refusal :=
  perform (.lbu d a i) true (loadX d 1 (BitVec.ofNat 32) (effective s a i)) s

/-- LH (R183). -/
def execLh (d a : Reg) (i : BitVec 16) (s : State) : Host.Outcome State Fault Refusal :=
  perform (.lh d a i) true (loadX d 2 (fun v => (BitVec.ofNat 16 v).signExtend 32) (effective s a i)) s

/-- LHU (R183). -/
def execLhu (d a : Reg) (i : BitVec 16) (s : State) : Host.Outcome State Fault Refusal :=
  perform (.lhu d a i) true (loadX d 2 (BitVec.ofNat 32) (effective s a i)) s

/-- LW (R183). -/
def execLw (d a : Reg) (i : BitVec 16) (s : State) : Host.Outcome State Fault Refusal :=
  perform (.lw d a i) true (loadWord d (effective s a i) (wordOf (.lw d a i))) s

/-- LWP (R183). -/
def execLwp (d a : Reg) (i : BitVec 16) (s : State) : Host.Outcome State Fault Refusal :=
  perform (.lwp d a i) true
    (fun s => (load ⟨8, false, false⟩ (effective s a i) s).map fun r => r.2.setXp d (BitVec.ofNat 64 r.1)) s

/-- A word loaded to f register `d`: after the address is checked, a mapped stream takes it as an element. -/
def loadF (d : Reg) (a : Word) (s : State) : Run State :=
  if s.fBusy [d] then .error (.wait s)
  else
    match load ⟨4, false, true⟩ a s with
    | .error e => .error e
    | .ok (v, t) =>
      match putF false d (BitVec.ofNat 32 v) t with
      | .error e => .error (streamTrap t e)
      | .ok u => .ok u

/-- FLW (R183). -/
def execFlw (d a : Reg) (i : BitVec 16) (s : State) : Host.Outcome State Fault Refusal :=
  perform (.flw d a i) true (loadF d (effective s a i)) s

/-! ## Stores -/

/-- The low `size` bytes of x register `d` stored. -/
def storeX (d : Reg) (size : Nat) (a : Word) (s : State) : Run State :=
  store ⟨size, true, false⟩ a ((s.x d).toNat % 2 ^ (8 * size)) s

/-- SB (R184). -/
def execSb (d a : Reg) (i : BitVec 16) (s : State) : Host.Outcome State Fault Refusal :=
  perform (.sb d a i) true (storeX d 1 (effective s a i)) s

/-- SH (R184). -/
def execSh (d a : Reg) (i : BitVec 16) (s : State) : Host.Outcome State Fault Refusal :=
  perform (.sh d a i) true (storeX d 2 (effective s a i)) s

/-- SW (R184). -/
def execSw (d a : Reg) (i : BitVec 16) (s : State) : Host.Outcome State Fault Refusal :=
  perform (.sw d a i) true (storeWord (effective s a i) (s.x d) (wordOf (.sw d a i))) s

/-- SWP (R184). -/
def execSwp (d a : Reg) (i : BitVec 16) (s : State) : Host.Outcome State Fault Refusal :=
  perform (.swp d a i) true (fun s => store ⟨8, true, false⟩ (effective s a i) (s.xp d).toNat s) s

/-- F[d] stored: after the address is checked, a mapped stream gives its next element. -/
def storeF (d : Reg) (a : Word) (s : State) : Run State :=
  if s.fBusy [d] then .error (.wait s)
  else
    match checkAccess s a.toNat ⟨4, true, true⟩ with
    | some c => .error (.trap c a)
    | none =>
      match takeF false d s with
      | .error e => .error (streamTrap s e)
      | .ok (v, t) => plainStore (t.area a.toNat) a.toNat 4 v.toNat t

/-- FSW (R184). -/
def execFsw (d a : Reg) (i : BitVec 16) (s : State) : Host.Outcome State Fault Refusal :=
  perform (.fsw d a i) true (storeF d (effective s a i)) s

/-! ## The tag table (R188, R189) -/

/-- The set of a key. -/
def tagSet (k : Word) : Nat := bitsNat k 5 0
/-- The tag of a key. -/
def tagOf (k : Word) : BitVec 26 := k.extractLsb' 6 26

/-- The way of a key. -/
def tagFind (l : List TagWay) (k : Word) : Option TagWay := l.find? fun w => w.set == tagSet k && w.tag == tagOf k

/-- The place of a way in the order of sets and ways. -/
def TagWay.place (w : TagWay) : Nat := 4 * w.set + w.way

/-- A way put at its set and number. -/
def tagPut : List TagWay → TagWay → List TagWay
  | [], w => [w]
  | x :: l, w =>
    if w.place < x.place then w :: x :: l else if w.place = x.place then w :: l else x :: tagPut l w

/-- A way made the most recent of its set: those that were more recent than rank `r` grow older by one. -/
def tagFresh (l : List TagWay) (w : TagWay) (r : Nat) : List TagWay :=
  tagPut (l.map fun x => if x.set = w.set ∧ x.rank < r then { x with rank := x.rank + 1 } else x) { w with rank := 0 }

/-- A way dropped from its set's use order: those that were older grow younger by one. -/
def tagDrop (l : List TagWay) (w : TagWay) : List TagWay :=
  (l.filter fun x => x.place != w.place).map fun x =>
    if x.set = w.set ∧ w.rank < x.rank then { x with rank := x.rank - 1 } else x

/-- The lowest invalid way of a set. -/
def tagHole (l : List TagWay) (set : Nat) : Option Nat :=
  (List.range 4).find? fun n => !(l.any fun x => x.set == set && x.way == n)

/-- The least recently used way of a set that has no invalid way. -/
def tagOldest (l : List TagWay) (set : Nat) : Option TagWay := l.find? fun x => x.set == set && x.rank == 3

/-- TLOOK: the result and the table. -/
def tagLook (l : List TagWay) (k : Word) : Word × List TagWay :=
  match tagFind l k with
  | none => (0xFFFFFFFF, l)
  | some w => (w.data.setWidth 32, tagFresh l w w.rank)

/-- TSET: the result and the table. -/
def tagStore (l : List TagWay) (k : Word) (v : BitVec 30) : Word × List TagWay :=
  match tagFind l k with
  | some w => (0x40000000#32 ||| w.data.setWidth 32, tagFresh l { w with data := v } w.rank)
  | none =>
    match tagHole l (tagSet k) with
    | some n => (0xFFFFFFFF, tagFresh l ⟨tagSet k, n, tagOf k, v, 0⟩ 4)
    | none =>
      match tagOldest l (tagSet k) with
      | some w => (w.data.setWidth 32, tagFresh l ⟨w.set, w.way, tagOf k, v, 0⟩ w.rank)
      | none => (0xFFFFFFFF, l)

/-- TINV: the result and the table. -/
def tagKill (l : List TagWay) (k : Word) : Word × List TagWay :=
  match tagFind l k with
  | none => (0xFFFFFFFF, l)
  | some w => (w.data.setWidth 32, tagDrop l w)

/-- A tag-table operation whose result goes to `d`. -/
def tagOp (d : Reg) (r : Word × List TagWay) (s : State) : State := (s.mapCore fun c => { c with tags := r.2 }).setX d r.1

/-- TLOOK (R189). -/
def execTlook (d a : Reg) (s : State) : Host.Outcome State Fault Refusal :=
  performPure (.tlook d a) s.compute (tagOp d (tagLook s.core.tags (s.x a))) s

/-- TSET (R189). -/
def execTset (d a b : Reg) (s : State) : Host.Outcome State Fault Refusal :=
  performPure (.tset d a b) s.compute (tagOp d (tagStore s.core.tags (s.x a) ((s.x b).truncate 30))) s

/-- TINV (R189). -/
def execTinv (d a : Reg) (s : State) : Host.Outcome State Fault Refusal :=
  performPure (.tinv d a) s.compute (tagOp d (tagKill s.core.tags (s.x a))) s

/-! ## Full/empty words (R190 to R193) -/

/-- The oldest take that waits on a word. -/
def waiterAt (s : State) (a : Nat) : Option Waiter := s.core.takes.find? fun w => w.addr == a

/-- A value handed to a waiter of word `a`: it is also written into the word, which stays empty (R191). -/
def handTo (w : Waiter) (a : Nat) (v : Word) (s : State) : State :=
  let t := joinTake ((s.w0Write a 4 v.toNat).mapCore fun c => { c with deferred := removeFirst (· == w) c.deferred })
  match w.src with
  | none => t.mapCore fun c => { c with handed := some v }
  | some (e, i) =>
    t.send { src := s.core.id, dst := e, tenant := s.core.tenant, slot := i, body := .reply (.data (v.setWidth 64)) }

/-- A value put into an empty word: the oldest waiter receives it, otherwise the word is full (R192). -/
def putWord (a : Nat) (v : Word) (s : State) : State :=
  match waiterAt s a with
  | some w => handTo w a v s
  | none => (s.w0Write a 4 v.toNat).setFull a true

/-- A take that waits enters the list, once (R191); what `takes` leaves out stands outside it. -/
def deferTake (w : Waiter) (s : State) : State :=
  if s.core.deferred.contains w then s else s.mapCore fun c => { c with deferred := c.deferred ++ [w] }

/-- The core's own TAKE leaves the list. -/
def leaveTakes (s : State) : State :=
  joinTake (s.mapCore fun c => { c with deferred := c.deferred.filter fun w => w.src.isSome })

/-- TAKE of word `a` into `d` (R191, R192): a value handed over retires it; an empty word makes it wait, and so does a list that is
full until an entry frees. -/
def takeInto (d : Reg) (a : Nat) (s : State) : Run State :=
  match s.core.handed with
  | some v => .ok ((s.mapCore fun c => { c with handed := none }).setX d v)
  | none =>
    if s.core.full a && !(s.core.deferred.drop 64).contains ⟨a, none⟩ then
      .ok ((takeWord a (leaveTakes s)).2.setX d (takeWord a (leaveTakes s)).1)
    else .error (.wait (deferTake ⟨a, none⟩ s))

/-- The checks of R190 on W0 words: the causes are those of loads or stores; a hit on a range of either kind is cause 0x0A
(R185). -/
def checkWords (s : State) (a n : Nat) (isStore : Bool) : Option Nat :=
  match checkW0 s a n 4 isStore with
  | some c => some c
  | none => if s.core.lockHit a n true then some 10 else none

/-- A body that runs once the W0 word at X[a] passes its checks (R190). An instruction that waits has passed them: a lock entered
since then does not bind it (R186). -/
def onWord (a : Word) (n : Nat) (isStore : Bool) (body : State → Run State) (s : State) : Run State :=
  if s.core.stalled then body s
  else
    match checkWords s a.toNat n isStore with
    | some c => .error (.trap c a)
    | none => body s

/-- TAKE (R192, R193). A value handed over before a check could fail belongs to this instruction. -/
def execTake (d a : Reg) (s : State) : Host.Outcome State Fault Refusal :=
  perform (.take d a) s.compute (onWord (s.x a) 4 false (takeInto d (s.x a).toNat)) s

/-- TTAKE (R192): the sentinel where the word is empty. -/
def execTtake (d a b : Reg) (s : State) : Host.Outcome State Fault Refusal :=
  perform (.ttake d a b) s.compute
    (onWord (s.x a) 4 false fun s =>
      if s.core.full (s.x a).toNat then
        .ok ((takeWord (s.x a).toNat s).2.setX d (takeWord (s.x a).toNat s).1)
      else .ok (s.setX d (s.x b))) s

/-- PUT (R191, R192): a release, at device scope as of a remote put (log 6); it waits while the word is full. -/
def execPut (a b : Reg) (s : State) : Host.Outcome State Fault Refusal :=
  perform (.put a b) s.compute
    (onWord (s.x a) 4 true fun s =>
      if s.core.full (s.x a).toNat || !released s 2 then .error (.wait s)
      else
        .ok ((putWord (s.x a).toNat (s.x b) s).sign (bytesOf 4 (s.x a).toNat ++ bytesOf 4 (s.x b).toNat))) s

/-- FESET of one word: a word set full that has waiters hands its contents to the oldest and stays empty. -/
def setOne (full : Bool) (s : State) (a : Nat) : State :=
  if full then
    match waiterAt s a with
    | some w => handTo w a (s.core.w0Word a) s
    | none => s.setFull a true
  else s.setFull a false

/-- FESET (R192): every word is checked before any bit changes. -/
def execFeset (a b : Reg) (s : State) : Host.Outcome State Fault Refusal :=
  perform (.feset a b) s.compute
    (onWord (s.x a) (4 * (bitsNat (s.x b) 11 4 + 1)) true fun s =>
      if !released s 2 then .error (.wait s)
      else
        .ok (((List.range (bitsNat (s.x b) 11 4 + 1)).map fun k => (s.x a).toNat + 4 * k).foldl
          (setOne ((s.x b).getLsbD 0)) s)) s

/-! ## The order of a core's own bytes (R321) -/

/-- The W0 bytes behind `n` bytes at a window address. -/
def bytesAt (s : State) (a : Word) (n : Nat) : List (Nat × Nat) := [w0Span (s.area a.toNat) a.toNat n]

/-- The f registers that an instruction names, where a stream may stand. -/
def streamRegs (i : Instr) : List Reg :=
  match i with
  | .flw d _ _ | .fsw d _ _ | .fmvSX d _ | .fcvtSW d _ _ | .fcvtSWu d _ _ => [d]
  | .feq _ a b | .flt _ a b | .fle _ a b => [a, b]
  | .fclass _ a | .fmvXS _ a | .fcvtWS _ a _ | .fcvtWuS _ a _ => [a]
  | j => fRegs j

/-- The bytes of the elements that an instruction may take from or append to stream `r`, with their index words. -/
def streamSpans (s : State) (r : Reg) : List (Nat × Nat) :=
  let t := s.stream r
  if s.streamOn r then
    (List.range 4).foldr (fun k l =>
      (if t.snap.indirect then bytesAt s (t.snap.ibase + BitVec.ofNat 32 (4 * (t.pos + k))) 4 else [])
        ++ (match elementAddr s r t.snap (t.pos + k) with
          | .ok a => bytesAt s a 4
          | .error _ => []) ++ l) []
  else []

/-- The W0 bytes that an instruction reads or writes when it issues (R317). -/
def ownSpans (s : State) (i : Instr) : List (Nat × Nat) :=
  (match i with
    | .lb _ a n | .lbu _ a n | .sb _ a n => bytesAt s (effective s a n) 1
    | .lh _ a n | .lhu _ a n | .sh _ a n => bytesAt s (effective s a n) 2
    | .lw _ a n | .flw _ a n | .sw _ a n | .fsw _ a n => bytesAt s (effective s a n) 4
    | .lwp _ a n | .swp _ a n => bytesAt s (effective s a n) 8
    | .take _ a | .ttake _ a _ | .put a _ => bytesAt s (s.x a) 4
    | .feset a b => bytesAt s (s.x a) (4 * (bitsNat (s.x b) 11 4 + 1))
    | .amoadd _ a _ c _ _ | .amoand _ a _ c _ _ | .amoor _ a _ c _ _ | .amoxor _ a _ c _ _ | .amomin _ a _ c _ _
    | .amomax _ a _ c _ _ | .amominu _ a _ c _ _ | .amomaxu _ a _ c _ _ | .amoswap _ a _ c _ _ | .amocas _ a _ c _
    | .amoincb _ a _ c _ _ | .amofadd _ a _ c _ _ => if c = 0 then bytesAt s (s.x a) 4 else []
    | .hdrLay a _ => bytesAt s (s.x a) 8
    | .mcmd _ _ b => bytesAt s (s.x b) 16
    | .eld _ a => bytesAt s (s.x a) (16 + 12 * 128)
    | .est _ a => bytesAt s (s.x a) (16 + 12 * 128)
    | _ => []) ++ (streamRegs i).foldr (fun r l => streamSpans s r ++ l) []

/-- The W0 bytes of the core in focus that an instruction asks for over the fabric. -/
def sentSpans (s : State) (i : Instr) : List (Nat × Nat) :=
  let own (a : DWord) (z : Nat) : List (Nat × Nat) :=
    if faRegion a = 1 ∧ faEndpoint a = s.core.id then ((remoteSpan (localOf s.core.id) (faLocal a) z).map fun r => r.2).toList else []
  match i with
  | .rload _ a p => own (s.xp a) (sizeOf p)
  | .rstore a _ p => own (s.xp a) (sizeOf p)
  | .msend => if hdrEp (nibufHeader s) = s.core.id then (ringSpan s).toList else []
  | .lw _ a n | .sw _ a n => if s.area (effective s a n).toNat = .event then own (rfa s) 4 else []
  | _ => []

/-- A request of the core to its own memory has no answer, and the instruction to issue touches a byte of it: the instruction
comes after the request (R321). So it does after the elements of pending loops: an access after those of their write streams, a
request over the fabric after all of them (R201, R321). -/
def ownHazard (s : State) (w : Option Word) : Bool :=
  match w.map decode with
  | some (.ok i) =>
    let mine := ownSpans s i
    (s.core.ni.slots.toList.any fun o => requestMeets s o mine) ||
      s.core.seqs.any fun q => meets (loopSpans s q false) mine || meets (loopSpans s q true) (sentSpans s i)
  | _ => false

/-! ## Fences (R325 to R328) -/

/-- FENCE (R326): waits for the outstanding accesses of the predecessor set in scope. -/
def execFence (c : BitVec 2) (p q u v : Bool) (s : State) : Host.Outcome State Fault Refusal :=
  perform (.fence c p q u v) true (fun s => if outstanding s c.toNat p q then .error (.wait s) else .ok s) s

/-- FENCE.I (R327): every earlier store is performed; each fetch reads the instruction store as it stands. -/
def execFenceI (s : State) : Host.Outcome State Fault Refusal :=
  perform .fenceI true (fun s => if outstanding s 3 false true then .error (.wait s) else .ok s) s

/-- The engines of the core have completed or faulted everything; of the matrix commands, those accepted before the instruction
was issued (R328). -/
def enginesQuiet (s : State) : Bool :=
  s.core.cp.queue.isEmpty &&
    (!s.compute ||
      (s.core.mx.passed s.core.mark && s.core.seqs.isEmpty &&
        (List.range 8).all fun p => (slotAt s.core p).state != .exposing || slotFaulted s.core p))

/-- FENCE.E (R328): completes at once over a held report (R134). -/
def execFenceE (s : State) : Host.Outcome State Fault Refusal :=
  perform .fenceE true (fun s => if enginesQuiet s || reportHeld s then .ok s else .error (.wait (markWait s))) s

end Sys2Proof.Machine
end

