-- ==== Sys2Proof/Machine/Point.lean ====
section
/-!
DEFINITION. Points: their entry and dispatch (R30, R31, R152, R158), PDONE and PPHASE (R164), redundant pairs (R168 to
R170) and follow mode (R165 to R167).
-/

namespace Sys2Proof.Machine
open Sys2Proof

/-! ## Entry and dispatch -/

/-- The coordinates of the next point of line `x`: its face coordinates, then its height (R152). -/
def Launch.coords (l : Launch) (x : Nat) : List Nat := l.face x ++ [(l.lineSt x).h]

/-- The x registers at point entry (R31). -/
def entryX (c : Core) (co : List Nat) : Vector Word 32 :=
  Vector.ofFn fun i : Fin 32 =>
    if i.val = 2 then BitVec.ofNat 32 (c.jbase * 4096)
    else if 10 ≤ i.val ∧ i.val < 14 then BitVec.ofNat 32 ((co[i.val - 10]?).getD 0)
    else 0

/-- A core at the entry of a point (R30, R31, R168, R195). DESIGN CHOICE (log 23): the inactive loop state (R109) has start,
last and remaining 0. -/
def enterPoint (l : Launch) (x : Nat) (c : Core) : Core :=
  let co := l.coords x
  let at_ (i : Nat) : BitVec 16 := BitVec.ofNat 16 ((co[i]?).getD 0)
  { c with
    mode := .user, stalled := false, point := some ⟨at_ 0, at_ 1, at_ 2, at_ 3, x⟩, x := entryX c co,
    f := .replicate 32 0, env := .replicate 8 .reset
    streams := vmap (fun t => { t with desc := .reset, snap := .reset, pos := 0, mapped := false }) c.streams
    csr := { c.csr with fcsr := 0 }, loop := .reset, pc := l.entry, sig := 0xFFFFFFFF, lag := [], follow := none,
    followLate := false }

/-- The core can take a point: no point runs on it, and it is not halted, held in supervisor mode, or following. -/
def idle (c : Core) : Bool :=
  c.point.isNone && c.halt.isNone && c.mode == .user && c.follow.isNone && !(c.csr.ganginfo.getLsbD 30)

/-- The line whose candidate the core in focus is to run (R158). -/
def nextLine (s : State) : Option (Launch × Nat) :=
  match s.launch with
  | none => none
  | some l =>
    if l.stage == .running && l.loaded && !planAway s l.id && s.compute && idle s.core then
      (l.candidate (localOf s.core.id)).map fun x => (l, x)
    else none

/-- POINT_DISPATCH (R158): the least ready candidate; a pair's follower enters with its leader (R168). -/
def dispatch (s : State) : State :=
  match nextLine s with
  | none => s
  | some (l, x) =>
    let t := s.mapCore (enterPoint l x)
    if l.pkt.pair then
      t.at (partnerOf s) fun u => u.mapCore fun c =>
        { enterPoint l x c with follow := some (BitVec.ofNat 2 (localOf s.core.id)) }
    else t

/-- POINT_DISPATCH. -/
def execPointDispatch (s : State) : Host.Outcome State Fault Refusal := happen (fun s => if s.quartz.fatal then s else dispatch s) s

/-! ## PDONE and PPHASE (R164) -/

/-- A remote-request slot holds an RLOAD that RWAIT has not collected. -/
def uncollected (s : State) : Bool :=
  s.core.ni.slots.toList.any fun o => match o with
    | some sl => sl.kind == .rload
    | none => false

/-- A core whose point is done: streams, loop and attachment end. -/
def leavePoint (c : Core) : Core :=
  { c with
    point := none, loop := { c.loop with active := false }, follow := none, lag := [],
    streams := vmap (fun t => { t with mapped := false }) c.streams }

/-- The point of the core in focus retires on its line. -/
def retirePoint (hold : Bool) (s : State) : State :=
  match s.core.point with
  | none => s
  | some p =>
    (s.mapMyLaunch fun l => l.mapLine p.line fun e => { e with h := e.h + 1, hold := e.hold || hold }).mapCore leavePoint

/-- A mismatch in a pair (R169, R170). -/
def mismatch (s : State) : State :=
  match s.unit.launch with
  | none => s
  | some id => s.abort id 3

/-- A signature mismatch in a pair (R170): it charges both cores (R416). -/
def signatureMismatch (s : State) : State :=
  let charge (l : Nat) : State → State := chargeUnit (unitName 3 l 0)
  mismatch (charge (partnerOf s) (charge (localOf s.core.id) s))

/-- Retirement of PDONE or PPHASE: a single step halts at the next point's first instruction (R150). -/
def finishPoint (m : Mode) (s : State) : State :=
  (countInstr m s).mapCore fun c => { c with stalled := false, stepDue := c.csr.sdbg.getLsbD 0 }

/-- The end of a point: pushed loops end first (R205), then the release (R164), and a pair compares (R170). The follower of a pair
traps where its leader did (R169); otherwise its leader retires the point for both, and it waits for that (R170). -/
def pointDone (i : Instr) (hold : Bool) (s : State) : Run State :=
  if s.core.point.isNone || !s.inUser || s.inHandler || uncollected s then .error (.trap 0x12 (wordOf i))
  else if s.pairFollower then followed (fun s => .error (.wait s)) s
  else if !s.core.seqs.isEmpty || outstanding s 1 true true then .error (.wait s)
  else if s.paired then
    let f := s.coreAt (partnerOf s)
    if !f.lag.isEmpty || !f.seqs.isEmpty then .error (.wait s)
    else if f.sig = s.core.sig then
      .ok (finishPoint s.core.mode
        ((retirePoint hold s).at (partnerOf s) fun t => countInstr .user (t.mapCore leavePoint)))
    else .ok (signatureMismatch s)
  else .ok (finishPoint s.core.mode (retirePoint hold s))

/-- PDONE (R164). -/
def execPdone (s : State) : Host.Outcome State Fault Refusal :=
  performWith .pdone s.compute (pointDone .pdone false) s

/-- PPHASE (R164): the rest of the line is held until the next phase. -/
def execPphase (s : State) : Host.Outcome State Fault Refusal :=
  performWith .pphase s.compute (pointDone .pphase true) s

/-! ## Follow mode (R165, R166) -/

/-- The local endpoint of core `q` of the quad of the core in focus. -/
def quadCore (s : State) (q : Nat) : Nat := localOf s.core.id / 4 * 4 + q

/-- The followers of the core in focus. -/
def followers (s : State) : List Nat :=
  ((List.range 4).map (quadCore s)).filter fun l =>
    l != localOf s.core.id && (s.coreAt l).follow == some (BitVec.ofNat 2 (localOf s.core.id))

/-- FOLLOW is refused (R165). -/
def followRefused (s : State) (v : Word) : Bool :=
  if 3 < v.toNat then true
  else
    let l := quadCore s v.toNat
    let c := s.coreAt l
    decide (l = localOf s.core.id) || c.follow.isSome || c.point.isNone || c.mode == .supervisor ||
      decide (3 ≤ (((List.range 4).map (quadCore s)).filter fun k => (s.coreAt k).follow == some (v.truncate 2)).length)

/-- FOLLOW (R165). -/
def execFollow (d a : Reg) (s : State) : Host.Outcome State Fault Refusal :=
  perform (.follow d a) s.compute
    (fun s =>
      if s.paired then .error (.trap 0x12 (wordOf (.follow d a)))
      else if followRefused s (s.x a) then .ok (s.setX d 1)
      else
        let late := (s.coreAt (quadCore s (s.x a).toNat)).stalled
        .ok ((s.mapCore fun c => { c with follow := some ((s.x a).truncate 2), followLate := late, lag := [] }).setX d 0)) s

/-- DETACH (R166): a core that follows stops; one that leads leaves the instruction for its followers to execute. -/
def execDetach (s : State) : Host.Outcome State Fault Refusal :=
  perform .detach s.compute
    (fun s =>
      if s.paired then .error (.trap 0x12 (wordOf .detach))
      else .ok (s.mapCore fun c => { c with follow := none, lag := [] })) s

/-! ## The leader's stream (R165, R167) -/

/-- After an entry of this kind the followers no longer follow. -/
def terminal (e : LagEntry) : Bool :=
  match e.word with
  | none => true
  | some w =>
    match decode w with
    | .ok .pdone => true
    | .ok .pphase => true
    | .ok .detach => true
    | _ => false

/-- An entry that ends a follower's following unless the pair stays together. -/
def closing (paired : Bool) (e : LagEntry) : Bool := !paired && (terminal e || e.trapped.isSome)

/-- The trap that a step from `s` to `t` took, if it took one (R132). -/
def trapTaken (s t : State) : Option (Nat × Word) :=
  if !s.inHandler && t.inHandler then some (t.core.csr.ucause.toNat, t.core.csr.uval)
  else if s.core.halt.isNone && t.core.halt == some 1 then some (t.core.ecause.toNat, t.core.eval)
  else none

/-- The second of three places, rd, of a word that names one. -/
def rdPair (t : State) (w : Word) : DWord := pairOf (t.x (rdOf w)) (t.x (pairHi (rdOf w)))

/-- The direction that a conditional branch takes on the registers of the core in focus (R107); none for another word. -/
def direction (s : State) (w : Option Word) : Option Bool :=
  w.bind fun w => match decode w with
    | .ok (.beq a b _) => some (s.x a == s.x b)
    | .ok (.bne a b _) => some (s.x a != s.x b)
    | .ok (.blt a b _) => some ((s.x a).slt (s.x b))
    | .ok (.bge a b _) => some (!(s.x a).slt (s.x b))
    | .ok (.bltu a b _) => some ((s.x a).ult (s.x b))
    | .ok (.bgeu a b _) => some (!(s.x a).ult (s.x b))
    | _ => none

/-- The step from `s` to `t` looped back at loop.last (R108): the loop-back decision of R110. -/
def loopedBack (s t : State) : Bool :=
  s.core.loop.active && s.core.pc == s.core.loop.last && t.core.pc == s.core.loop.start &&
    t.core.loop == { s.core.loop with remaining := s.core.loop.remaining - 1 }

/-- What the core in focus leaves for its followers by the step from `s` to `t` with word `w`; a debug halt is an interrupt too
(R131, R167). -/
def lagEntry (s t : State) (w : Option Word) : Option LagEntry :=
  if t.core.stalled then none
  else
    some { pc := s.core.pc, word := w, next := t.core.pc, value := (w.map (rdPair t)).getD 0, trapped := trapTaken s t,
           taken := direction s w, looped := loopedBack s t }

/-- A follower takes an entry of its leader's stream, if it still takes the stream. The instruction that its leader was inside when
FOLLOW was granted is no part of it; where that ended the leader's point, following ends (R165, R167). -/
def takeEntry (paired : Bool) (e : LagEntry) (c : Core) : Core :=
  if c.followLate && e.word.isSome && e.trapped.isNone then
    { c with followLate := false, follow := if terminal e then none else c.follow }
  else if (c.lag.getLast?.map (closing paired)).getD false then c
  else { c with followLate := false, lag := c.lag ++ [e] }

/-- An entry given to every follower. -/
def giveLag (e : LagEntry) (s : State) : State :=
  (followers s).foldl (fun t l => t.setCoreAt l (takeEntry s.paired e (t.coreAt l))) s

/-- The leader has a follower that lags 16 instructions (R165). -/
def leaderHeld (s : State) : Bool := (followers s).any fun l => decide (16 ≤ (s.coreAt l).lag.length)

/-- A follower goes on alone. -/
def detachAt (pc : Word) (s : State) : State := s.mapCore fun c => { c with follow := none, lag := [], pc := pc }

/-- The head of the follower's stream is done. -/
def popLag (s : State) : State := s.mapCore fun c => { c with lag := c.lag.tail }

/-- The follower's step by the head entry went as its leader's: the next pc, the direction of a branch and the loop-back decision
are the same (R110, R167). -/
def sameWay (e : LagEntry) (s t : State) : Bool :=
  t.core.pc == e.next && direction s e.word == e.taken && loopedBack s t == e.looped

/-- The follower's step by the head entry ended in `t` (R167, R169). -/
def settleFollow (e : LagEntry) (s t : State) : State :=
  let own := trapTaken s t
  if t.core.stalled then t
  else if t.core.lag != s.core.lag then t
  else if s.paired then
    if own = e.trapped ∧ sameWay e s t = true then popLag t else mismatch t
  else if own.isSome then t.mapCore fun c => { c with follow := none, lag := [] }
  else if sameWay e s t then popLag t
  else detachAt t.core.pc t

/-- The engines of a core have nothing under way and no report is left: no report of theirs will come. -/
def reportsOver (c : Core) : Bool :=
  c.reports.isEmpty && c.mx.queue.isEmpty && c.cp.queue.isEmpty && c.seqs.isEmpty &&
    c.slots.toList.all fun p => p.state != .exposing

/-- A pair's follower at an entry by which its leader left at a boundary: the same interrupt; the same report of its own
engines, for which it waits while one may come; a refusal or a translation fault of a request, which is its leader's alone; or the
trap of a fetch, which is the same on both (R168, R169). -/
def followBoundary (e : LagEntry) (s : State) : State :=
  match e.trapped with
  | none => popLag s
  | some (c, v) =>
    if 2 ^ 31 ≤ c then settleFollow e s (interruptUser (BitVec.ofNat 32 c) s)
    else if c < 0x0C ∨ c = 0x15 then settleFollow e s (report c v s)
    else
      match s.core.reports with
      | [] => if reportsOver s.core then mismatch s else waiting s
      | r :: _ => if r.cause = c ∧ r.value = v then settleFollow e s (takeReport s) else mismatch s

/-- The follower of a pair holds a report that its leader, whose engines are at rest and whose stream is done, will not take
(R169). -/
def lonelyReport (s : State) : Bool :=
  !s.core.reports.isEmpty && s.core.lag.isEmpty && reportsOver (s.coreAt (partnerOf s))

end Sys2Proof.Machine
end

