-- ==== Sys2Proof/Machine/Requests.lean ====
section
/-!
DEFINITION. The steps that serve packets: remote loads, stores and atomics, page walks, messages, full/empty requests,
event signals, remote commands, and the replies and refusals that come back (R279 to R294, R298 to R309, R314, R369,
R370).
-/

namespace Sys2Proof.Machine
open Sys2Proof

/-! ## Which packet is next (R293, R294) -/

/-- The core at local endpoint `l` has taken the entry of a pre-emption, and its spill ring takes the message of a packet (R298,
R380). -/
def spills (s : State) (l : Nat) (p : Packet) : Bool :=
  let t := s.focus l
  t.entered && !t.core.blockSaved && t.core.ni.held.isEmpty &&
    ((messageOf t p).map fun m => t.core.ni.spillRoom m).getD false

/-- The packet is a message that a pre-empted core, with its follower in a pair, takes into its spill ring. -/
def takesSpill (s : State) (p : Packet) : Bool :=
  let l := localOf p.dst
  let t := s.focus l
  spills s l p && (!(t.paired && !t.pairFollower) || spills s (partnerOf t) p)

/-- A matrix command at a core that has taken the entry of a pre-emption is held, whoever sent it (R226). -/
def commandHeld (s : State) (p : Packet) : Bool :=
  match p.body with
  | .mcmd _ _ _ _ => decide (localOf p.dst < 0x4000) && (s.focus (localOf p.dst)).entered
  | _ => false

/-- A pre-empted core holds requests by backpressure until resume, but for messages that it can spill (R309, R375, R380). -/
def heldOff (s : State) (p : Packet) : Bool :=
  commandHeld s p || ((flowOf p.body).isSome && s.shut (localOf p.dst) p.src && !takesSpill s p)

/-- A request stands at a home slice, whose banks serve it. -/
def atSlice (p : Packet) : Bool := decide (0x5000 ≤ localOf p.dst) && decide (localOf p.dst < 0x5300)

/-- The banks of a home slice serve requests in arrival order (R361): none that may be served stands before this one. -/
def bankTurn (s : State) (p : Packet) : Bool :=
  !atSlice p || (s.fabric.takeWhile (· != p)).all fun q => q.dst != p.dst || behind s q

/-- The oldest request of a kind that may be served. -/
def nextPacket (s : State) (k : Packet → Bool) : Option Packet :=
  s.fabric.find? fun p => k p && !behind s p && !heldOff s p && bankTurn s p

/-- The packets that `p` picks beyond the first `n` of them, and all others. -/
def beyond (p : Packet → Bool) : Nat → List Packet → List Packet × List Packet
  | _, [] => ([], [])
  | n, q :: l =>
    if !p q then ((beyond p n l).1, q :: (beyond p n l).2)
    else
      match n with
      | 0 => (q :: (beyond p 0 l).1, (beyond p 0 l).2)
      | n + 1 => ((beyond p n l).1, q :: (beyond p n l).2)

/-- A packet taken off the fabric. At a home slice a source has at most eight requests in the queue: a ninth has waited in its slot, and
arrives now, behind what is there (R361). A source of another package holds it back there. -/
def takeOff (p : Packet) (s : State) : State :=
  let l := removeFirst (· == p) s.fabric
  if atSlice p && pkgOf p.src == s.pkg then
    let r := beyond (fun q => q.src == p.src && q.dst == p.dst) 7 l
    { s with fabric := r.2 ++ r.1 }
  else { s with fabric := l }

/-- The step that serves the oldest request of a kind; none leaves the state as it is. -/
def servePacket (k : Packet → Bool) (f : Packet → State → State) (s : State) : Host.Outcome State Fault Refusal :=
  happen (fun s =>
    match nextPacket s k with
    | none => s
    | some p => f p (takeOff p s)) s

/-- The core at the target of a packet is a compute core. -/
def toCompute (p : Packet) : Bool := localOf p.dst < 0x4000

/-! ## Remote loads and stores (R279) -/

/-- An RLOAD, or a piece to read where it is now. -/
def isLoad (p : Packet) : Bool :=
  match p.body with
  | .load _ _ => true
  | .read a _ => faRegion a != 0
  | .readPhys _ _ _ _ => true
  | _ => false

/-- An RSTORE, or a piece to write where it is now. -/
def isStore (p : Packet) : Bool :=
  match p.body with
  | .store _ _ _ => true
  | .write a _ => faRegion a != 0
  | .writePhys _ _ _ _ => true
  | _ => false

/-- The slice number of a local endpoint. -/
def sliceNo (l : Nat) : Nat := l - 0x5000

/-- A word or pair of a tenant's sync block read at its home slice: refused, poisoned, or its value (R365, R405). -/
def sliceLoad (p : Packet) (a : DWord) (z : Nat) (s : State) : State :=
  match syncAddr s (sliceNo (localOf p.dst)) p.tenant (bitsNat a.lo 19 0) with
  | none => s.answer p (.nack 1)
  | some pa =>
    let t := examine p.tenant 0 pa p.src ((launchOfSource s p.src).getD 0) s
    if (t.block (blockOf pa)).poison && t.owns p.tenant (blockOf pa) then t.answer p (.nack 2)
    else t.answer p (.data (BitVec.ofNat 64 (natOfBytes (readBlock p.tenant pa z t))))

/-- The same for a store: each word is journalled, and a partial write to a poisoned block is answered with poison. -/
def sliceStore (p : Packet) (a : DWord) (z : Nat) (v : DWord) (s : State) : State :=
  match syncAddr s (sliceNo (localOf p.dst)) p.tenant (bitsNat a.lo 19 0) with
  | none => s.answer p (.nack 1)
  | some pa =>
    let id := launchOfSource s p.src
    let t := examine p.tenant 0 pa p.src (id.getD 0) s
    if (t.block (blockOf pa)).poison then t.answer p (.nack 2)
    else
      let u := sliceJournal id p.tenant pa t
      let w := if z = 8 then sliceJournal id p.tenant (pa + 4) u else u
      (writeBlock p.tenant pa (bytesOf z v.toNat) w).answer p .ack

/-- An RLOAD at its endpoint. -/
def loadAt (p : Packet) (a : DWord) (z : Nat) (s : State) : State :=
  let l := localOf p.dst
  if l < 0x4B00 then
    match serveLoad p.src p.tenant l (faLocal a) z s with
    | none => s.answer p (.nack 1)
    | some v => s.answer p (.data (BitVec.ofNat 64 v))
  else if 0x5000 ≤ l ∧ l < 0x5300 then sliceLoad p a z s
  else if l = 0x7FFF then
    let (v, t) := mgmtRead (bitsNat a.lo 31 0) z s
    t.answer p (.data v)
  else s.answer p (.nack 1)

/-- An RSTORE at its endpoint. -/
def storeAt (p : Packet) (a : DWord) (z : Nat) (v : DWord) (s : State) : State :=
  let l := localOf p.dst
  if l < 0x4B00 then
    match serveStore p.src p.tenant l (faLocal a) z v.toNat s with
    | none => s.answer p (.nack 1)
    | some t => t.answer p .ack
  else if 0x5000 ≤ l ∧ l < 0x5300 then sliceStore p a z v s
  else if l = 0x7FFF then (mgmtWrite (bitsNat a.lo 31 0) z v s).answer p .ack
  else s.answer p (.nack 1)

/-- A piece of an engine of another package at the core that it names (R24, R185, R230); none where it is refused. -/
def pieceSpan (s : State) (p : Packet) (a : DWord) (n : Nat) (write : Bool) : Option Nat :=
  let l := localOf p.dst
  let w := faLocal a
  if l < 0x4B00 ∧ w + n ≤ 0x40000 ∧ admits s p.src p.tenant l w n ∧ (s.coreAt l).lockHit w n write = false then some w else none

/-- The answer to a piece with its bytes. -/
def giveBytes (p : Packet) (bs : List Byte) (s : State) : State :=
  s.send { src := p.dst, dst := p.src, tenant := p.tenant, slot := p.slot, body := .pieceData bs }

/-- A piece read at a core. -/
def readPiece (p : Packet) (a : DWord) (n : Nat) (s : State) : State :=
  match pieceSpan s p a n false with
  | none => s.answer p (.nack 1)
  | some w => giveBytes p ((s.coreAt (localOf p.dst)).w0Bytes w n) s

/-- A piece written at a core. -/
def writePiece (p : Packet) (a : DWord) (bs : List Byte) (s : State) : State :=
  match pieceSpan s p a bs.length true with
  | none => s.answer p (.nack 1)
  | some w => (s.at (localOf p.dst) fun t => noteIncoming p.src (t.w0Put w bs)).answer p .ack

/-- A piece of HBM read at its home slice (R405, R421). -/
def readAtSlice (p : Packet) (va pa n : Nat) (s : State) : State :=
  let t := examine p.tenant va pa p.src 0 s
  if (t.block (blockOf pa)).poison && t.owns p.tenant (blockOf pa) then t.answer p (.nack 2)
  else giveBytes p (readBlock p.tenant pa n t) t

/-- A piece of HBM written at its home slice: a partial write to a poisoned block is not performed (R405). -/
def writeAtSlice (p : Packet) (va pa : Nat) (bs : List Byte) (s : State) : State :=
  let t := if bs.length = 64 then s else examine p.tenant va pa p.src 0 s
  if (t.block (blockOf pa)).poison && bs.length != 64 then t.answer p (.nack 2)
  else (writeBlock p.tenant pa bs t).answer p .ack

/-- REMOTE_LOAD_REQUEST (R279). -/
def execRemoteLoadRequest (s : State) : Host.Outcome State Fault Refusal :=
  servePacket isLoad (fun p s =>
    match p.body with
    | .load a z => loadAt p a z s
    | .read a n => readPiece p a n s
    | .readPhys _ va pa n => readAtSlice p va pa n s
    | _ => s) s

/-- REMOTE_STORE_REQUEST (R279). -/
def execRemoteStoreRequest (s : State) : Host.Outcome State Fault Refusal :=
  servePacket isStore (fun p s =>
    match p.body with
    | .store a z v => storeAt p a z v s
    | .write a bs => writePiece p a bs s
    | .writePhys _ va pa bs => writeAtSlice p va pa bs s
    | _ => s) s

/-! ## Translation (R369, R370) -/

/-- A region-0 AMO, or a piece of another package, that is not translated yet. -/
def isVirtual (p : Packet) : Bool :=
  match p.body with
  | .amo _ _ a _ _ => faRegion a == 0
  | .read a _ => faRegion a == 0
  | .write a _ => faRegion a == 0
  | .specRead _ _ => true
  | _ => false

/-- An AMO at the unit that performs it: translated, or in region 2. -/
def isReadyAmo (p : Packet) : Bool :=
  match p.body with
  | .amoPhys _ _ _ _ _ _ _ => true
  | .amo _ _ a _ _ => faRegion a == 2
  | _ => false

/-- The kind of a request in a fault record (R373); a speculative read enters none (R255). -/
def packetKind (p : Packet) : BitVec 4 :=
  match p.body with
  | .read _ _ | .specRead _ _ => 1
  | .write _ _ => 2
  | _ => 3

/-- The unit whose ATC serves a local endpoint: a memory core, or 768 + gateway. -/
def atcUnit (l : Nat) : Nat := if 0x7F00 ≤ l then 768 + (l - 0x7F00) else memCoreAt l

/-- The memory core at local endpoint `l` is that of a home slice, which performs a request itself: nothing is forwarded (R369). -/
def ownSlice (l slice : Nat) : Bool := l == 0x4800 + slice

/-- The forward table of a target holds eight entries (R293). -/
def forwardRoom (s : State) (dst : BitVec 21) : Bool :=
  decide ((s.fabric.filter fun q =>
    isForward q && issuedTo q == dst && !ownSlice (localOf dst) (sliceNo (localOf q.dst))).length < 8)

/-- A request with its translation. -/
def translatedBody (p : Packet) (pa : Nat) : Body :=
  match p.body with
  | .amo op sys _ v cmp => .amoPhys p.dst op sys (packetVa p) pa v cmp
  | .read _ n => .readPhys p.dst (packetVa p) pa n
  | .write _ bs => .writePhys p.dst (packetVa p) pa bs
  | b => b

/-- A translated request sent on to its home slice in the forward class, or refused for a retry; where both are one memory core no forward is
needed (R369). -/
def forward (p : Packet) (pa : Nat) (s : State) : State :=
  if ownSlice (localOf p.dst) (sliceOf pa) || forwardRoom s p.dst then s.send { p with dst := s.endpoint (0x5000 + sliceOf pa), body := translatedBody p pa }
  else s.answer p (.nack 0)

/-- A request whose address does not translate: a replayable fault enters the queue of its tenant, any other reaches the
requester (R368, R374). Poison in the tables is fatal to the tenant once for the walk that met it (`walkFatal`). -/
def faultPacket (p : Packet) (x : Xlate) (s : State) : State :=
  let va := packetVa p
  let t := p.tenant.toNat
  let id := (launchOfSource s p.src).getD 0
  let phase := ((s.launch? id).map fun l => l.phase).getD 0
  let fail := s.failXlate p
  match x with
  | .leaf _ _ _ _ => s
  | .replay why => if s.fqOn t then fqEnter t (mkRecord s va (packetKind p) why p.src id phase [p] []) s else fail
  | .malformed | .tablePoison _ => fail

/-- A request with the translation that its unit found. -/
def translated (p : Packet) (x : Xlate) (s : State) : State :=
  match x with
  | .leaf pa _ _ _ => forward p pa s
  | y => faultPacket p y s

/-- The walker of a unit's die (R370). DESIGN CHOICE (log 23): R370 names a walker on each Basalt die only; the sixteen gateways
share one of their own. -/
def walkerOf (unit : Nat) : Nat := unit / 32

/-- Two walks are one: the same walker, tenant and 64 KiB granule. -/
def sameWalk (a b : Walk) : Bool :=
  walkerOf a.unit == walkerOf b.unit && a.packet.tenant == b.packet.tenant &&
    packetVa a.packet / 2 ^ 16 == packetVa b.packet / 2 ^ 16

/-- The walker has room: it shares a walk in flight, or holds fewer than 64. -/
def walkRoom (s : State) (w : Walk) : Bool :=
  s.walks.any (sameWalk w) ||
    decide ((((s.walks.filter fun x => walkerOf x.unit == walkerOf w.unit).map fun x =>
      (x.packet.tenant.toNat, packetVa x.packet / 2 ^ 16)).eraseDups).length < 64)

/-- The request can be taken up now: its ATC hits, or the walker has room; a speculative one while no true request waits for its channel
(R255, R361). -/
def canTranslate (s : State) (p : Packet) : Bool :=
  let unit := atcUnit (localOf p.dst)
  if isSpec p then !trueWaits s unit p.tenant (packetVa p)
  else (atcFind s unit p.tenant.toNat (packetVa p)).isSome || walkRoom s ⟨unit, p⟩

/-- A speculative read of `n` bytes answered: with its bytes, as poisoned or refused, or as dropped (R255). -/
def serveSpec (p : Packet) (n : Nat) (s : State) : State :=
  match specPieces s (fun _ => atcUnit (localOf p.dst)) p.tenant (piecesOf (packetVa p) n) with
  | .data l => giveBytes p l s
  | .held c => s.answer p (.nack (if c = 5 then 2 else 1))
  | .dropped => s.answer p .ack

/-- A write through a leaf that is not writable is replayable with why 2 (R368). -/
def writable (p : Packet) (x : Xlate) : Xlate :=
  match x with
  | .leaf pa w sp b => if w || packetKind p == 1 then .leaf pa w sp b else .replay 2
  | y => y

/-- MEMORY_CORE_REQUEST (R369, R370): a hit is forwarded at once, a miss waits for a walk; a speculative read is served at once (R255). -/
def execMemoryCoreRequest (s : State) : Host.Outcome State Fault Refusal :=
  servePacket (fun p => isVirtual p && canTranslate s p) (fun p s =>
    let unit := atcUnit (localOf p.dst)
    match p.body, atcFind s unit p.tenant.toNat (packetVa p) with
    | .specRead _ n, _ => serveSpec p n s
    | _, some e => translated p (writable p (.leaf (e.pa + packetVa p % 2 ^ e.bits) e.w e.spec e.bits)) s
    | _, none => { s with walks := s.walks ++ [⟨unit, p⟩] }) s

/-- One waiting request after its walk: a leaf is cached at its unit. -/
def finishWalk (s0 : State) (w : Walk) : State :=
  let t := w.packet.tenant.toNat
  let s := walkSeen t (packetVa w.packet) w.packet.src ((launchOfSource s0 w.packet.src).getD 0) s0
  match walk s0 t (packetVa w.packet) with
  | .leaf pa wr sp b =>
    translated w.packet (writable w.packet (.leaf pa wr sp b))
      (if (atcFind s w.unit t (packetVa w.packet)).isSome then s else atcAdd s w.unit t (packetVa w.packet) pa b wr sp)
  | y => faultPacket w.packet y s

/-- A walk that met poison in the tables is a fatal fault of its tenant, one for all the requests that shared it (R370, R413). -/
def walkFatal (w : Walk) (x : Xlate) (s : State) : State :=
  match x with
  | .tablePoison _ =>
    s.tenantFatal w.packet.tenant.toNat 1 w.packet.src ((launchOfSource s w.packet.src).getD 0) (packetVa w.packet)
  | _ => s

/-- PAGE_WALK_COMPLETE (R370): the oldest walk ends, for every request that shares it. -/
def execPageWalkComplete (s : State) : Host.Outcome State Fault Refusal :=
  happen (fun s =>
    match s.walks with
    | [] => s
    | w :: _ =>
      let mine := s.walks.filter (sameWalk w)
      walkFatal w (walk s w.packet.tenant.toNat (packetVa w.packet))
        (mine.foldl finishWalk { s with walks := s.walks.filter fun x => !sameWalk w x })) s

/-! ## Atomics at memory (R299, R302, R303, R405, R407, R412) -/

/-- An AMO on a word at a physical address. -/
def amoAt (p : Packet) (op : BitVec 4) (va pa : Nat) (v cmp : Word) (s : State) : State :=
  let id := launchOfSource s p.src
  let b := blockOf pa
  let t := examine p.tenant va pa p.src (id.getD 0) s
  if (t.block b).poison then t.answer p (.nack 2)
  else
    let old := BitVec.ofNat 32 (natOfBytes (readBlock p.tenant pa 4 t))
    let r := amoNew op old v cmp
    if !r.2 then (journalHit id pa t).answer p (.data (old.setWidth 64))
    else
      let u := sliceJournal id p.tenant pa t
      if (u.block b).err = .late then
        (u.mapBlock b fun m => { m with err := .clean, poison := true }).answer p (.nack 2)
      else (writeBlock p.tenant pa (bytesOf 4 r.1.toNat) u).answer p (.data (old.setWidth 64))

/-- ATOMIC_REQUEST (R299): at the home slice of the word, or at the gateway port that acts there. -/
def execAtomicRequest (s : State) : Host.Outcome State Fault Refusal :=
  servePacket isReadyAmo (fun p s =>
    match p.body with
    | .amoPhys _ op _ va pa v cmp => amoAt p op va pa v cmp s
    | .amo op _ a v cmp =>
      match syncAddr s (faIndex a) p.tenant (bitsNat a.lo 19 0) with
      | none => s.answer p (.nack 1)
      | some pa => amoAt p op 0 pa v cmp s
    | _ => s) s

/-! ## Messages (R279, R285, R286, R298) -/

/-- The body is a message. -/
def isMessage (p : Packet) : Bool :=
  match p.body with
  | .msg _ _ => true
  | _ => false

/-- The endpoint takes messages, and the sender's tenant owns its cluster (R279). -/
def takesMessage (s : State) (p : Packet) : Bool :=
  let l := localOf p.dst
  decide (l < 0x4400) && (s.unitAt (clusterAt l)).owner == p.tenant

/-- A message goes to the spill ring of a pre-empted core, behind what is there, or waits at its interface (R380). -/
def spillMessage (p : Packet) (ack : Bool) (s : State) : State :=
  let h : Held := { packet := p, ack := ack, kept := false }
  match messageOf s p with
  | none => s
  | some m =>
    if s.core.ni.held.isEmpty && s.core.ni.spillRoom m then
      acceptHeld h (spillInto p.src m s)
    else s.mapNi fun n => { n with held := n.held ++ [h], heldFlag := true }

/-- A message at the core in focus. -/
def takeMessage (p : Packet) (ack : Bool) (s : State) : State := if s.entered then spillMessage p ack s else arrive p ack s

/-- A message at its receiver in focus; the follower of a paired receiver takes a copy (R168, R298). -/
def receive (p : Packet) (s : State) : State :=
  let t := takeMessage p true s
  if t.compute && t.paired && !t.pairFollower then t.at (partnerOf t) (takeMessage p false) else t

/-- MESSAGE_ARRIVAL (R285). -/
def execMessageArrival (s : State) : Host.Outcome State Fault Refusal :=
  servePacket isMessage (fun p s =>
    if takesMessage s p then s.at (localOf p.dst) (receive p) else s.answer p (.nack 1)) s

/-- RING_HOLD_TIMEOUT (R286), at the core in focus; a pre-empted core's arrivals go to its spill ring instead (R380). -/
def execRingHoldTimeout (s : State) : Host.Outcome State Fault Refusal :=
  happen (fun s => if s.entered || s.core.ni.held.isEmpty then s else spillHeld (s.core.ni.held.length + 1) s) s

/-! ## Remote full/empty words (R308, R309) -/

/-- The body is a take. -/
def isTake (p : Packet) : Bool :=
  match p.body with
  | .take _ => true
  | _ => false

/-- The body is a ttake. -/
def isTtake (p : Packet) : Bool :=
  match p.body with
  | .ttake _ _ => true
  | _ => false

/-- The body is a put. -/
def isPut (p : Packet) : Bool :=
  match p.body with
  | .put _ _ => true
  | _ => false

/-- The W0 byte of the word that a full/empty request names; none where it is refused. -/
def wordTarget (s : State) (p : Packet) (a : DWord) : Option Nat :=
  let l := localOf p.dst
  match (if toCompute p then remoteSpan l (faLocal a) 4 else none) with
  | some (.w0, first, _) =>
    if first % 4 ≠ 0 || !admits s p.src p.tenant l first 4 || (s.coreAt l).lockHit first 4 true then none else some first
  | _ => none

/-- A full/empty request served with its target in focus, or refused. -/
def serveWord (p : Packet) (a : DWord) (f : Nat → State → State) (s : State) : State :=
  match wordTarget s p a with
  | none => s.answer p (.nack 1)
  | some w => s.at (localOf p.dst) (f w)

/-- A full word taken for a requester. -/
def giveWord (p : Packet) (w : Nat) (s : State) : State :=
  (noteIncoming p.src (takeWord w s).2).answer p (.data ((takeWord w s).1.setWidth 64))

/-- A take at its target. -/
def takeAt (p : Packet) (w : Nat) (s : State) : State :=
  if s.core.full w then giveWord p w s
  else if 64 ≤ s.core.deferred.length then s.answer p (.nack 0)
  else (deferTake ⟨w, some (p.src, p.slot)⟩ s).send { p with src := p.dst, dst := p.src, body := .queued }

/-- A ttake at its target. -/
def ttakeAt (p : Packet) (sentinel : Word) (w : Nat) (s : State) : State :=
  if s.core.full w then giveWord p w s else s.answer p (.data (sentinel.setWidth 64))

/-- A put at its target. -/
def putAt (p : Packet) (v : Word) (w : Nat) (s : State) : State :=
  if s.core.full w then s.answer p (.nack 0) else (putWord w v (noteIncoming p.src s)).answer p .ack

/-- REMOTE_TAKE_REQUEST (R309). -/
def execRemoteTakeRequest (s : State) : Host.Outcome State Fault Refusal :=
  servePacket isTake (fun p s =>
    match p.body with
    | .take a => serveWord p a (takeAt p) s
    | _ => s) s

/-- REMOTE_TTAKE_REQUEST (R309). -/
def execRemoteTtakeRequest (s : State) : Host.Outcome State Fault Refusal :=
  servePacket isTtake (fun p s =>
    match p.body with
    | .ttake a v => serveWord p a (ttakeAt p v) s
    | _ => s) s

/-- REMOTE_PUT_REQUEST (R309). -/
def execRemotePutRequest (s : State) : Host.Outcome State Fault Refusal :=
  servePacket isPut (fun p s =>
    match p.body with
    | .put a v => serveWord p a (putAt p v) s
    | _ => s) s

/-! ## Remote signals and commands (R225, R236, R314) -/

/-- The body is a remote EVSIG. -/
def isSignal (p : Packet) : Bool :=
  match p.body with
  | .evsig _ _ => true
  | _ => false

/-- REMOTE_EVSIG_REQUEST (R314), at the event line of the steward's cluster. -/
def execRemoteEvsigRequest (s : State) : Host.Outcome State Fault Refusal :=
  servePacket isSignal (fun p s =>
    match p.body with
    | .evsig _ n =>
      (s.onUnits [clusterAt (localOf p.dst)] fun u => { u with evs := vmod u.evs n.toNat evSignal }).answer p .ack
    | _ => s) s

/-- What a target does with a remote command: none while it is held. -/
def commandAt (p : Packet) (s : State) : Option State :=
  let l := localOf p.dst
  match p.body with
  | .mcmd cap w a b =>
    if toCompute p then ((takeRemote p cap w a b) (s.focus l)).map fun t => t.focus (localOf s.core.id)
    else some (s.answer p (.nack 1))
  | .radv h side n =>
    if decide (l < 0x4000) then ((takeAdvance p h side n) (s.focus l)).map fun t => t.focus (localOf s.core.id)
    else some (s.answer p (.nack 1))
  | _ => none

/-- A remote matrix command that its target does not hold. -/
def matrixReady (s : State) (p : Packet) : Bool :=
  match p.body with
  | .mcmd _ _ _ _ => (commandAt p s).isSome
  | _ => false

/-- A CB.RADV that its target does not hold. -/
def advanceReady (s : State) (p : Packet) : Bool :=
  match p.body with
  | .radv _ _ _ => (commandAt p s).isSome
  | _ => false

/-- REMOTE_MATRIX_COMMAND (R225). -/
def execRemoteMatrixCommand (s : State) : Host.Outcome State Fault Refusal :=
  servePacket (matrixReady s) (fun p s => (commandAt p s).getD s) s

/-- REMOTE_HANDLE_ADVANCE (R236). -/
def execRemoteHandleAdvance (s : State) : Host.Outcome State Fault Refusal :=
  servePacket (advanceReady s) (fun p s => (commandAt p s).getD s) s

/-! ## What comes back (R290, R292, R293, R309) -/

/-- A reply that ends a request; a refusal for a retry does not. -/
def isReply (p : Packet) : Bool :=
  match p.body with
  | .reply r => r != .nack 0
  | _ => false

/-- REMOTE_REPLY (R290): the oldest reply reaches its slot. -/
def execRemoteReply (s : State) : Host.Outcome State Fault Refusal :=
  servePacket isReply (fun p s =>
    match p.body with
    | .reply r => s.at (localOf p.dst) (deliverReply p.slot.toNat r)
    | _ => s) s

/-- The refusal for a retry that came to slot `t` of the core in focus. -/
def retryFor (s : State) (t : BitVec 5) (p : Packet) : Bool := p.body == .reply (.nack 0) && p.dst == s.core.id && p.slot == t

/-- NACK_RETRY (R293, R309): the network interface of the core in focus sends the request of slot `t` again. -/
def execNackRetry (t : BitVec 5) (s : State) : Host.Outcome State Fault Refusal :=
  servePacket (retryFor s t) (fun _ s =>
    match s.core.ni.slot t.toNat with
    | none => s
    | some x => if x.reply.isSome then s else s.send x.packet) s

/-- QUEUED_NOTICE (R309): the slot of the take is no longer timed. -/
def execQueuedNotice (s : State) : Host.Outcome State Fault Refusal :=
  servePacket (fun p => p.body == .queued) (fun p s =>
    s.at (localOf p.dst) fun t =>
      t.mapNi fun n => n.setSlot p.slot.toNat ((n.slot p.slot.toNat).map fun x => { x with timed := false })) s

/-- The packet is a slot's request or comes back to it. -/
def ofSlot (x : Slot) (p : Packet) : Bool :=
  (p.src == x.packet.src && p.slot == x.packet.slot && (flowOf p.body).isSome) ||
    (p.dst == x.packet.src && p.slot == x.packet.slot && (flowOf p.body).isNone)

/-- A request is withdrawn wherever it stands (log 13), the copy of a message at a paired receiver's follower with it; an answer under way
from another package finds nobody. -/
def withdrawRequest (x : Slot) (s : State) : State :=
  let keep (l : List Packet) : List Packet := l.filter fun p => !ofSlot x p
  let stay (l : List Flight) : List Flight := l.filter fun f => !ofSlot x f.packet
  let clean (r : FRec) : FRec := { r with reqs := keep r.reqs }
  let t := { s with
    fabric := keep s.fabric, lightOut := stay s.lightOut
    lightIn := s.lightIn.map fun (f : Flight) => if ofSlot x f.packet then silence f else f
    walks := s.walks.filter (fun w => !ofSlot x w.packet)
    launches := s.launches.map fun (g : Launch) => { g with backlog := keep g.backlog } }
  let u := t.mapFn x.packet.tenant.toNat fun h =>
    { h with records := h.records.map clean, fqwait := h.fqwait.map clean }
  if pkgOf x.packet.dst = s.pkg ∧ localOf x.packet.dst < 0x4400 then
    (dropWaiter x u).at (localOf x.packet.dst) fun v =>
      let w := v.mapNi fun n => { n with held := n.held.filter fun h => !(h.ack && ofSlot x h.packet) }
      if v.compute && v.paired && !v.pairFollower then
        w.at (partnerOf v) fun y => y.mapNi fun n => { n with held := n.held.filter fun h => h.packet != x.packet }
      else w
  else u

/-- The slot is held by an instruction of the LEASE group that waits for the lease unit (R394). -/
def leaseWaits (s : State) (t : Nat) : Bool :=
  s.core.stalled && s.core.ni.reserved == some t &&
    match (fetchWord s).map decode with
    | some (.ok (.lease _ _ _ _)) | some (.ok (.lrel _ _)) | some (.ok (.lfloor _ _)) | some (.ok (.lqry _ _ _)) => true
    | _ => false

/-- SLOT_TIMEOUT (R292): a timed slot of the core in focus that has no reply, and whose request no target has performed, completes
with subcode 3; the request writes nothing (R317). A slot of the LEASE
group has no limit: that it ends so says that the lease unit cannot answer, which is a device Fatal error (R394, R403; log 18). -/
def execSlotTimeout (t : BitVec 5) (s : State) : Host.Outcome State Fault Refusal :=
  happen (fun s =>
    match s.core.ni.slot t.toNat with
    | none => if leaseWaits s t.toNat then s.deviceFatal else s
    | some x =>
      if x.timed && x.reply.isNone && !replyComes s x && x.kind != .lease then deliverReply t.toNat (.nack 3) (withdrawRequest x s) else s) s

end Sys2Proof.Machine
end

