-- ==== Sys2Proof/Machine/System.lean ====
section
/-!
DEFINITION. The SYS group (R140 to R147).
-/

namespace Sys2Proof.Machine
open Sys2Proof

/-- The trap value of BREAK and SYSC: the code in bits 6:0 (R130). -/
def codeValue (c : BitVec 7) : Word := c.setWidth 32

/-- SYSC (R141): cause 0x08 from user mode, 0x09 from supervisor mode. -/
def execSysc (c : BitVec 7) : State → Host.Outcome State Fault Refusal :=
  perform (.sysc c) true fun s => .error (.trap (if s.inUser then 8 else 9) (codeValue c))

/-- BREAK (R142): cause 0x03, or debug halt at its own address when SDBG.bpen is set. -/
def execBrk (c : BitVec 7) : State → Host.Outcome State Fault Refusal :=
  performWith (.brk c) true fun s =>
    if s.core.csr.sdbg.getLsbD 2 then .ok (haltAt 3 s.core.pc s) else .error (.trap 3 (codeValue c))

/-- A user handler of a compute core runs: what URET and UDECLINE need (R143, R145). -/
def handlerRuns (s : State) : Bool := s.compute && s.inUser && s.inHandler

/-- URET (R143). -/
def execUret (s : State) : Host.Outcome State Fault Refusal :=
  performWith .uret (handlerRuns s) (fun s => .ok (finish s.core.mode (returnUser s))) s

/-- SRET (R144): illegal in user mode (R52). -/
def execSret (s : State) : Host.Outcome State Fault Refusal :=
  performWith .sret (!s.inUser) (fun s => .ok (finish s.core.mode (returnSupervisor s))) s

/-- UDECLINE (R145): escalates with decl = 1 and the cause and value that stand in UCAUSE and UVAL. -/
def execUdecline (s : State) : Host.Outcome State Fault Refusal :=
  performWith .udecline (handlerRuns s) (fun s => .ok (escalate 2 s.core.csr.ucause s.core.csr.uval s)) s

/-- A bit of UIP or SIP is set, enabled or not (R146). -/
def anyPending (s : State) : Bool := uipOf s != 0 || sipOf s != 0

/-- The core runs the resident handler of a pre-emption (R379). -/
def handlerOver (s : State) : Bool := s.entered && s.core.csr.ctxsaved

/-- A WFI of the resident handler of a pre-emption ends it (R379): the core then writes its block. -/
def endHandler (s : State) : State := if handlerOver s then s.mapCore fun c => { c with handlerEnded := true } else s

/-- WFI (R146): waits until something is pending. -/
def execWfi (s : State) : Host.Outcome State Fault Refusal :=
  perform .wfi true (fun s => if anyPending s then .ok (endHandler s) else .error (.wait (endHandler s))) s

/-- MCAP (R147): stewards only; without a resident launch cause 0x12. -/
def execMcap (d a : Reg) (s : State) : Host.Outcome State Fault Refusal :=
  perform (.mcap d a) s.steward
    (fun s =>
      match s.unit.launch, s.unit.key with
      | some _, some k => .ok (s.setX d (capMac k (s.x a)))
      | _, _ => .error (.trap 0x12 (wordOf (.mcap d a)))) s

end Sys2Proof.Machine
end

