-- ==== Sys2Proof/Machine/Dispatch.lean ====
section
/-!
DEFINITION. The step of every row of the operation table: one arm per constructor, each one call of its meaning.
-/

namespace Sys2Proof.Machine
open Sys2Proof

def exec (i : Instr) (s : State) : Host.Outcome State Fault Refusal :=
  match i with
  | .ill x => Sys2Proof.Machine.execIll x s
  | .add d a b => Sys2Proof.Machine.execAdd d a b s
  | .sub d a b => Sys2Proof.Machine.execSub d a b s
  | .and d a b => Sys2Proof.Machine.execAnd d a b s
  | .or d a b => Sys2Proof.Machine.execOr d a b s
  | .xor d a b => Sys2Proof.Machine.execXor d a b s
  | .andn d a b => Sys2Proof.Machine.execAndn d a b s
  | .sll d a b => Sys2Proof.Machine.execSll d a b s
  | .srl d a b => Sys2Proof.Machine.execSrl d a b s
  | .sra d a b => Sys2Proof.Machine.execSra d a b s
  | .ror d a b => Sys2Proof.Machine.execRor d a b s
  | .slt d a b => Sys2Proof.Machine.execSlt d a b s
  | .sltu d a b => Sys2Proof.Machine.execSltu d a b s
  | .min d a b => Sys2Proof.Machine.execMin d a b s
  | .max d a b => Sys2Proof.Machine.execMax d a b s
  | .minu d a b => Sys2Proof.Machine.execMinu d a b s
  | .maxu d a b => Sys2Proof.Machine.execMaxu d a b s
  | .mul d a b => Sys2Proof.Machine.execMul d a b s
  | .mulh d a b => Sys2Proof.Machine.execMulh d a b s
  | .mulhu d a b => Sys2Proof.Machine.execMulhu d a b s
  | .mulhsu d a b => Sys2Proof.Machine.execMulhsu d a b s
  | .div d a b => Sys2Proof.Machine.execDiv d a b s
  | .divu d a b => Sys2Proof.Machine.execDivu d a b s
  | .rem d a b => Sys2Proof.Machine.execRem d a b s
  | .remu d a b => Sys2Proof.Machine.execRemu d a b s
  | .clz d a => Sys2Proof.Machine.execClz d a s
  | .ctz d a => Sys2Proof.Machine.execCtz d a s
  | .popc d a => Sys2Proof.Machine.execPopc d a s
  | .brev d a => Sys2Proof.Machine.execBrev d a s
  | .bswap d a => Sys2Proof.Machine.execBswap d a s
  | .bfx d a b => Sys2Proof.Machine.execBfx d a b s
  | .bfxu d a b => Sys2Proof.Machine.execBfxu d a b s
  | .bfi d a b => Sys2Proof.Machine.execBfi d a b s
  | .okeyH d a => Sys2Proof.Machine.execOkeyH d a s
  | .okeyW d a => Sys2Proof.Machine.execOkeyW d a s
  | .addi d a j => Sys2Proof.Machine.execAddi d a j s
  | .andi d a j => Sys2Proof.Machine.execAndi d a j s
  | .ori d a j => Sys2Proof.Machine.execOri d a j s
  | .xori d a j => Sys2Proof.Machine.execXori d a j s
  | .slti d a j => Sys2Proof.Machine.execSlti d a j s
  | .sltiu d a j => Sys2Proof.Machine.execSltiu d a j s
  | .slli d a w => Sys2Proof.Machine.execSlli d a w s
  | .srli d a w => Sys2Proof.Machine.execSrli d a w s
  | .srai d a w => Sys2Proof.Machine.execSrai d a w s
  | .rori d a w => Sys2Proof.Machine.execRori d a w s
  | .lui d j => Sys2Proof.Machine.execLui d j s
  | .auipc d j => Sys2Proof.Machine.execAuipc d j s
  | .jal d j => Sys2Proof.Machine.execJal d j s
  | .jalr d a j => Sys2Proof.Machine.execJalr d a j s
  | .loop a b j => Sys2Proof.Machine.execLoop a b j s
  | .beq a b j => Sys2Proof.Machine.execBeq a b j s
  | .bne a b j => Sys2Proof.Machine.execBne a b j s
  | .blt a b j => Sys2Proof.Machine.execBlt a b j s
  | .bge a b j => Sys2Proof.Machine.execBge a b j s
  | .bltu a b j => Sys2Proof.Machine.execBltu a b j s
  | .bgeu a b j => Sys2Proof.Machine.execBgeu a b j s
  | .lb d a j => Sys2Proof.Machine.execLb d a j s
  | .lbu d a j => Sys2Proof.Machine.execLbu d a j s
  | .lh d a j => Sys2Proof.Machine.execLh d a j s
  | .lhu d a j => Sys2Proof.Machine.execLhu d a j s
  | .lw d a j => Sys2Proof.Machine.execLw d a j s
  | .flw d a j => Sys2Proof.Machine.execFlw d a j s
  | .sb b a j => Sys2Proof.Machine.execSb b a j s
  | .sh b a j => Sys2Proof.Machine.execSh b a j s
  | .sw b a j => Sys2Proof.Machine.execSw b a j s
  | .fsw b a j => Sys2Proof.Machine.execFsw b a j s
  | .lwp d a j => Sys2Proof.Machine.execLwp d a j s
  | .swp b a j => Sys2Proof.Machine.execSwp b a j s
  | .tlook d a => Sys2Proof.Machine.execTlook d a s
  | .tset d a b => Sys2Proof.Machine.execTset d a b s
  | .tinv d a => Sys2Proof.Machine.execTinv d a s
  | .take d a => Sys2Proof.Machine.execTake d a s
  | .ttake d a b => Sys2Proof.Machine.execTtake d a b s
  | .put a b => Sys2Proof.Machine.execPut a b s
  | .feset a b => Sys2Proof.Machine.execFeset a b s
  | .fence w p q u v => Sys2Proof.Machine.execFence w p q u v s
  | .fenceI => Sys2Proof.Machine.execFenceI s
  | .fenceE => Sys2Proof.Machine.execFenceE s
  | .amoadd d a b w o n => Sys2Proof.Machine.execAmoadd d a b w o n s
  | .amoand d a b w o n => Sys2Proof.Machine.execAmoand d a b w o n s
  | .amoor d a b w o n => Sys2Proof.Machine.execAmoor d a b w o n s
  | .amoxor d a b w o n => Sys2Proof.Machine.execAmoxor d a b w o n s
  | .amomin d a b w o n => Sys2Proof.Machine.execAmomin d a b w o n s
  | .amomax d a b w o n => Sys2Proof.Machine.execAmomax d a b w o n s
  | .amominu d a b w o n => Sys2Proof.Machine.execAmominu d a b w o n s
  | .amomaxu d a b w o n => Sys2Proof.Machine.execAmomaxu d a b w o n s
  | .amoswap d a b w o n => Sys2Proof.Machine.execAmoswap d a b w o n s
  | .amocas d a b w o => Sys2Proof.Machine.execAmocas d a b w o s
  | .amoincb d a b w o n => Sys2Proof.Machine.execAmoincb d a b w o n s
  | .amofadd d a b w o n => Sys2Proof.Machine.execAmofadd d a b w o n s
  | .rload d a p => Sys2Proof.Machine.execRload d a p s
  | .rwait d a p => Sys2Proof.Machine.execRwait d a p s
  | .rstore a b p => Sys2Proof.Machine.execRstore a b p s
  | .msend => Sys2Proof.Machine.execMsend s
  | .mrecv d => Sys2Proof.Machine.execMrecv d s
  | .mpop => Sys2Proof.Machine.execMpop s
  | .hdrPack d a l => Sys2Proof.Machine.execHdrPack d a l s
  | .hdrParse d a l => Sys2Proof.Machine.execHdrParse d a l s
  | .hdrLay a l => Sys2Proof.Machine.execHdrLay a l s
  | .arrive d l n => Sys2Proof.Machine.execArrive d l n s
  | .bwait a l n => Sys2Proof.Machine.execBwait a l n s
  | .bgroup a l n => Sys2Proof.Machine.execBgroup a l n s
  | .evwait d n => Sys2Proof.Machine.execEvwait d n s
  | .evsig a n => Sys2Proof.Machine.execEvsig a n s
  | .evlock n => Sys2Proof.Machine.execEvlock n s
  | .evunlock n => Sys2Proof.Machine.execEvunlock n s
  | .pdone => Sys2Proof.Machine.execPdone s
  | .pphase => Sys2Proof.Machine.execPphase s
  | .follow d a => Sys2Proof.Machine.execFollow d a s
  | .detach => Sys2Proof.Machine.execDetach s
  | .sysc c => Sys2Proof.Machine.execSysc c s
  | .brk c => Sys2Proof.Machine.execBrk c s
  | .uret => Sys2Proof.Machine.execUret s
  | .sret => Sys2Proof.Machine.execSret s
  | .udecline => Sys2Proof.Machine.execUdecline s
  | .wfi => Sys2Proof.Machine.execWfi s
  | .mcap d a => Sys2Proof.Machine.execMcap d a s
  | .csrrw d a n => Sys2Proof.Machine.execCsrrw d a n s
  | .csrrs d a n => Sys2Proof.Machine.execCsrrs d a n s
  | .csrrc d a n => Sys2Proof.Machine.execCsrrc d a n s
  | .fadd d a b m => Sys2Proof.Machine.execFadd d a b m s
  | .fsub d a b m => Sys2Proof.Machine.execFsub d a b m s
  | .fmul d a b m => Sys2Proof.Machine.execFmul d a b m s
  | .fdiv d a b m => Sys2Proof.Machine.execFdiv d a b m s
  | .fsqrt d a m => Sys2Proof.Machine.execFsqrt d a m s
  | .fmin d a b => Sys2Proof.Machine.execFmin d a b s
  | .fmax d a b => Sys2Proof.Machine.execFmax d a b s
  | .fminp d a b => Sys2Proof.Machine.execFminp d a b s
  | .fmaxp d a b => Sys2Proof.Machine.execFmaxp d a b s
  | .fsgnj d a b => Sys2Proof.Machine.execFsgnj d a b s
  | .fsgnjn d a b => Sys2Proof.Machine.execFsgnjn d a b s
  | .fsgnjx d a b => Sys2Proof.Machine.execFsgnjx d a b s
  | .feq d a b => Sys2Proof.Machine.execFeq d a b s
  | .flt d a b => Sys2Proof.Machine.execFlt d a b s
  | .fle d a b => Sys2Proof.Machine.execFle d a b s
  | .fclass d a => Sys2Proof.Machine.execFclass d a s
  | .fcvtWS d a m => Sys2Proof.Machine.execFcvtWS d a m s
  | .fcvtWuS d a m => Sys2Proof.Machine.execFcvtWuS d a m s
  | .fcvtSW d a m => Sys2Proof.Machine.execFcvtSW d a m s
  | .fcvtSWu d a m => Sys2Proof.Machine.execFcvtSWu d a m s
  | .fcvtSBh d a => Sys2Proof.Machine.execFcvtSBh d a s
  | .fcvtBhS d a m => Sys2Proof.Machine.execFcvtBhS d a m s
  | .fcvtSHh d a => Sys2Proof.Machine.execFcvtSHh d a s
  | .fcvtHhS d a m => Sys2Proof.Machine.execFcvtHhS d a m s
  | .fmvXS d a => Sys2Proof.Machine.execFmvXS d a s
  | .fmvSX d a => Sys2Proof.Machine.execFmvSX d a s
  | .fexp2 d a m => Sys2Proof.Machine.execFexp2 d a m s
  | .flog2 d a m => Sys2Proof.Machine.execFlog2 d a m s
  | .frcp d a m => Sys2Proof.Machine.execFrcp d a m s
  | .frsq d a m => Sys2Proof.Machine.execFrsq d a m s
  | .ftanh d a m => Sys2Proof.Machine.execFtanh d a m s
  | .fsigm d a m => Sys2Proof.Machine.execFsigm d a m s
  | .fma d a b c m => Sys2Proof.Machine.execFma d a b c m s
  | .fms d a b c m => Sys2Proof.Machine.execFms d a b c m s
  | .fnma d a b c m => Sys2Proof.Machine.execFnma d a b c m s
  | .fnms d a b c m => Sys2Proof.Machine.execFnms d a b c m s
  | .hadd2 d a b m => Sys2Proof.Machine.execHadd2 d a b m s
  | .hmul2 d a b m => Sys2Proof.Machine.execHmul2 d a b m s
  | .hfma2 d a b m => Sys2Proof.Machine.execHfma2 d a b m s
  | .hmax2 d a b => Sys2Proof.Machine.execHmax2 d a b s
  | .iaddF d a b => Sys2Proof.Machine.execIaddF d a b s
  | .isubF d a b => Sys2Proof.Machine.execIsubF d a b s
  | .iandF d a b => Sys2Proof.Machine.execIandF d a b s
  | .iorF d a b => Sys2Proof.Machine.execIorF d a b s
  | .ixorF d a b => Sys2Proof.Machine.execIxorF d a b s
  | .isllF d a b => Sys2Proof.Machine.execIsllF d a b s
  | .isrlF d a b => Sys2Proof.Machine.execIsrlF d a b s
  | .iselF d a b => Sys2Proof.Machine.execIselF d a b s
  | .icmpltF d a b => Sys2Proof.Machine.execIcmpltF d a b s
  | .icmpeqF d a b => Sys2Proof.Machine.execIcmpeqF d a b s
  | .scfg d a b j => Sys2Proof.Machine.execScfg d a b j s
  | .smap d => Sys2Proof.Machine.execSmap d s
  | .sunmap d => Sys2Proof.Machine.execSunmap d s
  | .vloop d a k => Sys2Proof.Machine.execVloop d a k s
  | .vwait => Sys2Proof.Machine.execVwait s
  | .sstat d a w => Sys2Proof.Machine.execSstat d a w s
  | .mcfgStr d a b n => Sys2Proof.Machine.execMcfgStr d a b n s
  | .mcfgScl d a b n => Sys2Proof.Machine.execMcfgScl d a b n s
  | .mldw d a b n => Sys2Proof.Machine.execMldw d a b n s
  | .mswap d n => Sys2Proof.Machine.execMswap d n s
  | .mstrm d a b n => Sys2Proof.Machine.execMstrm d a b n s
  | .mstrmH d a b n => Sys2Proof.Machine.execMstrmH d a b n s
  | .mdrn d a b n j z => Sys2Proof.Machine.execMdrn d a b n j z s
  | .mzero d b n => Sys2Proof.Machine.execMzero d b n s
  | .mwait => Sys2Proof.Machine.execMwait s
  | .mcmd d a b => Sys2Proof.Machine.execMcmd d a b s
  | .mstat d w => Sys2Proof.Machine.execMstat d w s
  | .ccfg a b j => Sys2Proof.Machine.execCcfg a b j s
  | .ccopy d a b n h w m => Sys2Proof.Machine.execCcopy d a b n h w m s
  | .cgath d a b n h m => Sys2Proof.Machine.execCgath d a b n h m s
  | .cwait => Sys2Proof.Machine.execCwait s
  | .cbCfg d a b => Sys2Proof.Machine.execCbCfg d a b s
  | .cbWaitf d a b => Sys2Proof.Machine.execCbWaitf d a b s
  | .cbWaite d a b => Sys2Proof.Machine.execCbWaite d a b s
  | .cbAdvp a b => Sys2Proof.Machine.execCbAdvp a b s
  | .cbAdvc a b => Sys2Proof.Machine.execCbAdvc a b s
  | .cbRadv a b => Sys2Proof.Machine.execCbRadv a b s
  | .pcfg a b g => Sys2Proof.Machine.execPcfg a b g s
  | .pfetch d a b => Sys2Proof.Machine.execPfetch d a b s
  | .confirm d a n => Sys2Proof.Machine.execConfirm d a n s
  | .cancel d => Sys2Proof.Machine.execCancel d s
  | .pwait d => Sys2Proof.Machine.execPwait d s
  | .pread d a w => Sys2Proof.Machine.execPread d a w s
  | .preadEnt d a => Sys2Proof.Machine.execPreadEnt d a s
  | .ptrainSet a b => Sys2Proof.Machine.execPtrainSet a b s
  | .ptrainInv a => Sys2Proof.Machine.execPtrainInv a s
  | .eclr d => Sys2Proof.Machine.execEclr d s
  | .eins d a b => Sys2Proof.Machine.execEins d a b s
  | .eld d a => Sys2Proof.Machine.execEld d a s
  | .est d a => Sys2Proof.Machine.execEst d a s
  | .emax d a b => Sys2Proof.Machine.execEmax d a b s
  | .esum d a b => Sys2Proof.Machine.execEsum d a b s
  | .eicv d a b => Sys2Proof.Machine.execEicv d a b s
  | .ecnj d a => Sys2Proof.Machine.execEcnj d a s
  | .eeval d a b w => Sys2Proof.Machine.execEeval d a b w s
  | .eshf d a b => Sys2Proof.Machine.execEshf d a b s
  | .ecnt d a => Sys2Proof.Machine.execEcnt d a s
  | .edomClip d a b => Sys2Proof.Machine.execEdomClip d a b s
  | .edomLo d a => Sys2Proof.Machine.execEdomLo d a s
  | .edomHi d a => Sys2Proof.Machine.execEdomHi d a s
  | .lease d a b l => Sys2Proof.Machine.execLease d a b l s
  | .lrel a b => Sys2Proof.Machine.execLrel a b s
  | .lqry d a w => Sys2Proof.Machine.execLqry d a w s
  | .lfloor a b => Sys2Proof.Machine.execLfloor a b s
  | .stewardEscalationEntry => Sys2Proof.Machine.execStewardEscalationEntry s
  | .engineFaultReport => Sys2Proof.Machine.execEngineFaultReport s
  | .refusalReport => Sys2Proof.Machine.execRefusalReport s
  | .completionInterrupt => Sys2Proof.Machine.execCompletionInterrupt s
  | .messageArrivalInterrupt => Sys2Proof.Machine.execMessageArrivalInterrupt s
  | .preEmptionEntry => Sys2Proof.Machine.execPreEmptionEntry s
  | .phaseAbortInterrupt => Sys2Proof.Machine.execPhaseAbortInterrupt s
  | .debugHalt => Sys2Proof.Machine.execDebugHalt s
  | .machineCheck => Sys2Proof.Machine.execMachineCheck s
  | .dctlKill c => Sys2Proof.Machine.execDctlKill c s
  | .dctlUret c => Sys2Proof.Machine.execDctlUret c s
  | .dctlGo c => Sys2Proof.Machine.execDctlGo c s
  | .pointDispatch => Sys2Proof.Machine.execPointDispatch s
  | .phaseClosure l => Sys2Proof.Machine.execPhaseClosure l s
  | .launchCompletion l => Sys2Proof.Machine.execLaunchCompletion l s
  | .phaseWatchdogExpiry => Sys2Proof.Machine.execPhaseWatchdogExpiry s
  | .precActRollback => Sys2Proof.Machine.execPrecActRollback s
  | .precActKill => Sys2Proof.Machine.execPrecActKill s
  | .precActTimeout => Sys2Proof.Machine.execPrecActTimeout s
  | .phaseRollback l => Sys2Proof.Machine.execPhaseRollback l s
  | .vectorLoopComplete => Sys2Proof.Machine.execVectorLoopComplete s
  | .matrixCommandStart => Sys2Proof.Machine.execMatrixCommandStart s
  | .matrixCommandComplete => Sys2Proof.Machine.execMatrixCommandComplete s
  | .remoteMatrixCommand => Sys2Proof.Machine.execRemoteMatrixCommand s
  | .copyCommandStart => Sys2Proof.Machine.execCopyCommandStart s
  | .copyCommandComplete => Sys2Proof.Machine.execCopyCommandComplete s
  | .copyPieceTimeout r => Sys2Proof.Machine.execCopyPieceTimeout r s
  | .remoteHandleAdvance => Sys2Proof.Machine.execRemoteHandleAdvance s
  | .memoryCoreRequest => Sys2Proof.Machine.execMemoryCoreRequest s
  | .movementPlanLoad l => Sys2Proof.Machine.execMovementPlanLoad l s
  | .movementPlanStore l => Sys2Proof.Machine.execMovementPlanStore l s
  | .pageWalkComplete => Sys2Proof.Machine.execPageWalkComplete s
  | .predictorLookup => Sys2Proof.Machine.execPredictorLookup s
  | .trainingUpdate => Sys2Proof.Machine.execTrainingUpdate s
  | .exposureSwap p => Sys2Proof.Machine.execExposureSwap p s
  | .trueFetchComplete p => Sys2Proof.Machine.execTrueFetchComplete p s
  | .speculativeFetchComplete p => Sys2Proof.Machine.execSpeculativeFetchComplete p s
  | .speculativeRequestDrop p => Sys2Proof.Machine.execSpeculativeRequestDrop p s
  | .messageArrival => Sys2Proof.Machine.execMessageArrival s
  | .ringHoldTimeout => Sys2Proof.Machine.execRingHoldTimeout s
  | .remoteLoadRequest => Sys2Proof.Machine.execRemoteLoadRequest s
  | .remoteStoreRequest => Sys2Proof.Machine.execRemoteStoreRequest s
  | .atomicRequest => Sys2Proof.Machine.execAtomicRequest s
  | .remoteReply => Sys2Proof.Machine.execRemoteReply s
  | .nackRetry t => Sys2Proof.Machine.execNackRetry t s
  | .slotTimeout t => Sys2Proof.Machine.execSlotTimeout t s
  | .rftakeLoad d => Sys2Proof.Machine.execRftakeLoad d s
  | .rfttakeLoad d => Sys2Proof.Machine.execRfttakeLoad d s
  | .rfputStore b => Sys2Proof.Machine.execRfputStore b s
  | .remoteTakeRequest => Sys2Proof.Machine.execRemoteTakeRequest s
  | .remoteTtakeRequest => Sys2Proof.Machine.execRemoteTtakeRequest s
  | .remotePutRequest => Sys2Proof.Machine.execRemotePutRequest s
  | .queuedNotice => Sys2Proof.Machine.execQueuedNotice s
  | .remoteEvsigRequest => Sys2Proof.Machine.execRemoteEvsigRequest s
  | .barwLoad d n => Sys2Proof.Machine.execBarwLoad d n s
  | .grpwLoad d n => Sys2Proof.Machine.execGrpwLoad d n s
  | .evwLoad d n => Sys2Proof.Machine.execEvwLoad d n s
  | .evwStore n => Sys2Proof.Machine.execEvwStore n s
  | .mxwLoad d n => Sys2Proof.Machine.execMxwLoad d n s
  | .mxwStore n => Sys2Proof.Machine.execMxwStore n s
  | .evstatRead d n => Sys2Proof.Machine.execEvstatRead d n s
  | .qwrWrite t q v => Sys2Proof.Machine.execQwrWrite t q v s
  | .packetEnqueue t q => Sys2Proof.Machine.execPacketEnqueue t q s
  | .qctlWrite t q v => Sys2Proof.Machine.execQctlWrite t q v s
  | .qundRead t q => Sys2Proof.Machine.execQundRead t q s
  | .distributorSelection t => Sys2Proof.Machine.execDistributorSelection t s
  | .residencyExpiry t => Sys2Proof.Machine.execResidencyExpiry t s
  | .placement t => Sys2Proof.Machine.execPlacement t s
  | .launchStart l => Sys2Proof.Machine.execLaunchStart l s
  | .contextSave => Sys2Proof.Machine.execContextSave s
  | .contextBlockWrite => Sys2Proof.Machine.execContextBlockWrite s
  | .clusterBlockSave l => Sys2Proof.Machine.execClusterBlockSave l s
  | .launchResume l => Sys2Proof.Machine.execLaunchResume l s
  | .clownOwnerWrite c t => Sys2Proof.Machine.execClownOwnerWrite c t s
  | .clusterPreparationDone c => Sys2Proof.Machine.execClusterPreparationDone c s
  | .ingrWrite a t v => Sys2Proof.Machine.execIngrWrite a t v s
  | .fqrespRetry t r => Sys2Proof.Machine.execFqrespRetry t r s
  | .fqrespFail t r => Sys2Proof.Machine.execFqrespFail t r s
  | .atcinvWrite t v => Sys2Proof.Machine.execAtcinvWrite t v s
  | .atcInvalidationDone t => Sys2Proof.Machine.execAtcInvalidationDone t s
  | .leaseRequest a t n all m => Sys2Proof.Machine.execLeaseRequest a t n all m s
  | .leaseGrant => Sys2Proof.Machine.execLeaseGrant s
  | .drainGraceExpiry b => Sys2Proof.Machine.execDrainGraceExpiry b s
  | .leaseRelease b => Sys2Proof.Machine.execLeaseRelease b s
  | .floorChange a n => Sys2Proof.Machine.execFloorChange a n s
  | .peerLeave a => Sys2Proof.Machine.execPeerLeave a s
  | .domainBringup m => Sys2Proof.Machine.execDomainBringup m s
  | .linkFlit q w ok => Sys2Proof.Machine.execLinkFlit q w ok s
  | .laneRetire b w tx => Sys2Proof.Machine.execLaneRetire b w tx s
  | .flowletGapExpiry w e => Sys2Proof.Machine.execFlowletGapExpiry w e s
  | .fieldTestPoint c k u ok => Sys2Proof.Machine.execFieldTestPoint c k u ok s
  | .tamperInput => Sys2Proof.Machine.execTamperInput s
  | .alarmWindowExpiry => Sys2Proof.Machine.execAlarmWindowExpiry s
  | .almstatRead => Sys2Proof.Machine.execAlmstatRead s
  | .fuseDecommission => Sys2Proof.Machine.execFuseDecommission s
  | .qtctlGo => Sys2Proof.Machine.execQtctlGo s
  | .qtnonceWrite j v => Sys2Proof.Machine.execQtnonceWrite j v s
  | .quoteDone => Sys2Proof.Machine.execQuoteDone s
  | .sidebandQuoteRequest v => Sys2Proof.Machine.execSidebandQuoteRequest v s
  | .mctpRequest k => Sys2Proof.Machine.execMctpRequest k s
  | .boundaryScan held => Sys2Proof.Machine.execBoundaryScan held s
  | .frstWarm t => Sys2Proof.Machine.execFrstWarm t s
  | .coldReset => Sys2Proof.Machine.execColdReset s
  | .warmReset => Sys2Proof.Machine.execWarmReset s
  | .vfFunctionLevelReset t => Sys2Proof.Machine.execVfFunctionLevelReset t s
  | .boot ok => Sys2Proof.Machine.execBoot ok s
  | .configRequest t => Sys2Proof.Machine.execConfigRequest t s
  | .rmctlGo w => Sys2Proof.Machine.execRmctlGo w s
  | .recoverySubmitDone c => Sys2Proof.Machine.execRecoverySubmitDone c s
  | .throttleDownStep n => Sys2Proof.Machine.execThrottleDownStep n s
  | .throttleUpStep n => Sys2Proof.Machine.execThrottleUpStep n s
  | .overtempFatal => Sys2Proof.Machine.execOvertempFatal s
  | .checkpointSave v => Sys2Proof.Machine.execCheckpointSave v s
  | .checkpointRestore v => Sys2Proof.Machine.execCheckpointRestore v s
  | .checkpointDone c => Sys2Proof.Machine.execCheckpointDone c s
  | .ckrxWrite v => Sys2Proof.Machine.execCkrxWrite v s
  | .registerWrite t bar o v => Sys2Proof.Machine.execRegisterWrite t bar o v s
  | .provisioning => Sys2Proof.Machine.execProvisioning s
  | .fqtailWrite t v => Sys2Proof.Machine.execFqtailWrite t v s
  | .revokeNotice t e b => Sys2Proof.Machine.execRevokeNotice t e b s
  | .trueFetchTimeout p => Sys2Proof.Machine.execTrueFetchTimeout p s
  | .postedWrite t phys o v => Sys2Proof.Machine.execPostedWrite t phys o v s

end Sys2Proof.Machine
end

