-- ==== Sys2Proof/Machine/Cycle.lean ====
section
/-!
DEFINITION. One step of the package: the turn and the inputs (log 5), what a boundary of the core in focus takes (R134),
the issue of its next instruction, followers (R165 to R169), and what the other units do while it waits.
-/

namespace Sys2Proof.Machine
open Sys2Proof

/-- The outcome of a step. -/
abbrev Result := Host.Outcome State Fault Refusal

/-- `f` done after a step that answers a next state. -/
def andThen (o : Result) (f : State → State) : Result :=
  match o with
  | .next t => .next (f t)
  | .fault r => .fault r
  | .refused r => .refused r

/-- The state that a device step leaves. -/
def after (s : State) (o : Result) : State :=
  match o with
  | .next t => t
  | .fault _ => s
  | .refused _ => s

/-- Device steps done one after another; one that is not due changes nothing. -/
def doAll (fs : List (State → Result)) (s : State) : State := fs.foldl (fun t f => after t (f t)) s

/-! ## The turn (log 5) -/

/-- A core stands at a local endpoint (R19). -/
def coreEndpoint (l : Nat) : Bool := decide (l < 0x4400) || (decide (0x4800 ≤ l) && decide (l < 0x4B00))

/-- The core whose turn it is comes into focus. -/
def takeTurn (s : State) : State :=
  match s.schedule with
  | [] => s
  | l :: rest => if coreEndpoint l then { s with schedule := rest }.focus l else { s with schedule := rest }

/-- A row that happens to the device; the rows of the event-unit window are issued as LW and SW. -/
def occurs (i : Instr) : Bool :=
  match i with
  | .barwLoad _ _ | .grpwLoad _ _ | .evwLoad _ _ | .evwStore _ | .mxwLoad _ _ | .mxwStore _ | .evstatRead _ _
  | .rftakeLoad _ | .rfttakeLoad _ | .rfputStore _ => false
  | _ => i.isEvent

/-! ## Time (log 7) -/

/-- `n` cycles counted by the watchdog of every running gang that no request holds up (R162, R374). -/
def countPhase (n : Nat) (s : State) : State :=
  s.launches.foldl (fun t l =>
    if l.stage == .running && !gangWaits t l then t.onUnits l.gang fun u => { u with elapsed := u.elapsed + n } else t) s

/-- A step takes a free number of cycles, at least one. DESIGN CHOICE (log 7): one count for the package serves as CYCLE of
every core, whatever the frequencies of their islands. -/
def passTime (s : State) : State :=
  let n := Config.ticks s.free + 1
  countPhase n.toNat { s with free := s.free + 1, cycle := s.cycle + n }

/-! ## What the other units do while the core in focus waits -/

/-- The engines of the core in focus. -/
def engineSteps : List (State → Result) :=
  [execVectorLoopComplete, execMatrixCommandStart, execMatrixCommandComplete, execCopyCommandStart,
    execCopyCommandComplete, execTrainingUpdate, execPredictorLookup]
  ++ (List.range 8).map (fun p => execSpeculativeFetchComplete (BitVec.ofNat 3 p))
  ++ (List.range 8).map (fun p => execExposureSwap (BitVec.ofNat 3 p))
  ++ (List.range 8).map (fun p => execTrueFetchComplete (BitVec.ofNat 3 p))

/-- The fabric, the memory cores and the home slices. -/
def fabricSteps : List (State → Result) :=
  [execMemoryCoreRequest, execPageWalkComplete, execAtomicRequest, execRemoteLoadRequest, execRemoteStoreRequest,
    execRemoteTakeRequest, execRemoteTtakeRequest, execRemotePutRequest, execRemoteEvsigRequest,
    execRemoteMatrixCommand, execRemoteHandleAdvance, execMessageArrival, execQueuedNotice, execRemoteReply,
    execLeaseGrant]
  ++ (List.range 32).map (fun i => execNackRetry (BitVec.ofNat 5 i))

/-- The packet processor and the distributor of one function. -/
def functionSteps (t : BitVec 5) : List (State → Result) :=
  (List.range 16).map (fun q => execPacketEnqueue t (BitVec.ofNat 4 q))
  ++ [execDistributorSelection t, execPlacement t, execAtcInvalidationDone t]

/-- What a launch does by itself. -/
def launchSteps (l : Word) : List (State → Result) :=
  [execLaunchStart l, execLaunchResume l, execMovementPlanLoad l, execPhaseRollback l, execMovementPlanStore l,
    execPhaseClosure l, execLaunchCompletion l, execClusterBlockSave l]

/-- Clusters being prepared. -/
def preparing (s : State) : List Nat := ((s.unit.id, s.unit) :: s.units).filterMap fun e => if e.2.ownBusy then some e.1 else none

/-- Messages that wait at the core in focus are tried again (R286, R287). -/
def retryRing (s : State) : State :=
  if s.entered || (s.core.ni.overflow.isEmpty && s.core.ni.held.isEmpty) then s else settleRing s

/-- The other units have a turn. -/
def background (s : State) : State :=
  let s0 := settleEligible (ckProgress (transmit (retryRing s)))
  let s1 := doAll ([execContextSave, execContextBlockWrite] ++ engineSteps ++ fabricSteps) s0
  let s2 := (preparing s1).foldl (fun t k => after t (execClusterPreparationDone (BitVec.ofNat 10 k) t)) s1
  let s3 := (s2.fns.map fun e => e.1).foldl (fun t f => doAll (functionSteps (BitVec.ofNat 5 f)) t) s2
  (s3.launches.map fun l => l.id).foldl (fun t l => doAll (launchSteps l) t) s3

/-- The compute cores of the gangs. -/
def gangSet (s : State) : List Nat := s.launches.foldr (fun l r => l.members ++ r) []

/-- The next core of a gang after the one in focus comes into focus. -/
def rotate (s : State) : State :=
  let ls := gangSet s
  match ls.find? (fun l => decide (localOf s.core.id < l)), ls.head? with
  | some l, _ => s.focus l
  | none, some l => s.focus l
  | none, none => s

/-- Nothing issues: the other units have a turn, and the next core. -/
def tick (s : State) : State := rotate (background s)

/-! ## Boundaries (R134) -/

/-- The first five places of the order: what needs no point. -/
def boundaryFirst (s : State) : Option State :=
  if machineCheckDue s then some (after s (execMachineCheck s))
  else if debugHaltDue s then some (after s (execDebugHalt s))
  else if phaseAbortDue s then some (after s (execPhaseAbortInterrupt s))
  else if preEmptionDue s then some (after s (execPreEmptionEntry s))
  else if escalationDue s then some (after s (execStewardEscalationEntry s))
  else none

/-- The reports and interrupts of a running core. -/
def boundaryRest (s : State) : Option State :=
  if faultReportDue s then some (after s (execEngineFaultReport s))
  else if refusalReportDue s then some (after s (execRefusalReport s))
  else if completionDue s then some (after s (execCompletionInterrupt s))
  else if messageDue s then some (after s (execMessageArrivalInterrupt s))
  else none

/-- What a boundary of the core in focus takes before its next instruction. -/
def boundary (s : State) : Option State :=
  match boundaryFirst s with
  | some t => some t
  | none => boundaryRest s

/-- The waits of the core in focus end: in its event unit, and its own take in its deferred list (R193, R316). -/
def clearWaits (s : State) : State :=
  let m := memberNo s
  let t := if s.notMemory then s.mapUnit fun u =>
      { u with evs := vmap (fun e => { e with waiters := e.waiters.filter (· != m), lockers := e.lockers.filter (· != m) }) u.evs }
    else s
  (leaveTakes t).mapCore fun c => { c with stalled := false, ni := { c.ni with reserved := none } }

/-- A slot whose instruction waits for the reply. -/
def awaited (x : Slot) : Bool :=
  (match x.kind with
    | .amo | .mcmd | .radv | .take | .ttake | .lease => true
    | .rload | .rstore | .amoNr | .amoAcq | .msend | .put | .evsig => false) && x.reply.isNone

/-- The slot that the instruction in progress waits for. -/
def awaitedSlot (s : State) : Option (Nat × Slot) :=
  (List.range 32).findSome? fun i =>
    match s.core.ni.slot i with
    | some x => if awaited x then some (i, x) else none
    | none => none

/-- A remote take stands in its target's deferred list (R309, R375). -/
def takeQueued (s : State) (x : Slot) : Bool :=
  x.kind == .take &&
    (!x.timed || waitsAt s x)

/-- The instruction that waits is withdrawn, to issue again; none where its request has to be answered first (R193,
R316, R375). -/
def withdrawn (s : State) : Option State :=
  match awaitedSlot s with
  | none => some (clearWaits s)
  | some (i, x) => if takeQueued s x then some (clearWaits (freeSlotAt i (withdrawRequest x s))) else none

/-- The core in focus waits in an instruction that R193 names in UEPC where a pre-emption withdraws it: TAKE, BWAIT, EVWAIT, EVLOCK
or a load of the event-unit window, the wait ports and RFTAKE among them (R309, R316). -/
def namedWait (s : State) : Bool :=
  match (fetchWord s).map decode with
  | some (.ok (.take _ _)) => true
  | some (.ok (.bwait _ _ _)) => true
  | some (.ok (.evwait _ _)) => true
  | some (.ok (.evlock _)) => true
  | some (.ok (.lw _ a i)) => s.area (effective s a i).toNat == .event
  | _ => false

/-- A pre-emption withdraws a wait: UEPC names it (R193, R309, R316; log 24). -/
def nameWait (s : State) : State :=
  if namedWait s then s.mapCsr fun c => { c with uepc := s.core.pc &&& ~~~3#32 } else s

/-- What a waiting core takes, in the order of R134: a machine check, a debug halt, a phase abort or a pre-emption. DESIGN CHOICE (log 13): a
debug-halt request ends a wait as a pre-emption does, for R139 says nothing of one that comes during a wait. -/
def waitBoundary (s : State) : Option State :=
  if machineCheckDue s then some (after s (execMachineCheck (clearWaits s)))
  else if debugHaltDue s then (withdrawn s).map fun t => after t (execDebugHalt t)
  else if phaseAbortDue s then (withdrawn s).map fun t => after t (execPhaseAbortInterrupt t)
  else if preEmptionDue s then (withdrawn s).map fun t => after t (execPreEmptionEntry (nameWait t))
  else none

/-! ## Issue -/

/-- The pc is a multiple of 4 (R55). -/
def pcAligned (s : State) : Bool := s.core.pc.extractLsb' 0 2 == 0

/-- The instruction at the pc: an address that is no multiple of 4 raises cause 0x01, the first check of R55; a fetch outside the
store cause 0x05 (R106); a word that does not decode cause 0x02. -/
def issueWord (s : State) : Result :=
  if pcAligned s then
    match fetchWord s with
    | none => .next (raise 5 s.core.pc s)
    | some w =>
      match decode w with
      | .ok i => exec i s
      | .error _ => .next (raise 2 w s)
  else .next (raise 1 s.core.pc s)

/-- The word that the core in focus issues, if its pc holds one. -/
def issued (s : State) : Option Word := if pcAligned s then fetchWord s else none

/-- What a step of the core in focus from `s` to `t` leaves for its followers (R165, R167); the supervisor entries of a
pair, and what it does in supervisor mode, are each core's own (R168, R375). -/
def tell (s t : State) (w : Option Word) : State :=
  if s.paired && (s.core.mode == .supervisor || (w.isNone && t.core.mode == .supervisor)) then t
  else
    match lagEntry s t w with
    | none => t
    | some e => giveLag e t

/-- After an instruction that did not move the pc forward, the other units have a turn. -/
def turn (s t : State) : State := if t.core.pc ≤ s.core.pc then tick t else t

/-- The end of an issue: a core that waits takes what it may, or the other units have a turn. -/
def settleIssue (s t : State) : State :=
  if t.core.stalled then
    match waitBoundary t with
    | some u => tell s u none
    | none => tick t
  else turn s (tell s t (issued s))

/-- The next instruction of the core in focus issues, once the bytes that it shares with earlier requests of the core to its own
memory are settled (R321). -/
def issue (s : State) : Result :=
  if !s.core.stalled && ownHazard s (issued s) then .next (tick s) else andThen (issueWord s) (settleIssue s)

/-! ## Followers (R165 to R169) -/

/-- The follower stands at the word of its leader's stream that it executes next. -/
def atEntry (e : LagEntry) (s : State) : State := s.mapCore fun c => { c with pc := e.pc }

/-- That word shares bytes with earlier requests of the core to its own memory that are not settled (R321). -/
def headHazard (e : LagEntry) (s : State) : Bool := !s.core.stalled && ownHazard (atEntry e s) e.word

/-- The follower executes a word of its leader's stream at the address of that word; a follower that leads others itself passes it
on (R165). -/
def followWord (e : LagEntry) (w : Word) (s : State) : Result :=
  let s1 := atEntry e s
  match decode w with
  | .ok i => andThen (exec i s1) fun t => if t.core.stalled then t else tell s1 (settleFollow e s1 t) (some w)
  | .error _ => .next (settleFollow e s1 (raise 2 w s1))

/-- A follower's step by the head of its stream. -/
def followHead (e : LagEntry) (s : State) : Result :=
  match e.word with
  | none => .next (if s.paired then followBoundary e s else detachAt e.pc s)
  | some w => if !s.paired && e.trapped.isSome then .next (detachAt e.pc s) else followWord e w s

/-- The other units have a turn where the follower waits and takes nothing. -/
def orTick (f : State → Option State) (t : State) : State := if t.core.stalled then (f t).getD (tick t) else t

/-- What ends a wait of a pair's follower, whose pre-emption comes when it has caught up (R375). -/
def pairWait (s : State) : Option State := if machineCheckDue s || debugHaltDue s || phaseAbortDue s then waitBoundary s else none

/-- The events that a pair's follower takes once it has caught up: an abort or a pre-emption where its leader took it, so that both
stand at one instruction (R375). -/
def pairBoundary (s : State) : Option State :=
  if machineCheckDue s || debugHaltDue s || (s.coreAt (partnerOf s)).mode == .supervisor then boundaryFirst s else none

/-- The follower of a pair: its leader's stream; a supervisor interrupt once it has caught up, or an abort where it
waits (R167, R169, R375). -/
def pairStep (s : State) : Result :=
  match s.core.lag with
  | [] =>
    match pairBoundary s with
    | some t => .next t
    | none => .next (if lonelyReport s then mismatch s else tick s)
  | e :: _ =>
    if machineCheckDue s && !s.core.stalled then .next (after s (execMachineCheck s))
    else if headHazard e s then .next (tick s)
    else andThen (followHead e s) (orTick pairWait)

/-- A core that follows by FOLLOW goes on alone after an event that it took by itself (R167). -/
def alone (s : State) : State := s.mapCore fun c => { c with follow := none, lag := [] }

/-- A core that follows by FOLLOW: it takes its own events, and goes on alone from there (R167); where it waits, its instruction
issues again first. One that leads others itself stalls for them (R165). -/
def followStep (s : State) : Result :=
  match s.core.lag with
  | [] =>
    match boundary (detachAt s.core.pc s) with
    | some t => .next (tell s (alone t) none)
    | none => .next (tick s)
  | e :: _ =>
    match if s.core.stalled then none else boundary (detachAt s.core.pc s) with
    | some t => .next (tell s (alone t) none)
    | none =>
      if !s.core.stalled && (leaderHeld s || headHazard e s) then .next (tick s)
      else andThen (followHead e s) (orTick fun t => (waitBoundary t).map alone)

/-! ## One step -/

/-- A replayable fault on the overflow area of a core of the gang stops the gang (R287), in whichever record its access waits, and in one that
waits for room in the queue. -/
def overflowFault (s : State) : Bool :=
  match s.launch with
  | none => false
  | some l =>
    let h := s.fn l.fn.toNat
    (h.records ++ h.fqwait).any fun r => !r.answered && r.asks.any fun a => a.1 == 5 && s.member l a.2.1

/-- The save sequencer of a pre-empted core runs before its handler (R375). -/
def saving (s : State) : Bool := s.entered && !s.core.csr.ctxsaved

/-- The resident handler of a pre-emption is over, and the core writes its block (R379). -/
def leavingCore (s : State) : Bool := s.entered && s.core.csr.ctxsaved && s.core.handlerEnded && !s.core.blockSaved

/-- A no-return atomic with acquire order holds back later accesses until it is acknowledged (R305). -/
def acquiring (s : State) : Bool :=
  s.core.ni.slots.toList.any fun o => (o.map fun x => x.kind == .amoAcq).getD false

/-- A core of a pair whose sequencer has loops pending: the stores that the signature takes have one order (R168). -/
def signing (s : State) : Bool := s.paired && !s.entered && !s.core.seqs.isEmpty

/-- The core in focus issues nothing. -/
def stopped (s : State) : Bool :=
  s.core.halt.isSome || overflowFault s || saving s || leavingCore s || acquiring s || signing s

/-- A step that had to drain, or to reach its next point, ends (R150, R151). -/
def stepHalts (s : State) : Bool := s.core.stepDue && !s.core.drains && !noPoint s

/-- A step that still drains. -/
def stepDrains (s : State) : Bool := s.core.stepDue && s.core.drains

/-- A report is of the engine command that the step launched (R130, R151). -/
def ofStep (c : Core) (r : Report) : Bool :=
  match c.stepCmd with
  | none => false
  | some (0#2, q) => r.cause == 0x0E && r.seq == some q
  | some (1#2, q) => (r.cause == 0x0D || r.cause == 0x15) && r.slot.isNone && r.seq == some q
  | some (2#2, q) => (r.slot.map fun p => p.toNat) == some q.toNat
  | some (_, q) => r.cause == 0x0C && r.seq == some q

/-- A step that drained ends, unless an event that R134 puts before fault reports is due at its boundary, which it takes first; the
report of the command, if it faulted, is taken at the boundary at which the step halts (R134, R151). Its followers hear of either
(R167). -/
def stepEnds (s : State) : State :=
  match boundaryFirst s with
  | some t => tell s t none
  | none =>
    let t :=
      if s.core.reports.any (ofStep s.core) && faultReportDue s then tell s (takeReportOf (ofStep s.core) s) none else s
    if t.core.halt.isSome then t else haltAt 4 t.core.pc t

/-- The core in focus runs no point: the next one is dispatched (R158), or it waits. -/
def idleStep (s : State) : State := if (nextLine s).isSome then dispatch s else tick s

/-- The core in focus executes a leader's stream; what a pair's follower does in supervisor mode is its own (R168, R375). -/
def follows (s : State) : Bool := s.core.follow.isSome && !(s.paired && s.core.mode == .supervisor)

/-- The core in focus has its turn. DESIGN CHOICE (log 23): while a drain-on-step still drains, the core takes no boundary event. -/
def runCore (s : State) : Result :=
  if s.quartz.fatal then .next s
  else if stopped s || stepDrains s then .next (tick s)
  else if stepHalts s then .next (stepEnds s)
  else if follows s then (if s.paired then pairStep s else followStep s)
  else if s.core.stalled then issue s
  else
    match boundary s with
    | some t => .next (tell s t none)
    | none =>
      if noPoint s then .next (idleStep s)
      else if leaderHeld s then .next (tick s)
      else issue s

/-- The place of a boundary event in the order of R134. -/
def eventRank (i : Instr) : Option Nat :=
  match i with
  | .phaseAbortInterrupt => some 2
  | .preEmptionEntry => some 3
  | .stewardEscalationEntry => some 4
  | .engineFaultReport => some 5
  | .refusalReport => some 6
  | .completionInterrupt => some 7
  | .messageArrivalInterrupt => some 8
  | _ => none

/-- A device step took the core in focus out of its stream: into supervisor mode, or into a debug halt (R132, R167). -/
def leftStream (s t : State) : Bool :=
  t.core.mode != s.core.mode || (s.core.halt.isNone && t.core.halt == some 3)

/-- An input. A boundary event that the core in focus takes is told to its followers; a core that issues nothing, or follows, takes
its events in its own turn. -/
def inputStep (i : Instr) (s : State) : Result :=
  match eventRank i with
  | some k =>
    if s.quartz.fatal || stopped s || s.core.stepDue || follows s || !takesEvent k s then .next s
    else andThen (exec i s) fun t => tell s t none
  | none =>
    if occurs i then andThen (exec i s) fun t => if leftStream s t then tell s t none else t else .next s

/-- One step: an input that is due, or the core whose turn it is; time passes. A package that is powered off stops. -/
def cycleStep (s : State) : Result :=
  let s1 := takeTurn s
  match s1.inputs with
  | i :: rest =>
    let t := { s1 with inputs := rest }
    andThen (inputStep i t) passTime
  | [] => if s1.quartz.off then .fault .poweredOff else andThen (runCore s1) passTime

end Sys2Proof.Machine
end

