-- ==== Sys2Proof/Machine/Step.lean ====
section
/-!
DEFINITION. The step of the machine, and an instruction placed where it fetches next.
-/

namespace Sys2Proof.Machine
open Sys2Proof

/-- One step of the package. -/
def step (s : State) : Host.Outcome State Fault Refusal := cycleStep s

/-- An instruction stored where the next step fetches it; the table gives every instruction 32 bits. -/
def State.withFetchWord (s : State) (_nbits w : Nat) : State := placeWord (BitVec.ofNat 32 w) (readyCore s)

end Sys2Proof.Machine
end

