-- ==== Sys2Proof/Safety.lean ====
section
/-!
DEFINITION. The terms that claims are stated in: a safe run, what the end of an instruction writes, what an instruction that
only writes registers leaves alone, and the invariant that every state of a run meets.
-/

namespace Sys2Proof

/-- The first `k` steps from `s` all answer a next state. -/
def Safe : Nat → Machine.State → Prop
  | 0, _ => True
  | k + 1, s => ∃ t, Machine.step s = .next t ∧ Safe k t

namespace Machine

/-! ## The end of an instruction (R37, R108, R109, R150) -/

/-- `t` with the fields that the end of an instruction writes as `u` has them: the pc and the loop state, the wait mark,
INSTRET, and the halt of a single step. -/
def State.butEnd (u t : State) : State :=
  { t with core :=
    { t.core with
      pc := u.core.pc, loop := u.core.loop, stalled := u.core.stalled, halt := u.core.halt, dpc := u.core.dpc,
      stepDue := u.core.stepDue, stepCmd := u.core.stepCmd, csr := { t.core.csr with instret := u.core.csr.instret } } }

/-- `t` is `u` after the end of an instruction whose next pc and loop state are those of `c`: nothing else differs. `single` says that a
single step ends with it. -/
def EndsAs (single : Bool) (c : Core) (u t : State) : Prop :=
  u.butEnd t = u ∧ t.core.pc = c.pc ∧ t.core.loop = c.loop ∧ t.core.stalled = false ∧
  t.core.csr.instret = (if u.core.mode = .user then u.core.csr.instret + 1 else u.core.csr.instret) ∧
  (single = false →
    t.core.halt = u.core.halt ∧ t.core.dpc = u.core.dpc ∧ t.core.stepDue = u.core.stepDue ∧ t.core.stepCmd = u.core.stepCmd)

/-- The same for an instruction that leaves SDBG alone, whose bit 0 says whether a single step ends. -/
def Ends (c : Core) (u t : State) : Prop := EndsAs (u.core.csr.sdbg.getLsbD 0) c u t

/-- The instruction completes and falls through, as one that was issued with SDBG.step = `single` (R149); `u` is the state with its own
effect. -/
def FallsAs (single : Bool) (o : Result) (u : State) : Prop := ∃ t, o = .next t ∧ EndsAs single (stepPc u.core) u t

/-- The instruction completes and falls through; `u` is the state with its own effect. -/
def Falls (o : Result) (u : State) : Prop := ∃ t, o = .next t ∧ Ends (stepPc u.core) u t

/-- The instruction completes and goes on at `p`; `u` is the state with its own effect. -/
def Jumps (o : Result) (p : Word) (u : State) : Prop := ∃ t, o = .next t ∧ Ends (jumpPc p u.core) u t

/-- The remap table sends the 64 pages of W0 to frames of their own (R177). -/
def Core.remapDistinct (c : Core) : Prop := ∀ i j : Fin 64, c.remap[i] = c.remap[j] → i = j

/-- Every listed core stands at its own endpoint, and every listed cluster unit at its own number. -/
def State.placed (s : State) : Prop :=
  (∀ e ∈ s.others, localOf e.2.id = e.1) ∧ (∀ e ∈ s.units, e.2.id = e.1)

/-- The memories of a core are in their canonical form (`Memory.wf`). -/
def Core.canonical (c : Core) : Prop := c.sp.wf = true ∧ c.imem.wf = true ∧ c.ni.buf.wf = true

/-- The memories of a cluster unit are in their canonical form. -/
def Cluster.canonical (u : Cluster) : Prop := u.istore.wf = true ∧ u.sync.wf = true ∧ u.syncSnap.wf = true

/-- Every memory of the package is in its canonical form: of the cores and cluster units, also of those that a pre-empted launch left
behind, HBM, and the checkpoint images. -/
def State.canonical (s : State) : Prop :=
  s.core.canonical ∧ (∀ e ∈ s.others, e.2.canonical) ∧ s.unit.canonical ∧ (∀ e ∈ s.units, e.2.canonical) ∧ s.hbm.wf = true ∧
  (∀ l ∈ s.launches, (∀ e ∈ l.parked, e.2.canonical) ∧ ∀ e ∈ l.parkedUnits, e.2.canonical) ∧
  s.flint.ckHbm.wf = true ∧ ∀ i ∈ s.flint.ckImages, i.hbm.wf = true

end Machine

end Sys2Proof
end

