-- ==== Sys2Proof/Certificates/Slice0/Obligations.lean ====
section
/-!
DEFINITION. The statements for the provers. Each docstring names the rules it formalises, or says that a clause is the
model's own choice and names its log entry.
-/

open Sys2Proof Sys2Proof.Machine

/-! ## Integer instructions (R95 to R110) -/

/-- R97, R100: every ALU and MULDIV instruction completes on every core, writes X[rd] by its row (a write to x0 is
discarded by `setX`), and nothing else changes but what the end of an instruction writes. -/
def Obligations.RegisterArithmetic : Prop :=
  ∀ (s : State) (d a b : Reg),
    let x := s.x a
    let y := s.x b
    let n := y.toNat % 32
    ∀ e ∈ ([(.add d a b, BitVec.ofNat 32 (x.toNat + y.toNat)),
        (.sub d a b, BitVec.ofInt 32 (x.toInt - y.toInt)),
        (.and d a b, x &&& y), (.or d a b, x ||| y), (.xor d a b, x ^^^ y), (.andn d a b, x &&& ~~~y),
        (.sll d a b, BitVec.ofNat 32 (x.toNat * 2 ^ n)),
        (.srl d a b, BitVec.ofNat 32 (x.toNat / 2 ^ n)),
        (.sra d a b, BitVec.ofInt 32 (x.toInt / 2 ^ n)),
        (.ror d a b, BitVec.ofNat 32 (x.toNat / 2 ^ n + x.toNat * 2 ^ (32 - n))),
        (.slt d a b, if x.toInt < y.toInt then 1 else 0),
        (.sltu d a b, if x.toNat < y.toNat then 1 else 0),
        (.min d a b, if x.toInt ≤ y.toInt then x else y),
        (.max d a b, if y.toInt ≤ x.toInt then x else y),
        (.minu d a b, if x.toNat ≤ y.toNat then x else y),
        (.maxu d a b, if y.toNat ≤ x.toNat then x else y),
        (.mul d a b, BitVec.ofNat 32 (x.toNat * y.toNat)),
        (.mulh d a b, BitVec.ofInt 32 (x.toInt * y.toInt / 2 ^ 32)),
        (.mulhu d a b, BitVec.ofNat 32 (x.toNat * y.toNat / 2 ^ 32)),
        (.mulhsu d a b, BitVec.ofInt 32 (x.toInt * y.toNat / 2 ^ 32)),
        (.div d a b, if y = 0 then 0xFFFFFFFF
          else if x = 0x80000000 ∧ y = 0xFFFFFFFF then 0x80000000 else BitVec.ofInt 32 (x.toInt.tdiv y.toInt)),
        (.divu d a b, if y = 0 then 0xFFFFFFFF else BitVec.ofNat 32 (x.toNat / y.toNat)),
        (.rem d a b, if y = 0 then x
          else if x = 0x80000000 ∧ y = 0xFFFFFFFF then 0 else BitVec.ofInt 32 (x.toInt.tmod y.toInt)),
        (.remu d a b, if y = 0 then x else BitVec.ofNat 32 (x.toNat % y.toNat))] : List (Instr × Word)),
      Falls (exec e.1 s) (s.setX d e.2)

/-- R98, R104 and the values of R99: the immediate forms. The shift amount of SLLI, SRLI, SRAI and RORI is their field. -/
def Obligations.ImmediateArithmetic : Prop :=
  ∀ (s : State) (d a : Reg) (i : BitVec 16) (n : BitVec 5) (u : BitVec 21),
    let x := s.x a
    let k := n.toNat
    ∀ e ∈ ([(.addi d a i, BitVec.ofInt 32 (x.toInt + i.toInt)),
        (.andi d a i, x &&& BitVec.ofNat 32 i.toNat), (.ori d a i, x ||| BitVec.ofNat 32 i.toNat),
        (.xori d a i, x ^^^ BitVec.ofNat 32 i.toNat),
        (.slti d a i, if x.toInt < i.toInt then 1 else 0),
        (.sltiu d a i, if x.toNat < (BitVec.ofInt 32 i.toInt).toNat then 1 else 0),
        (.slli d a n, BitVec.ofNat 32 (x.toNat * 2 ^ k)),
        (.srli d a n, BitVec.ofNat 32 (x.toNat / 2 ^ k)),
        (.srai d a n, BitVec.ofInt 32 (x.toInt / 2 ^ k)),
        (.rori d a n, BitVec.ofNat 32 (x.toNat / 2 ^ k + x.toNat * 2 ^ (32 - k))),
        (.lui d u, BitVec.ofNat 32 (u.toNat * 2 ^ 11)),
        (.auipc d u, BitVec.ofNat 32 (s.core.pc.toNat + u.toNat * 2 ^ 11))] : List (Instr × Word)),
      Falls (exec e.1 s) (s.setX d e.2)

/-- R101, R102: the bit operations, by the bits of their results. -/
def Obligations.BitOperations : Prop :=
  ∀ (s : State) (d a b : Reg),
    let x := s.x a
    let pos := (s.x b).toNat % 32
    let len := min ((s.x b).toNat / 32 % 32 + 1) (32 - pos)
    (∀ n : Nat, n ≤ 32 → (∀ j, j < n → x.getLsbD (31 - j) = false) → (n < 32 → x.getLsbD (31 - n) = true) →
      Falls (exec (.clz d a) s) (s.setX d (BitVec.ofNat 32 n))) ∧
    (∀ n : Nat, n ≤ 32 → (∀ j, j < n → x.getLsbD j = false) → (n < 32 → x.getLsbD n = true) →
      Falls (exec (.ctz d a) s) (s.setX d (BitVec.ofNat 32 n))) ∧
    Falls (exec (.popc d a) s) (s.setX d (BitVec.ofNat 32 ((List.range 32).filter fun j => x.getLsbD j).length)) ∧
    (∀ w : Word, (∀ j, j < 32 → w.getLsbD j = x.getLsbD (31 - j)) → Falls (exec (.brev d a) s) (s.setX d w)) ∧
    (∀ w : Word, (∀ j, j < 32 → w.getLsbD j = x.getLsbD (8 * (3 - j / 8) + j % 8)) →
      Falls (exec (.bswap d a) s) (s.setX d w)) ∧
    Falls (exec (.bfxu d a b) s) (s.setX d (BitVec.ofNat 32 (x.toNat / 2 ^ pos % 2 ^ len))) ∧
    Falls (exec (.bfx d a b) s) (s.setX d (BitVec.ofInt 32 (BitVec.ofNat len (x.toNat / 2 ^ pos)).toInt)) ∧
    (∀ w : Word, (∀ j, j < 32 →
        w.getLsbD j = if pos ≤ j ∧ j < pos + len then x.getLsbD (j - pos) else (s.x d).getLsbD j) →
      Falls (exec (.bfi d a b) s) (s.setX d w))

/-- R105, R107: a jump or a taken branch goes on at its target, a branch whose condition fails falls through, and a JALR to a
misaligned target raises cause 0x01 at the JALR with the target, its destination not written. -/
def Obligations.JumpsAndBranches : Prop :=
  ∀ (s : State) (d a b : Reg) (i : BitVec 16) (j : BitVec 21),
    let pc := s.core.pc
    let t := BitVec.ofInt 32 ((s.x a).toInt + i.toInt)
    let u := BitVec.ofInt 32 (pc.toInt + i.toInt * 4)
    Jumps (exec (.jal d j) s) (BitVec.ofInt 32 (pc.toInt + j.toInt * 4)) (s.setX d (pc + 4)) ∧
    (t.toNat % 4 = 0 → Jumps (exec (.jalr d a i) s) t (s.setX d (pc + 4))) ∧
    (t.toNat % 4 ≠ 0 → exec (.jalr d a i) s = .next (raise 1 t s)) ∧
    ∀ e ∈ ([(.beq a b i, decide (s.x a = s.x b)), (.bne a b i, decide (s.x a ≠ s.x b)),
        (.blt a b i, decide ((s.x a).toInt < (s.x b).toInt)), (.bge a b i, decide ((s.x b).toInt ≤ (s.x a).toInt)),
        (.bltu a b i, decide ((s.x a).toNat < (s.x b).toNat)),
        (.bgeu a b i, decide ((s.x b).toNat ≤ (s.x a).toNat))] : List (Instr × Bool)),
      if e.2 then Jumps (exec e.1 s) u s else Falls (exec e.1 s) s

/-- R108, R109: LOOP with trips left starts the loop and falls into its body; with none it skips the body; and what the pc and the
loop state become after an instruction that falls through (the first three clauses) or jumps (the last two). -/
def Obligations.HardwareLoop : Prop :=
  (∀ c : Core, c.loop.active = false ∨ c.pc ≠ c.loop.last → stepPc c = { c with pc := c.pc + 4 }) ∧
  (∀ c : Core, c.loop.active = true → c.pc = c.loop.last → c.loop.remaining ≠ 1 →
    stepPc c = { c with pc := c.loop.start, loop := { c.loop with remaining := c.loop.remaining - 1 } }) ∧
  (∀ c : Core, c.loop.active = true → c.pc = c.loop.last → c.loop.remaining = 1 →
    stepPc c = { c with pc := c.pc + 4, loop := { c.loop with remaining := 0, active := false } }) ∧
  (∀ (c : Core) (p : Word), c.loop.active = false ∨ (c.loop.start ≤ p ∧ p ≤ c.loop.last) →
    jumpPc p c = { c with pc := p }) ∧
  (∀ (c : Core) (p : Word), c.loop.active = true → p < c.loop.start ∨ c.loop.last < p →
    jumpPc p c = { c with pc := p, loop := { c.loop with active := false } }) ∧
  ∀ (s : State) (a b : Reg) (i : BitVec 16),
    let n := (s.x a).toInt - (s.x b).toInt
    let last := s.core.pc + BitVec.ofNat 32 i.toNat * 4
    (n ≤ 0 → Jumps (exec (.loop a b i) s) (last + 4)
      { s with core := { s.core with loop := { s.core.loop with active := false } } }) ∧
    (0 < n → i ≠ 0 → ∃ t, exec (.loop a b i) s = .next t ∧
      Ends { s.core with pc := s.core.pc + 4, loop := ⟨true, s.core.pc + 4, last, BitVec.ofInt 32 n⟩ } s t)

/-! ## Traps, returns and system instructions (R53, R55, R129 to R147, R150) -/

/-- R132, R133, R135: a synchronous trap in user mode with USTATUS.hen = 1 and no handler running enters the user handler: the saved
registers, the status bits, the set-aside loop state and the handler's address; registers and memory stay. The loop that the
handler starts with is inactive. SYSC, and any trap with USTATUS.hen = 0 or while a user handler runs, halts the core for its steward
instead: DPC, ECAUSE and EVAL are written and the user CSRs stay. -/
def Obligations.UserModeTraps : Prop :=
  (∀ (s : State) (cause : Nat) (value : Word),
    s.core.mode = .user → cause ≠ 8 → s.core.csr.ustatus.getLsbD 4 = true → s.core.csr.ustatus.getLsbD 2 = false →
    let u := s.core.csr.ustatus.toNat
    ∃ l : LoopState, l.active = false ∧
      raise cause value s = settleStep { s with core := { s.core with
        csr := { s.core.csr with
          ucause := BitVec.ofNat 32 cause, uval := value, uepc := s.core.pc &&& 0xFFFFFFFC,
          ustatus := BitVec.ofNat 32 (u / 16 * 16 + 4 + 2 * (u % 2)) }
        loopUser := s.core.loop, loop := l, pc := s.core.csr.utvec &&& 0xFFFFFFFC, stalled := false } }) ∧
  (∀ (s : State) (cause : Nat) (value : Word),
    s.core.mode = .user →
    (cause = 8 ∨ s.core.csr.ustatus.getLsbD 4 = false ∨ s.core.csr.ustatus.getLsbD 2 = true) →
    raise cause value s = (s.mapCore fun c => { c with
      halt := some 1, dpc := c.pc, ecause := BitVec.ofNat 32 cause, eval := value, decl := false, escWaits := true,
      stalled := false, stepDue := false, stepCmd := none }))

/-- R132, R138: a synchronous trap in supervisor mode enters STVEC with SCAUSE, SVAL, SEPC and SSTATUS written; mcip and the
reserved bits of SSTATUS stay. -/
def Obligations.TrapEntersSupervisor : Prop :=
  ∀ (s : State) (cause : Nat) (value : Word), s.core.mode = .supervisor →
    let u := s.core.csr.sstatus.toNat
    ∃ l : LoopState, l.active = false ∧
      raise cause value s = settleStep { s with core := { s.core with
        csr := { s.core.csr with
          scause := BitVec.ofNat 32 cause, sval := value, sepc := s.core.pc &&& 0xFFFFFFFC,
          sstatus := BitVec.ofNat 32 (u / 8 * 8 + 4 + 2 * (u % 2)) }
        loopSup := s.core.loop, loop := l, pc := s.core.csr.stvec &&& 0xFFFFFFFC, stalled := false } }

/-- R37, R150, R151: what the end of an instruction does. The instruction counts in INSTRET when it ran in user mode; with
SDBG.step = 1 the core halts with DSTAT.why = 4 at its next pc, once the engine command that the step launched under SDBG.dos
(`stepCmd`) has completed or faulted. -/
def Obligations.InstructionEnd : Prop :=
  (∀ s : State, s.core.csr.sdbg.getLsbD 0 = false ∨ s.core.halt ≠ none → settleStep s = s) ∧
  (∀ s : State, s.core.csr.sdbg.getLsbD 0 = true → s.core.halt = none →
    let halts : Prop := settleStep s = (s.mapCore fun c => { c with
      halt := some 4, dpc := c.pc, stalled := false, stepDue := false, stepCmd := none })
    let waits : Prop := settleStep s = (s.mapCore fun c => { c with stepDue := true })
    (s.core.stepCmd = none → halts) ∧
    ∀ n : BitVec 16,
      (s.core.stepCmd = some (0, n) → if ∃ q ∈ s.core.mx.queue, q.remote = false ∧ q.seq = n then waits else halts) ∧
      (s.core.stepCmd = some (1, n) → if ∃ q ∈ s.core.cp.queue, q.seq = n then waits else halts) ∧
      (s.core.stepCmd = some (3, n) → if ∃ q ∈ s.core.seqs, q.seq = n then waits else halts)) ∧
  (∀ s : State, Ends (stepPc s.core) s (retire s)) ∧ (∀ (p : Word) (s : State), Ends (jumpPc p s.core) s (retireTo p s))

/-- R141, R142, R145, R146 and the traps of R143 and R145: SYSC and BREAK raise their causes at their own address, BREAK halts
where SDBG.bpen = 1, UDECLINE escalates with what stands in UCAUSE and UVAL, and WFI retires once something is pending and
waits otherwise. The WFI that ends the resident handler of a pre-empted core also tells that the handler is over (R379). -/
def Obligations.SystemInstructions : Prop :=
  ∀ (s : State) (c : BitVec 7),
    let ends : Bool := s.entered && s.core.csr.ctxsaved
    (s.core.mode = .user → exec (.sysc c) s = .next (raise 8 (c.setWidth 32) s)) ∧
    (s.core.mode = .supervisor → exec (.sysc c) s = .next (raise 9 (c.setWidth 32) s)) ∧
    (s.core.csr.sdbg.getLsbD 2 = false → exec (.brk c) s = .next (raise 3 (c.setWidth 32) s)) ∧
    (s.core.csr.sdbg.getLsbD 2 = true →
      exec (.brk c) s = .next (s.mapCore fun c => { c with
        halt := some 3, dpc := c.pc, stalled := false, stepDue := false, stepCmd := none })) ∧
    (s.compute = true → s.core.mode = .user → s.core.csr.ustatus.getLsbD 2 = true →
      exec .udecline s = .next (s.mapCore fun c => { c with
        halt := some 2, dpc := c.pc, ecause := c.csr.ucause, eval := c.csr.uval, decl := true, escWaits := true,
        stalled := false, stepDue := false, stepCmd := none })) ∧
    (s.compute = false ∨ s.core.mode = .supervisor ∨ s.core.csr.ustatus.getLsbD 2 = false →
      exec .udecline s = .next (raise 2 0x9C000200 s) ∧ exec .uret s = .next (raise 2 0x9C000100 s)) ∧
    ((uipOf s ≠ 0 ∨ sipOf s ≠ 0 →
        Falls (exec .wfi s) (s.mapCore fun c => { c with handlerEnded := c.handlerEnded || ends })) ∧
      (uipOf s = 0 → sipOf s = 0 →
        exec .wfi s = .next (s.mapCore fun c => { c with handlerEnded := c.handlerEnded || ends, stalled := true })))

/-- R143, R144, R109: the returns. URET restores uie, leaves the handler, exchanges the shadow copies of x26 to x31 where they were
switched in, reinstates the loop state and goes on at UEPC; SRET restores sie, clears mcip, returns to the privilege of spp (a
steward or memory core stays in supervisor mode) and goes on at SEPC. SRET in user mode is illegal. -/
def Obligations.Returns : Prop :=
  (∀ s : State, s.compute = true → s.core.mode = .user → s.core.csr.ustatus.getLsbD 2 = true →
    let u := s.core.csr.ustatus.toNat
    let back := s.core.csr.uepc &&& 0xFFFFFFFC
    let c := if s.core.csr.ustatus.getLsbD 3 then swapShadow s.core else s.core
    exec .uret s = .next (settleStep { s with core := { c with
      csr := { c.csr with ustatus := BitVec.ofNat 32 (u / 16 * 16 + u / 2 % 2 * 3), instret := c.csr.instret + 1 }
      loop := reinstate c.loopUser back, pc := back, stalled := false } })) ∧
  (∀ s : State, s.core.mode = .supervisor →
    let u := s.core.csr.sstatus.toNat
    let back := s.core.csr.sepc &&& 0xFFFFFFFC
    exec .sret s = .next (settleStep { s with core := { s.core with
      csr := { s.core.csr with sstatus := BitVec.ofNat 32 (u / 16 * 16 + u / 4 % 2 * 4 + u / 2 % 2 * 3) }
      mode := if s.compute = true ∧ u / 4 % 2 = 0 then .user else .supervisor
      loop := reinstate s.core.loopSup back, pc := back, stalled := false, escServing := false } })) ∧
  (∀ s : State, s.core.mode = .user → exec .sret s = .next (raise 2 0x9C000180 s)) ∧
  (∀ (l : LoopState) (p : Word), reinstate l p =
    if l.active = true ∧ (p < l.start ∨ l.last < p) then { l with active := false } else l) ∧
  (∀ (c : Core) (r : Nat) (h : r < 32), (swapShadow c).x[r] = if h : 26 ≤ r then c.shadow[r - 26] else c.x[r]) ∧
  (∀ (c : Core) (r : Nat) (h : r < 6), (swapShadow c).shadow[r] = c.x[r + 26])

/-- R147 (its three cases; the tag is CMAC as log 9 presumes it), R53 and R55: MCAP, and the words that are no instruction. -/
def Obligations.CapabilitiesAndIllegalWords : Prop :=
  (∀ (s : State) (d a : Reg) (l : Word) (k : BitVec 128), s.kind = .steward → s.unit.launch = some l →
    s.unit.key = some k → Falls (exec (.mcap d a) s) (s.setX d (capMac k (s.x a)))) ∧
  (∀ (s : State) (d a : Reg), s.kind = .steward → s.unit.launch = none →
    exec (.mcap d a) s = .next (raise 0x12 (wordOf (.mcap d a)) s)) ∧
  (∀ (s : State) (d a : Reg), s.kind ≠ .steward → exec (.mcap d a) s = .next (raise 2 (wordOf (.mcap d a)) s)) ∧
  (∀ (s : State) (x : BitVec 26), exec (.ill x) s = .next (raise 2 (x.setWidth 32) s)) ∧
  (∀ (s : State) (w : Word) (e : DecodeError), fetchWord s = some w → decode w = .error e →
    issueWord s = .next (raise 2 w s)) ∧
  (∀ s : State, s.kind = .compute → 0x40000 ≤ s.core.pc.toNat → issueWord s = .next (raise 5 s.core.pc s))

/-- R148 for the registers whose fields are all RW, R33 and R34: CSRRW writes the operand, CSRRS and CSRRC set and clear its bits
and write nothing for an operand of 0, X[rd] takes the old value, and reserved bits stay 0; a supervisor CSR in user mode and a
number that the map does not list are illegal; a read of CYCLE captures CYCLEH (R38). A single step ends with the instruction as SDBG
stood at its issue (R35, R149).
R35, R37, R39, R41 to R43, R148, R149: the CSRs whose writes do more than store a value. ECTL keeps its capacity outside 1 to 128; each 1
clears its bit of ESTAT, MRSTAT, UIP and MCSTAT, which CSRRS leaves alone; USTATUS keeps its read-only bits; SIE has its escalation bit on
stewards alone; SPSHARE, SJOURNAL and LBUDGET saturate, and SJOURNAL ignores a write while a launch runs; a read-only number keeps what it
holds. A change of SCTX.tenant frees the prediction slots and the tag table; an enabled ring keeps its base and size, and enabling it is
refused with cfgerr where it would reach the journal or moves with messages unread. In each form the old value goes to rd; a single step
ends as SDBG stood at the issue. The clauses hold on every core: that stewards and memory cores have the user-range registers 0x001 to
0x015 too is the model's reading (log 17; R29 can be read otherwise). -/
def Obligations.CsrInstructions : Prop :=
  (∀ (s : State) (d a : Reg),
    let v := s.x a
    let c := s.core.csr
    ∀ e ∈ ([(0x001, c.fcsr, 0x1FF, fun w => { c with fcsr := w }), (0x002, c.pthresh, 7, fun w => { c with pthresh := w }),
        (0x003, c.etol, 0xFFFFFFFF, fun w => { c with etol := w }),
        (0x020, c.utvec, 0xFFFFFFFC, fun w => { c with utvec := w }), (0x021, c.ucause, 0xFFFFFFFF, fun w => { c with ucause := w }),
        (0x022, c.uval, 0xFFFFFFFF, fun w => { c with uval := w }), (0x023, c.uepc, 0xFFFFFFFC, fun w => { c with uepc := w }),
        (0x025, c.uie, 0x24, fun w => { c with uie := w }), (0x100, c.sstatus, 0xF, fun w => { c with sstatus := w }),
        (0x101, c.stvec, 0xFFFFFFFC, fun w => { c with stvec := w }), (0x102, c.scause, 0xFFFFFFFF, fun w => { c with scause := w }),
        (0x103, c.sval, 0xFFFFFFFF, fun w => { c with sval := w }), (0x104, c.sepc, 0xFFFFFFFC, fun w => { c with sepc := w }),
        (0x108, c.sscratch, 0xFFFFFFFF, fun w => { c with sscratch := w }),
        (0x111, c.svweight, 0xF, fun w => { c with svweight := w }), (0x130, c.sdbg, 7, fun w => { c with sdbg := w })] :
          List (BitVec 12 × Word × Word × (Word → Csrs))),
      (e.1 < 0x100 ∨ s.core.mode = .supervisor) → (0x020 ≤ e.1 → e.1 ≤ 0x026 → s.kind = .compute) →
      let put (w : Word) : State := { s with core := { s.core with csr := e.2.2.2 (w &&& e.2.2.1) } }
      let done (i : Instr) (u : State) : Prop := FallsAs (c.sdbg.getLsbD 0) (exec i s) (u.setX d e.2.1)
      done (.csrrw d a e.1) (put v) ∧
      (v ≠ 0 → done (.csrrs d a e.1) (put (e.2.1 ||| v))) ∧
      (v ≠ 0 → done (.csrrc d a e.1) (put (e.2.1 &&& ~~~v))) ∧
      (v = 0 → done (.csrrs d a e.1) s ∧ done (.csrrc d a e.1) s)) ∧
  (∀ (s : State) (d a : Reg) (n : BitVec 12), (0x100 ≤ n ∧ s.core.mode = .user) ∨ csrValue s n = none →
    exec (.csrrw d a n) s = .next (raise 2 (wordOf (.csrrw d a n)) s) ∧
    exec (.csrrs d a n) s = .next (raise 2 (wordOf (.csrrs d a n)) s) ∧
    exec (.csrrc d a n) s = .next (raise 2 (wordOf (.csrrc d a n)) s)) ∧
  (∀ (s : State) (d : Reg), Falls (exec (.csrrs d 0 0x010) s)
    ((s.mapCore fun c => { c with csr := { c.csr with cycleh := BitVec.ofNat 32 (s.cycle.toNat / 2 ^ 32) } }).setX d
      (BitVec.ofNat 32 s.cycle.toNat))) ∧
  (∀ (s : State) (d a : Reg),
    let v := s.x a
    let c := s.core.csr
    let csrs (k : Csrs) : State := { s with core := { s.core with csr := k } }
    let done (i : Instr) (old : Word) (u : State) : Prop := FallsAs (c.sdbg.getLsbD 0) (exec i s) (u.setX d old)
    let written (n : BitVec 12) (old : Word) (f : Word → Word → State) : Prop :=
      done (.csrrw d a n) old (f v v) ∧
      (v ≠ 0 → done (.csrrs d a n) old (f (old ||| v) 0) ∧ done (.csrrc d a n) old (f (old &&& ~~~v) v)) ∧
      (v = 0 → done (.csrrs d a n) old s ∧ done (.csrrc d a n) old s)
    let ring (w : Word) : Word := w &&& 0xF3F
    written 0x004 c.ectl (fun w _ => csrs { c with ectl := (w &&& 0x100) |||
      if 1 ≤ w.toNat % 256 ∧ w.toNat % 256 ≤ 128 then w &&& 0xFF else c.ectl &&& 0xFF }) ∧
    written 0x005 c.estat (fun _ m => csrs { c with estat := c.estat &&& ~~~m }) ∧
    written 0x007 (mrstatOf s.core) (fun _ m => csrs { c with cfgerr := c.cfgerr && !m.getLsbD 30 }) ∧
    written 0x006 c.mrcfg (fun w _ =>
      if c.mrcfg.getLsbD 31 then
        if w.getLsbD 31 then s
        else { s with core := { s.core with
          csr := { c with mrcfg := ring c.mrcfg }, ni := { s.core.ni with ringCfg := ring c.mrcfg } } }
      else if w.getLsbD 31 = false then csrs { c with mrcfg := ring w }
      else if 58 - c.sjournal.toNat % 32 ≤ w.toNat % 64 + w.toNat / 256 % 16 ∨
          (ring w ≠ s.core.ni.ringCfg ∧ s.core.ni.wr ≠ s.core.ni.rd) then csrs { c with cfgerr := true }
      else settleRing { s with core := { s.core with
        csr := { c with mrcfg := ring w ||| 0x80000000 }
        ni := if ring w = s.core.ni.ringCfg then s.core.ni
          else { s.core.ni with wr := 0, rd := 0, ringCfg := ring w } } }) ∧
    (s.kind = .compute →
      written 0x024 c.ustatus (fun w _ => csrs { c with ustatus := (w &&& 0x13) ||| (c.ustatus &&& 0xC) }) ∧
      written 0x026 (uipOf s) (fun _ m => csrs { c with uip := c.uip &&& ~~~(m &&& 4) })) ∧
    (∀ n ∈ ([0x011, 0x012, 0x013, 0x014, 0x015] : List (BitVec 12)), written n (csrRead s n) (fun _ _ => s)) ∧
    (s.core.mode = .supervisor →
      (∀ n ∈ ([0x106, 0x113, 0x1C1, 0x1C2, 0x1C3] : List (BitVec 12)), written n (csrRead s n) (fun _ _ => s)) ∧
      written 0x105 c.sie (fun w _ => csrs { c with sie := w &&& (if s.kind = .steward then 0x3A else 0x1A) }) ∧
      written 0x110 c.spshare (fun w _ => csrs { c with spshare := BitVec.ofNat 32 (min (w.toNat % 32) 16) }) ∧
      written 0x112 c.sjournal (fun w _ =>
        if s.kind = .compute ∧ s.unit.launch ≠ none then s
        else csrs { c with sjournal := BitVec.ofNat 32 (min (w.toNat % 32) 16) }) ∧
      written 0x120 (lbudgetOf s) (fun w _ => { s with lease := { s.lease with
        lbud := assocSet s.lease.lbud s.core.tenant.toNat (min (w.toNat % 512) 256) } }) ∧
      written 0x1C0 c.mcstat (fun _ m =>
        if m.getLsbD 31 then csrs { c with mcstat := 0, mcbank := 0, mcsynd := 0, mcaddr := 0 } else s) ∧
      written 0x107 c.sctx (fun w _ =>
        let u := csrs { c with sctx := w &&& 0x1FFFFF }
        if w.toNat / 65536 % 32 = c.sctx.toNat / 65536 % 32 then u
        else dropLookups (fun _ => true) (u.mapCore fun k => { k.freeSlots with tags := [] })))) ∧
  (∀ s : State,
    let u := dropLookups (fun _ => true) (s.mapCore fun k => { k.freeSlots with tags := [] })
    u.core.tags = [] ∧ u.core.slots = .replicate 8 .reset ∧ u.core.x = s.core.x ∧ u.core.sp = s.core.sp ∧
    (∀ j : Fin 16, ∀ l, u.core.locks[j] = some l → l.engine ≠ 2) ∧
    (s.core.csr.mrcfg.getLsbD 31 = true → s.core.ni.overflow = [] → s.core.ni.held = [] →
      settleRing s = s.mapNi fun n => { n with ovf := false, heldFlag := false }))
/-! ## Floating point (R28, R73 to R83, R111 to R125) -/

/-- R54, R114, R115, R116, R124, R125 (two-operand forms): the operands are taken in field order, the result goes to F[rd], the
flags are or-ed into FCSR.flags. `takeF` and `putF` are what `FpOperandForms` says: the kept register, or the next element of the
stream mapped to it. The arithmetic itself is that of `Machine/Float.lean`, of which
`FpArithmeticRules` speaks. -/
def Obligations.FpTwoOperandForms : Prop :=
  ∀ (s s1 s2 t : State) (d a b : Reg) (m : BitVec 3) (x y : Word),
    s.fBusy [d, a, b] = false → (m = 7 → s.core.csr.fcsr.toNat % 8 ≤ 4) →
    takeF false a s = .ok (x, s1) → takeF false b s1 = .ok (y, s2) →
    let rm := if m = 7 then s.frm else m
    let pair (r : Nat → Nat × Flags) : Word × Flags := (BitVec.ofNat 32 ((r 1).1 * 65536 + (r 0).1), (r 0).2 ||| (r 1).2)
    let h (w : Word) (i : Nat) := w.toNat / 65536 ^ i % 65536
    let w32 (r : Nat × Flags) : Word × Flags := (BitVec.ofNat 32 r.1, r.2)
    let sign (n : Bool) : Word × Flags := (BitVec.ofNat 32 (x.toNat % 2 ^ 31 + n.toNat * 2 ^ 31), 0)
    let bit31 (w : Word) := decide (2 ^ 31 ≤ w.toNat)
    ∀ e ∈ ([(.fadd d a b m, w32 (fAdd fp32 rm s.fz x.toNat y.toNat false)),
        (.fsub d a b m, w32 (fAdd fp32 rm s.fz x.toNat y.toNat true)),
        (.fmul d a b m, w32 (fMul fp32 rm s.fz x.toNat y.toNat)),
        (.fdiv d a b m, w32 (fDiv fp32 rm s.fz x.toNat y.toNat)),
        (.fmin d a b, w32 (fMinMax fp32 s.fz false false x.toNat y.toNat)),
        (.fmax d a b, w32 (fMinMax fp32 s.fz true false x.toNat y.toNat)),
        (.fminp d a b, w32 (fMinMax fp32 s.fz false true x.toNat y.toNat)),
        (.fmaxp d a b, w32 (fMinMax fp32 s.fz true true x.toNat y.toNat)),
        (.fsgnj d a b, sign (bit31 y)), (.fsgnjn d a b, sign (!bit31 y)), (.fsgnjx d a b, sign (bit31 x != bit31 y)),
        (.hadd2 d a b m, pair fun i => fAdd fp16 rm s.fz (h x i) (h y i) false),
        (.hmul2 d a b m, pair fun i => fMul fp16 rm s.fz (h x i) (h y i)),
        (.hmax2 d a b, pair fun i => fMinMax fp16 s.fz true false (h x i) (h y i)),
        (.iaddF d a b, (x + y, 0)), (.isubF d a b, (x - y, 0)), (.iandF d a b, (x &&& y, 0)), (.iorF d a b, (x ||| y, 0)),
        (.ixorF d a b, (x ^^^ y, 0)), (.isllF d a b, (BitVec.ofNat 32 (x.toNat * 2 ^ (y.toNat % 32)), 0)),
        (.isrlF d a b, (BitVec.ofNat 32 (x.toNat / 2 ^ (y.toNat % 32)), 0)),
        (.icmpltF d a b, (if x.toInt < y.toInt then 0xFFFFFFFF else 0, 0)),
        (.icmpeqF d a b, (if x = y then 0xFFFFFFFF else 0, 0))] : List (Instr × Word × Flags)),
      putF false d e.2.1 s2 = .ok t → Falls (exec e.1 s) (t.addFlags e.2.2)

/-- R114, R120, R122 (one-operand forms), R119 and R121 (from the integer registers): the result goes to F[rd] and the flags into
FCSR.flags. The special functions are correctly rounded as log 8 says. -/
def Obligations.FpOneOperandForms : Prop :=
  ∀ (s s1 t : State) (d a : Reg) (m : BitVec 3) (x : Word),
    (m = 7 → s.core.csr.fcsr.toNat % 8 ≤ 4) →
    let rm := if m = 7 then s.frm else m
    let w32 (r : Nat × Flags) : Word × Flags := (BitVec.ofNat 32 r.1, r.2)
    (s.fBusy [d, a] = false → takeF false a s = .ok (x, s1) →
      ∀ e ∈ ([(.fsqrt d a m, w32 (fSqrt fp32 rm s.fz x.toNat)), (.fexp2 d a m, w32 (fExp2 rm s.fz x.toNat)),
          (.flog2 d a m, w32 (fLog2 rm s.fz x.toNat)), (.frcp d a m, w32 (fRcp rm s.fz x.toNat)),
          (.frsq d a m, w32 (fRsq rm s.fz x.toNat)), (.ftanh d a m, w32 (fTanh rm s.fz x.toNat)),
          (.fsigm d a m, w32 (fSigm rm s.fz x.toNat)),
          (.fcvtSBh d a, w32 (convert bf16 fp32 0 s.fz (x.toNat % 65536))),
          (.fcvtSHh d a, w32 (convert fp16 fp32 0 s.fz (x.toNat % 65536))),
          (.fcvtBhS d a m, w32 (convert fp32 bf16 rm s.fz x.toNat)),
          (.fcvtHhS d a m, w32 (convert fp32 fp16 rm s.fz x.toNat))] : List (Instr × Word × Flags)),
        putF false d e.2.1 s1 = .ok t → Falls (exec e.1 s) (t.addFlags e.2.2)) ∧
    (s.fBusy [d] = false →
      ∀ e ∈ ([(.fcvtSW d a m, w32 (fFromInt rm s.fz (s.x a).toInt)),
          (.fcvtSWu d a m, w32 (fFromInt rm s.fz (s.x a).toNat)), (.fmvSX d a, (s.x a, 0))] : List (Instr × Word × Flags)),
        putF false d e.2.1 s = .ok t → Falls (exec e.1 s) (t.addFlags e.2.2))

/-- R103, R117, R118, R119, R121: the forms whose result goes to an x register: comparisons, classes, conversions to integers,
moves and order-preserving keys. -/
def Obligations.FpToIntegerForms : Prop :=
  ∀ (s s1 s2 : State) (d a b : Reg) (m : BitVec 3) (x y : Word), (m = 7 → s.core.csr.fcsr.toNat % 8 ≤ 4) →
    let rm := if m = 7 then s.frm else m
    let key (v w : Nat) := if v < 2 ^ (w - 1) then v + 2 ^ (w - 1) else 2 ^ w - 1 - v
    takeF false a s = .ok (x, s1) →
    (s.fBusy [a] = false →
      ∀ e ∈ ([(.fclass d a, (BitVec.ofNat 32 (fClass x.toNat), 0)), (.fcvtWS d a m, fToInt rm s.fz true x.toNat),
          (.fcvtWuS d a m, fToInt rm s.fz false x.toNat), (.fmvXS d a, (x, 0)),
          (.okeyW d a, (BitVec.ofNat 32 (key x.toNat 32), 0)),
          (.okeyH d a, (BitVec.ofNat 32 (key (x.toNat / 65536) 16 * 65536 + key (x.toNat % 65536) 16), 0))] :
            List (Instr × Word × Flags)),
        Falls (exec e.1 s) ((s1.setX d e.2.1).addFlags e.2.2)) ∧
    (s.fBusy [a, b] = false → takeF false b s1 = .ok (y, s2) →
      ∀ e ∈ ([(.feq d a b, fEq s.fz x.toNat y.toNat), (.flt d a b, fLt s.fz x.toNat y.toNat),
          (.fle d a b, fLe s.fz x.toNat y.toNat)] : List (Instr × Bool × Flags)),
        Falls (exec e.1 s) ((s2.setX d (if e.2.1 then 1 else 0)).addFlags e.2.2))

/-- R123, and HFMA2 and ISEL.F of R124 and R125: the fused forms round once, and the old rd is read first where the form reads
it. -/
def Obligations.FpFusedForms : Prop :=
  ∀ (s s1 s2 s3 t : State) (d a b c : Reg) (m : BitVec 3) (x y z : Word),
    (m = 7 → s.core.csr.fcsr.toNat % 8 ≤ 4) →
    let rm := if m = 7 then s.frm else m
    let h (w : Word) (i : Nat) := w.toNat / 65536 ^ i % 65536
    let r (i : Nat) := fFma fp16 rm s.fz (h x i) (h y i) (h z i) false false
    (s.fBusy [d, a, b, c] = false → takeF false a s = .ok (x, s1) → takeF false b s1 = .ok (y, s2) →
      takeF false c s2 = .ok (z, s3) →
      ∀ e ∈ ([(.fma d a b c m, fFma fp32 rm s.fz x.toNat y.toNat z.toNat false false),
          (.fms d a b c m, fFma fp32 rm s.fz x.toNat y.toNat z.toNat false true),
          (.fnma d a b c m, fFma fp32 rm s.fz x.toNat y.toNat z.toNat true false),
          (.fnms d a b c m, fFma fp32 rm s.fz x.toNat y.toNat z.toNat true true)] : List (Instr × Nat × Flags)),
        putF false d (BitVec.ofNat 32 e.2.1) s3 = .ok t → Falls (exec e.1 s) (t.addFlags e.2.2)) ∧
    (s.fBusy [d, a, b] = false → takeF false d s = .ok (z, s1) → takeF false a s1 = .ok (x, s2) →
      takeF false b s2 = .ok (y, s3) →
      (putF false d (BitVec.ofNat 32 ((r 1).1 * 65536 + (r 0).1)) s3 = .ok t →
        Falls (exec (.hfma2 d a b m) s) (t.addFlags ((r 0).2 ||| (r 1).2))) ∧
      (putF false d ((x &&& z) ||| (y &&& ~~~z)) s3 = .ok t → Falls (exec (.iselF d a b) s) (t.addFlags 0)))

/-- R28, R54, R112, R196: what an f operand is. A register to which no stream is mapped, or on a core whose user handler runs, is
read and written as it is kept; a mapped one takes the next element or stores it (and a pair signs the store), with the faults of R196
at the end and for the wrong direction, both of a read and of a write; an instruction with a rounding field of 7 is illegal while FCSR.rm
is above 4. That the element of a read stream is the word in memory at the moment of the instruction is the model's choice among the
moments that R201 permits (log 14). -/
def Obligations.FpOperandForms : Prop :=
  (∀ (s : State) (r : Reg) (e : Bool), s.streamOn r = false → takeF e r s = .ok (s.f r, s)) ∧
  (∀ (s : State) (r : Reg) (e : Bool) (v : Word), s.streamOn r = false → putF e r v s = .ok (s.setF r v)) ∧
  (∀ (s : State) (r : Reg), s.core.csr.ustatus.getLsbD 2 = true ∨ s.core.mode = .supervisor ∨ 6 ≤ r.toNat →
    s.streamOn r = false) ∧
  (∀ (s : State) (r : Reg) (e : Bool), s.streamOn r = true → (s.stream r).snap.write = true →
    takeF e r s = .error ⟨r, 3, none⟩) ∧
  (∀ (s : State) (r : Reg) (e : Bool), s.streamOn r = true → (s.stream r).snap.write = false →
    (s.stream r).snap.total ≤ (s.stream r).pos → takeF e r s = .error ⟨r, 2, none⟩) ∧
  (∀ (s : State) (r : Reg) (e : Bool) (v : Word), s.streamOn r = true → (s.stream r).snap.write = false →
    putF e r v s = .error ⟨r, 3, none⟩) ∧
  (∀ (s : State) (r : Reg) (e : Bool) (v : Word), s.streamOn r = true → (s.stream r).snap.write = true →
    (s.stream r).snap.total ≤ (s.stream r).pos → putF e r v s = .error ⟨r, 2, none⟩) ∧
  (∀ (s : State) (r : Reg) (e : Bool) (p : Nat), s.streamOn r = true → (s.stream r).snap.write = false →
    (s.stream r).snap.indirect = false → (s.stream r).pos < (s.stream r).snap.total → (s.stream r).snap.base.toNat < 0x40000 →
    p = ((s.stream r).snap.affine (s.stream r).pos).toNat → p < 0x40000 → checkAccess s p ⟨4, false, false⟩ = none →
    takeF e r s = .ok (s.core.w0Word p, s.mapStream r fun t => { t with pos := t.pos + 1 })) ∧
  (∀ (s : State) (r : Reg) (v : Word) (e : Bool) (p : Nat), s.streamOn r = true → (s.stream r).snap.write = true →
    (s.stream r).snap.indirect = false → (s.stream r).pos < (s.stream r).snap.total → (s.stream r).snap.base.toNat < 0x40000 →
    p = ((s.stream r).snap.affine (s.stream r).pos).toNat → p < 0x40000 → checkAccess s p ⟨4, true, false⟩ = none →
    putF e r v s = .ok (((s.w0Write p 4 v.toNat).sign (bytesOf 4 p ++ bytesOf 4 v.toNat)).mapStream r
      fun t => { t with pos := t.pos + 1 })) ∧
  (∀ (s : State) (d a b c : Reg), 4 < s.core.csr.fcsr.toNat % 8 →
    ∀ i ∈ ([.fadd d a b 7, .fsub d a b 7, .fmul d a b 7, .fdiv d a b 7, .fsqrt d a 7, .fma d a b c 7, .fms d a b c 7,
        .fnma d a b c 7, .fnms d a b c 7, .fcvtWS d a 7, .fcvtWuS d a 7, .fcvtSW d a 7, .fcvtSWu d a 7, .fcvtBhS d a 7,
        .fcvtHhS d a 7, .fexp2 d a 7, .flog2 d a 7, .frcp d a 7, .frsq d a 7, .ftanh d a 7, .fsigm d a 7, .hadd2 d a b 7,
        .hmul2 d a b 7, .hfma2 d a b 7] : List Instr),
      exec i s = .next (raise 2 (wordOf i) s))

/-- R75, R76, R79, R114, R117: FP32 arithmetic. The five rounding modes act on the magnitude `m * 2^e` of a number and a coarser unit
`2^(e+k)`: to nearest with ties to even, toward zero, down, up, and to nearest with ties away from zero; it is inexact when something was
cut off. A NaN operand gives the canonical NaN, with NV when it is signalling; the invalid operations give it with NV; a finite number over
zero gives infinity with DZ; and no comparison holds of a NaN. -/
def Obligations.FpArithmeticRules : Prop :=
  (∀ (neg : Bool) (m k : Nat) (e : Int), 0 < k →
    let f := m / 2 ^ k
    let r := m % 2 ^ k
    roundAt 0 neg m e (e + k) false =
      (if 2 * r < 2 ^ k then f else if 2 ^ k < 2 * r then f + 1 else f + f % 2, decide (r ≠ 0)) ∧
    roundAt 1 neg m e (e + k) false = (f, decide (r ≠ 0)) ∧
    roundAt 2 neg m e (e + k) false = (if neg = true ∧ r ≠ 0 then f + 1 else f, decide (r ≠ 0)) ∧
    roundAt 3 neg m e (e + k) false = (if neg = false ∧ r ≠ 0 then f + 1 else f, decide (r ≠ 0)) ∧
    roundAt 4 neg m e (e + k) false = (if 2 * r < 2 ^ k then f else f + 1, decide (r ≠ 0))) ∧
  (∀ (rm : BitVec 3) (x y : Word),
    let inf (n : Bool) : Nat := 0x7F800000 + n.toNat * 2 ^ 31
    let zero (n : Bool) : Nat := n.toNat * 2 ^ 31
    let isNan (w : Word) := decide (0x7F800000 < w.toNat % 2 ^ 31)
    let quiet (w : Word) := decide (0x7FC00000 ≤ w.toNat % 2 ^ 31)
    let fl : Flags := if (isNan x && !quiet x) || (isNan y && !quiet y) then flagNV else 0
    ((isNan x || isNan y) = true →
      fAdd fp32 rm false x.toNat y.toNat false = (0x7FC00000, fl) ∧ fMul fp32 rm false x.toNat y.toNat = (0x7FC00000, fl) ∧
      fDiv fp32 rm false x.toNat y.toNat = (0x7FC00000, fl) ∧
      fEq false x.toNat y.toNat = (false, fl) ∧ fLt false x.toNat y.toNat = (false, flagNV) ∧
      fLe false x.toNat y.toNat = (false, flagNV)) ∧
    ∀ n n' : Bool,
      fAdd fp32 rm false (inf n) (inf n') false = (if n = n' then (inf n, 0) else (0x7FC00000, flagNV)) ∧
      fMul fp32 rm false (inf n) (zero n') = (0x7FC00000, flagNV) ∧
      fDiv fp32 rm false (zero n) (zero n') = (0x7FC00000, flagNV) ∧
      fDiv fp32 rm false (inf n) (inf n') = (0x7FC00000, flagNV) ∧
      (0 < x.toNat % 2 ^ 31 → x.toNat % 2 ^ 31 < 0x7F800000 →
        fDiv fp32 rm false x.toNat (zero n) = (inf (decide (2 ^ 31 ≤ x.toNat) != n), flagDZ)) ∧
      (0 < x.toNat % 2 ^ 31 → 2 ^ 31 ≤ x.toNat → isNan x = false → fSqrt fp32 rm false x.toNat = (0x7FC00000, flagNV)) ∧
      fAdd fp32 rm false (zero n) (zero n') false = (zero (if n = n' then n else rm == 2), 0))

/-! ## Local memory (R174 to R193, R299 to R306, R325 to R328) -/

/-- R182, for W0 and the element windows W1 to W5 of a compute core: the four checks and their causes, in their order. The bytes of a
window access are those of its elements (R180): `k.2.2.2` is the width of an element in nibbles. A steward, a memory core and supervisor
mode have no supervisor-frame check (R42, R185). -/
def Obligations.AccessChecks : Prop :=
  ∀ (s : State) (a size : Nat) (store float : Bool),
    let x : Access := ⟨size, store, float⟩
    (s.kind = .compute → a < 0x40000 →
      checkAccess s a x =
        if 0x40000 < a + size then some (if store then 7 else 5)
        else if s.core.mode = .user ∧ size ≠ 0 ∧ s.core.jbase * 4096 < a + size then some (if store then 7 else 5)
        else if size ≠ 0 ∧ (s.core.locks.toList.any fun o => o.any fun l =>
            (l.write || store) && decide (l.first < a + size) && decide (a ≤ l.last)) = true then some 10
        else none) ∧
    (s.kind ≠ .compute → a < 0x40000 →
      checkAccess s a x = if 0x40000 < a + size then some (if store then 7 else 5) else none) ∧
    (s.kind = .compute → ∀ k ∈ ([(1, 0x100000, 0x180000, 4), (2, 0x200000, 0x280000, 4), (3, 0x300000, 0x400000, 2),
        (4, 0x400000, 0x600000, 1), (5, 0x600000, 0x700000, 2)] : List (Nat × Nat × Nat × Nat)),
      k.2.1 ≤ a → a < k.2.2.1 →
      let first := (a - k.2.1) / 4 * k.2.2.2 / 2
      let last := (((a - k.2.1) / 4 + size / 4) * k.2.2.2 - 1) / 2
      checkAccess s a x =
        if (size ≠ 4 ∧ size ≠ 8) ∨ k.2.2.1 < a + size then some (if store then 7 else 5)
        else if a % 4 ≠ 0 then some (if store then 6 else 4)
        else if s.core.mode = .user ∧ s.core.jbase * 4096 ≤ last then some (if store then 7 else 5)
        else if (s.core.locks.toList.any fun o => o.any fun l =>
            (l.write || store) && decide (l.first ≤ last) && decide (first ≤ l.last)) = true then some 10
        else none) ∧
    (s.kind = .compute → 0x40000 ≤ a → a < 0x100000 → checkAccess s a x = some (if store then 7 else 5))

/-- R175, R183: loads from W0 that pass the checks of R182, at any alignment, little-endian; LB and LH extend the sign; LWP takes
two words, FLW an f register to which no stream is mapped. A load that fails a check raises its cause with the effective
address. -/
def Obligations.ScratchpadLoads : Prop :=
  ∀ (s : State) (d a : Reg) (i : BitVec 16),
    let t := BitVec.ofInt 32 ((s.x a).toInt + i.toInt)
    let p := t.toNat
    let byte (k : Nat) : Byte := s.core.w0 (p + k)
    let half : BitVec 16 := byte 1 ++ byte 0
    let word (k : Nat) : Word := byte (k + 3) ++ byte (k + 2) ++ byte (k + 1) ++ byte k
    (p < 0x40000 →
      (checkAccess s p ⟨1, false, false⟩ = none →
        Falls (exec (.lb d a i) s) (s.setX d (BitVec.ofInt 32 (byte 0).toInt)) ∧
        Falls (exec (.lbu d a i) s) (s.setX d (BitVec.ofNat 32 (byte 0).toNat))) ∧
      (checkAccess s p ⟨2, false, false⟩ = none →
        Falls (exec (.lh d a i) s) (s.setX d (BitVec.ofInt 32 half.toInt)) ∧
        Falls (exec (.lhu d a i) s) (s.setX d (BitVec.ofNat 32 half.toNat))) ∧
      (checkAccess s p ⟨4, false, false⟩ = none → Falls (exec (.lw d a i) s) (s.setX d (word 0))) ∧
      (checkAccess s p ⟨8, false, false⟩ = none →
        Falls (exec (.lwp d a i) s) ((s.setX d (word 0)).setX (pairHi d) (word 4))) ∧
      (checkAccess s p ⟨4, false, true⟩ = none → s.fBusy [d] = false → s.streamOn d = false →
        Falls (exec (.flw d a i) s) (s.setF d (word 0)))) ∧
    (∀ c, checkAccess s p ⟨1, false, false⟩ = some c →
      exec (.lb d a i) s = .next (raise c t s) ∧ exec (.lbu d a i) s = .next (raise c t s)) ∧
    (∀ c, checkAccess s p ⟨2, false, false⟩ = some c →
      exec (.lh d a i) s = .next (raise c t s) ∧ exec (.lhu d a i) s = .next (raise c t s)) ∧
    (∀ c, checkAccess s p ⟨4, false, false⟩ = some c → exec (.lw d a i) s = .next (raise c t s)) ∧
    (∀ c, checkAccess s p ⟨8, false, false⟩ = some c → exec (.lwp d a i) s = .next (raise c t s)) ∧
    (∀ c, checkAccess s p ⟨4, false, true⟩ = some c → s.fBusy [d] = false → exec (.flw d a i) s = .next (raise c t s))

/-- R175, R184, and the frame of a store: the stored bytes are the low bytes of the register, every other byte of W0 reads as
before, and nothing else changes but the journal of a replayed phase (with the launch's mark that it no longer replays) and the
signature of a pair. The remap table gives every page a frame of its own, as R177 has it. A store that fails a check of R182 raises
its cause with the effective address and stores nothing. -/
def Obligations.ScratchpadStores : Prop :=
  ∀ (s : State) (b a : Reg) (i : BitVec 16),
    let t := BitVec.ofInt 32 ((s.x a).toInt + i.toInt)
    let p := t.toNat
    let stored (o : Result) (n v : Nat) : Prop := ∃ u, Falls o u ∧
      (∀ k, k < n → u.core.w0 (p + k) = BitVec.ofNat 8 (v / 256 ^ k)) ∧
      (∀ q, q < 0x40000 → q < p ∨ p + n ≤ q → u.core.w0 q = s.core.w0 q) ∧
      { u with
        core := { u.core with sp := s.core.sp, jrn := s.core.jrn, sig := s.core.sig }, launches := s.launches } = s ∧
      (s.replays = false → u.core.jrn = s.core.jrn ∧ u.launches = s.launches) ∧
      (s.paired = false → u.core.sig = s.core.sig)
    (p < 0x40000 → s.core.remapDistinct →
      (checkAccess s p ⟨1, true, false⟩ = none → stored (exec (.sb b a i) s) 1 (s.x b).toNat) ∧
      (checkAccess s p ⟨2, true, false⟩ = none → stored (exec (.sh b a i) s) 2 (s.x b).toNat) ∧
      (checkAccess s p ⟨4, true, false⟩ = none → stored (exec (.sw b a i) s) 4 (s.x b).toNat) ∧
      (checkAccess s p ⟨8, true, false⟩ = none →
        stored (exec (.swp b a i) s) 8 ((s.x b).toNat + 2 ^ 32 * (s.x (pairHi b)).toNat)) ∧
      (checkAccess s p ⟨4, true, true⟩ = none → s.fBusy [b] = false → s.streamOn b = false →
        stored (exec (.fsw b a i) s) 4 (s.f b).toNat)) ∧
    (∀ c, checkAccess s p ⟨1, true, false⟩ = some c → exec (.sb b a i) s = .next (raise c t s)) ∧
    (∀ c, checkAccess s p ⟨2, true, false⟩ = some c → exec (.sh b a i) s = .next (raise c t s)) ∧
    (∀ c, checkAccess s p ⟨4, true, false⟩ = some c → exec (.sw b a i) s = .next (raise c t s)) ∧
    (∀ c, checkAccess s p ⟨8, true, false⟩ = some c → exec (.swp b a i) s = .next (raise c t s)) ∧
    (∀ c, checkAccess s p ⟨4, true, true⟩ = some c → s.fBusy [b] = false → exec (.fsw b a i) s = .next (raise c t s))

/-- R82, R179, R180, R184: the element windows. Element `e` is one word of the window; the loads widen BF16, FP16 (a NaN keeps its
fraction), signed bytes, signed nibbles and unsigned bytes; the stores of W1 and W2 round to nearest even whatever FCSR holds, those of W3,
W4 and W5 saturate. FLW loads into an f register what LW loads into an x register. A store writes its element alone (SWP two), and nothing else changes but the journal of a replayed phase and the
signature of a pair; no flag is raised. -/
def Obligations.ElementWindows : Prop :=
  ∀ (c : Core) (e : Nat) (v : Word),
    let half : BitVec 16 := c.w0 (2 * e + 1) ++ c.w0 (2 * e)
    c.elem 1 e = half ++ 0#16 ∧
    c.elem 2 e = (
      let f := half.toNat % 1024
      let x := half.toNat / 1024 % 32
      BitVec.ofNat 32 (half.toNat / 32768 * 2 ^ 31 +
        if x = 31 then 255 * 2 ^ 23 + f * 2 ^ 13
        else if x ≠ 0 then (x + 112) * 2 ^ 23 + f * 2 ^ 13
        else if f = 0 then 0
        else (Nat.log2 f + 103) * 2 ^ 23 + (f * 2 ^ (23 - Nat.log2 f)) % 2 ^ 23)) ∧
    elemOut 1 v = (convert fp32 bf16 0 false v.toNat).1 ∧
    elemOut 2 v = (convert fp32 fp16 0 false v.toNat).1 ∧
    c.elem 3 e = BitVec.ofInt 32 (c.w0 e).toInt ∧
    c.elem 4 e = BitVec.ofInt 32 (((c.w0 (e / 2)).extractLsb' (4 * (e % 2)) 4).toInt) ∧
    c.elem 5 e = BitVec.ofNat 32 (c.w0 e).toNat ∧
    elemOut 3 v = (BitVec.ofInt 8 (max (-128) (min 127 v.toInt))).toNat ∧
    elemOut 4 v = (BitVec.ofInt 4 (max (-8) (min 7 v.toInt))).toNat ∧
    elemOut 5 v = (max 0 (min 255 v.toInt)).toNat ∧
    (∀ (s : State) (d a : Reg) (i : BitVec 16) (k : Nat),
      let t := BitVec.ofInt 32 ((s.x a).toInt + i.toInt)
      s.kind = .compute → k = 1 ∨ k = 2 ∨ k = 3 ∨ k = 4 ∨ k = 5 → t.toNat = elemBase k + 4 * e →
      4 * e < areaEnd (.elem k) - elemBase k →
      (checkAccess s t.toNat ⟨4, false, false⟩ = none → Falls (exec (.lw d a i) s) (s.setX d (s.core.elem k e))) ∧
      (checkAccess s t.toNat ⟨8, false, false⟩ = none →
        Falls (exec (.lwp d a i) s) ((s.setX d (s.core.elem k e)).setX (pairHi d) (s.core.elem k (e + 1)))) ∧
      (checkAccess s t.toNat ⟨4, false, true⟩ = none → s.fBusy [d] = false → s.streamOn d = false →
        Falls (exec (.flw d a i) s) (s.setF d (s.core.elem k e)))) ∧
    (∀ (s : State) (b a : Reg) (i : BitVec 16) (k : Nat),
      let t := BitVec.ofInt 32 ((s.x a).toInt + i.toInt)
      let stored (o : Result) (n : Nat) (value : Nat → Word) : Prop := ∃ u, Falls o u ∧
        (∀ j, j < n → u.core.rawElem k (e + j) = elemOut k (value j)) ∧
        (∀ j, j < (areaEnd (.elem k) - elemBase k) / 4 → j < e ∨ e + n ≤ j → u.core.rawElem k j = s.core.rawElem k j) ∧
        { u with
          core := { u.core with sp := s.core.sp, jrn := s.core.jrn, sig := s.core.sig }, launches := s.launches } = s ∧
        (s.replays = false → u.core.jrn = s.core.jrn ∧ u.launches = s.launches) ∧
        (s.paired = false → u.core.sig = s.core.sig)
      s.kind = .compute → s.core.remapDistinct → k = 1 ∨ k = 2 ∨ k = 3 ∨ k = 4 ∨ k = 5 → t.toNat = elemBase k + 4 * e →
      4 * e < areaEnd (.elem k) - elemBase k →
      (checkAccess s t.toNat ⟨4, true, false⟩ = none → stored (exec (.sw b a i) s) 1 fun _ => s.x b) ∧
      (checkAccess s t.toNat ⟨8, true, false⟩ = none →
        stored (exec (.swp b a i) s) 2 fun j => if j = 0 then s.x b else s.x (pairHi b)) ∧
      (checkAccess s t.toNat ⟨4, true, true⟩ = none → s.fBusy [b] = false → s.streamOn b = false →
        stored (exec (.fsw b a i) s) 1 fun _ => s.f b))

/-- R189: the tag table of a compute core. A lookup finds what was last set and answers all ones for a key that is not there; TSET
answers all ones where it fills an empty way, the old data with bit 30 where it replaces, and the data of the least recently used way, which
it refills, otherwise; TINV
removes the key; on a steward or memory core all three are illegal. -/
def Obligations.TagTable : Prop :=
  ∀ (s : State) (d a b : Reg),
    let k := s.x a
    (s.kind = .compute →
      (tagFind s.core.tags k = none → Falls (exec (.tlook d a) s) (s.setX d 0xFFFFFFFF) ∧
        Falls (exec (.tinv d a) s) (s.setX d 0xFFFFFFFF)) ∧
      (∀ w, tagFind s.core.tags k = some w →
        (∃ l, Falls (exec (.tlook d a) s) ((s.mapCore fun c => { c with tags := l }).setX d (w.data.setWidth 32)) ∧
          tagFind l k = some { w with rank := 0 }) ∧
        (∃ l, Falls (exec (.tinv d a) s) ((s.mapCore fun c => { c with tags := l }).setX d (w.data.setWidth 32)) ∧
          ∀ x ∈ l, x.place ≠ w.place) ∧
        (∃ l, Falls (exec (.tset d a b) s)
            ((s.mapCore fun c => { c with tags := l }).setX d (BitVec.ofNat 32 (2 ^ 30 + w.data.toNat))) ∧
          tagFind l k = some { w with data := (s.x b).truncate 30, rank := 0 })) ∧
      (∀ n, tagFind s.core.tags k = none → tagHole s.core.tags (k.toNat % 64) = some n →
        ∃ l, Falls (exec (.tset d a b) s) ((s.mapCore fun c => { c with tags := l }).setX d 0xFFFFFFFF) ∧
          tagFind l k = some ⟨k.toNat % 64, n, BitVec.ofNat 26 (k.toNat / 64), (s.x b).truncate 30, 0⟩) ∧
      (∀ w, tagFind s.core.tags k = none → tagHole s.core.tags (k.toNat % 64) = none →
        s.core.tags.find? (fun x => x.set == k.toNat % 64 && x.rank == 3) = some w →
        ∃ l, Falls (exec (.tset d a b) s) ((s.mapCore fun c => { c with tags := l }).setX d (w.data.setWidth 32)) ∧
          tagFind l k = some ⟨w.set, w.way, BitVec.ofNat 26 (k.toNat / 64), (s.x b).truncate 30, 0⟩)) ∧
    (s.kind ≠ .compute →
      exec (.tlook d a) s = .next (raise 2 (wordOf (.tlook d a)) s) ∧
      exec (.tset d a b) s = .next (raise 2 (wordOf (.tset d a b)) s) ∧
      exec (.tinv d a) s = .next (raise 2 (wordOf (.tinv d a)) s))

/-- R185, R190 to R193: the full/empty instructions on a W0 word that passes its checks. TAKE and TTAKE of a full word read it and leave
it empty; TTAKE of an empty word answers its sentinel; TAKE of an empty word enters the deferred list and waits, and a value handed to it
retires it; a lock range of either kind over the word raises cause 0x0A in TAKE and TTAKE; PUT into an empty word on which nobody waits
fills it, and into a full one it waits; FESET of one word sets or clears its bit. `setFull` also journals the line in a replayed phase.
A TAKE that waits while the list holds 64 stands outside it until an entry is free (R191): in `deferred` it is then the 65th, which the
list's readers leave out. That PUT and FESET release at device scope is the model's (log 6). -/
def Obligations.FullEmptyWords : Prop :=
  ∀ (s : State) (d a b : Reg),
    let p := (s.x a).toNat
    s.kind = .compute → p % 4 = 0 →
    (checkAccess s p ⟨4, true, false⟩ = none → p + 4 ≤ 0x40000 →
      (∀ v, s.core.handed = some v → Falls (exec (.take d a) s) ((s.mapCore fun c => { c with handed := none }).setX d v)) ∧
      (s.core.full p = true →
        (s.core.handed = none → (∀ w ∈ s.core.deferred, w.src ≠ none) →
          Falls (exec (.take d a) s) ((s.setFull p false).setX d (s.core.w0Word p))) ∧
        Falls (exec (.ttake d a b) s) ((s.setFull p false).setX d (s.core.w0Word p))) ∧
      (s.core.full p = false → Falls (exec (.ttake d a b) s) (s.setX d (s.x b))) ∧
      (s.core.full p = false → s.core.handed = none → ⟨p, none⟩ ∉ s.core.deferred →
        exec (.take d a) s =
          .next (s.mapCore fun c => { c with deferred := c.deferred ++ [⟨p, none⟩], stalled := true }))) ∧
    (p + 4 ≤ 0x40000 → s.core.stalled = false → s.core.lockHit p 4 true = true → ∃ c,
      exec (.take d a) s = .next (raise c (s.x a) s) ∧ exec (.ttake d a b) s = .next (raise c (s.x a) s) ∧
      (checkAccess s p ⟨4, false, false⟩ = none ∨ checkAccess s p ⟨4, false, false⟩ = some 0x0A → c = 0x0A)) ∧
    (checkAccess s p ⟨4, true, false⟩ = none → p + 4 ≤ 0x40000 → s.paired = false →
      (s.core.full p = true → exec (.put a b) s = .next (s.mapCore fun c => { c with stalled := true })) ∧
      ((∀ w ∈ s.core.deferred, w.addr ≠ p) → released s 2 = true →
        (s.core.full p = false → Falls (exec (.put a b) s) ((s.w0Write p 4 (s.x b).toNat).setFull p true)) ∧
        ((s.x b).toNat / 16 % 256 = 0 →
          Falls (exec (.feset a b) s) (s.setFull p (decide ((s.x b).toNat % 2 = 1)))))) ∧
    (∀ (full : Bool) (q : Nat), (s.setFull p full).core.full q = if q / 4 = p / 4 then full else s.core.full q)

/-- R326 to R328: the fences. FENCE and FENCE.I complete where no request of theirs is outstanding and wait otherwise; FENCE.E
completes once the engines have nothing left, or over a held fault report (R134), and waits otherwise. -/
def Obligations.Fences : Prop :=
  ∀ (s : State) (c : BitVec 2) (p q u v : Bool),
    (outstanding s c.toNat p q = false → Falls (exec (.fence c p q u v) s) s) ∧
    (outstanding s c.toNat p q = true →
      exec (.fence c p q u v) s = .next (s.mapCore fun k => { k with stalled := true })) ∧
    (outstanding s 3 false true = false → Falls (exec .fenceI s) s) ∧
    (outstanding s 3 false true = true → exec .fenceI s = .next (s.mapCore fun k => { k with stalled := true })) ∧
    (reportHeld s = true → Falls (exec .fenceE s) s) ∧
    (s.core.cp.queue ≠ [] ∨ (s.kind = .compute ∧ s.core.seqs ≠ []) → reportHeld s = false →
      ∃ t, exec .fenceE s = .next t ∧ t.core.pc = s.core.pc ∧ t.core.stalled = true ∧ t.core.x = s.core.x ∧
        t.core.cp = s.core.cp ∧ t.core.seqs = s.core.seqs) ∧
    (s.core.cp.queue = [] → s.core.mx.queue = [] → s.core.seqs = [] →
      (∀ x ∈ s.core.slots.toList, x.state ≠ .exposing) → Falls (exec .fenceE s) s) ∧
    ((∀ o ∈ s.core.ni.slots.toList, o = none) → outstanding s c.toNat p q = false)

/-- R301 to R303, R306: core-scope atomics on a W0 word and cluster-scope atomics on a synchronization word. The old value goes to
X[rd] unless the form returns nothing; AMOCAS takes its comparand from rd and AMOINCB is bounded by rs2. A release form has nothing
outstanding here; pairs are left to R168.
R299, R302, R305, R306 at device and system scope: a remote AMO checks alignment (cause 0x06) and its place
(cause 0x07) before anything is sent. It sends one request from its slot, after the release that its order asks for; with nr it retires then,
otherwise it waits for the reply, whose value goes to rd; a refusal raises cause 0x0B with subcode and slot, a translation fault cause
0x15. Where a region-0 word is performed is the model's reading (log 23); pairs are left to R168. -/
def Obligations.LocalAtomics : Prop :=
  (∀ (s : State) (d a b : Reg) (o : BitVec 2) (n : Bool),
    let p := (s.x a).toNat
    let v := s.x b
    let rows (old : Word) (c : BitVec 2) : List (Instr × Bool × Bool × Word) :=
      [(.amoadd d a b c o n, n, true, BitVec.ofNat 32 (old.toNat + v.toNat)), (.amoand d a b c o n, n, true, old &&& v),
        (.amoor d a b c o n, n, true, old ||| v), (.amoxor d a b c o n, n, true, old ^^^ v),
        (.amomin d a b c o n, n, true, if old.toInt < v.toInt then old else v),
        (.amomax d a b c o n, n, true, if v.toInt < old.toInt then old else v),
        (.amominu d a b c o n, n, true, if old.toNat < v.toNat then old else v),
        (.amomaxu d a b c o n, n, true, if v.toNat < old.toNat then old else v), (.amoswap d a b c o n, n, true, v),
        (.amocas d a b c o, false, decide (old = s.x d), v),
        (.amoincb d a b c o n, n, decide (old.toNat < v.toNat), BitVec.ofNat 32 (old.toNat + 1)),
        (.amofadd d a b c o n, n, true, BitVec.ofNat 32 (fAdd fp32 0 false old.toNat v.toNat false).1)]
    s.paired = false → s.pairFollower = false → (∀ x ∈ s.core.ni.slots.toList, x = none) → p % 4 = 0 →
    (p + 4 ≤ 0x40000 → checkAccess s p ⟨4, true, false⟩ = none →
      ∀ e ∈ rows (s.core.w0Word p) 0,
        let t := if e.2.2.1 then s.w0Write p 4 e.2.2.2.toNat else s
        Falls (exec e.1 s) (if e.2.1 then t else t.setX d (s.core.w0Word p))) ∧
    (p + 4 ≤ 0x1000 → s.kind ≠ .memory →
      ∀ e ∈ rows (s.unit.sync.word p) 1,
        let t := if e.2.2.1 then s.mapUnit fun u => { u with sync := u.sync.putWord p e.2.2.2 } else s
        Falls (exec e.1 s) (if e.2.1 then t else t.setX d (s.unit.sync.word p)))) ∧
  (∀ (s : State) (d a b : Reg) (c o : BitVec 2) (n : Bool) (i : Nat),
    let w := s.xp a
    let v := s.x b
    let ready := o.getLsbD 1 = true → released s c.toNat = true
    let dst := amoEndpoint s w (c == 3)
    let waits (j : Instr) (u : State) : Prop := exec j s = .next (u.mapCore fun c => { c with stalled := true })
    2 ≤ c.toNat → s.paired = false → s.pairFollower = false →
    ∀ e ∈ ([(.amoadd d a b c o n, 0, n), (.amoand d a b c o n, 1, n), (.amoor d a b c o n, 2, n), (.amoxor d a b c o n, 3, n),
        (.amomin d a b c o n, 4, n), (.amomax d a b c o n, 5, n), (.amominu d a b c o n, 6, n), (.amomaxu d a b c o n, 7, n),
        (.amoswap d a b c o n, 8, n), (.amocas d a b c o, 9, false), (.amoincb d a b c o n, 10, n),
        (.amofadd d a b c o n, 11, n)] : List (Instr × BitVec 4 × Bool)),
      let packet : Packet := ⟨s.core.id, dst, s.core.tenant, BitVec.ofNat 5 i, .amo e.2.1 (c == 3) w v (s.x d)⟩
      let sent (u : State) (k : ReqKind) : Prop := u.core.ni.slot i = some ⟨k, packet, none, true⟩ ∧ packet ∈ u.fabric ∧
        (∀ j, j ≠ i → u.core.ni.slot j = s.core.ni.slot j) ∧ u.core.x = s.core.x ∧ u.core.sp = s.core.sp
      (w.toNat % 4 ≠ 0 → exec e.1 s = .next (raise 6 w.lo s)) ∧
      (w.toNat % 4 = 0 → (faRegion w ≠ 0 ∧ faRegion w ≠ 2) ∨ (c = 2 ∧ faPkg w ≠ s.pkg) →
        exec e.1 s = .next (raise 7 w.lo s)) ∧
      (w.toNat % 4 = 0 → faRegion w = 0 ∨ faRegion w = 2 → faPkg w = s.pkg → (e.2.2 = false → slotOf s .amo = none) →
        (s.core.ni.ownSlot = none → waits e.1 s) ∧
        (s.core.ni.ownSlot = some i → ¬ready → waits e.1 (s.mapNi fun n => { n with reserved := some i })) ∧
        (s.core.ni.ownSlot = some i → i < 32 → ready → faValid w = true → s.reachable dst = true →
          (e.2.2 = true → ∃ u, Falls (exec e.1 s) u ∧ sent u (if o.getLsbD 0 then .amoAcq else .amoNr)) ∧
          (e.2.2 = false → ∃ u : State, exec e.1 s = .next u ∧ sent u .amo ∧ u.core.pc = s.core.pc ∧ u.core.stalled = true))) ∧
      (∀ j sl, w.toNat % 4 = 0 → faRegion w = 0 ∨ faRegion w = 2 → c = 3 ∨ faPkg w = s.pkg → e.2.2 = false →
        slotOf s .amo = some (j, sl) →
        let u := s.mapNi fun n => { n with slots := n.slots.setIfInBounds j none, order := n.order.filter (· != j) }
        (sl.reply = none → waits e.1 s) ∧
        (∀ x, sl.reply = some (.data x) → Falls (exec e.1 s) (u.setX d x.lo)) ∧
        (∀ k, sl.reply = some (.nack k) → exec e.1 s = .next (raise 0x0B (BitVec.ofNat 32 (k.toNat * 2 ^ 28 + j % 32)) u)) ∧
        (∀ x, sl.reply = some (.vfault x) → exec e.1 s = .next (raise 0x15 x u))))
/-! ## Remote requests, messages and events (R279 to R314) -/

/-- R290, R291, R305, R130: remote requests. RLOAD sends a load from the slot it holds, the lowest free one, and answers the slot number; RSTORE sends
and goes on; RWAIT collects the reply, waits for one that has not come, raises cause 0x0B with
subcode and slot for a refusal, and is illegal on a slot that holds no load of its size. Pairs are left to R168. -/
def Obligations.RemoteRequests : Prop :=
  ∀ (s : State) (d a b : Reg) (p : Bool) (i : Nat),
    let z := if p then 8 else 4
    let addr := s.xp a
    let packet (k : Body) : Packet :=
      { src := s.core.id, dst := faEndpoint addr, tenant := s.core.tenant, slot := BitVec.ofNat 5 i, body := k }
    let sent (u : State) (k : ReqKind) (y : Body) : Prop :=
      u.core.ni.slot i = some ⟨k, packet y, none, true⟩ ∧ (packet y) ∈ u.fabric ∧
      (∀ j, j ≠ i → u.core.ni.slot j = s.core.ni.slot j)
    s.pairFollower = false →
    (faRegion addr ≠ 0 → addr.toNat % z = 0 → faAllowed s addr = true → faPkg addr = s.pkg →
      s.reachable (faEndpoint addr) = true → s.core.ni.ownSlot = some i → i < 32 →
      (∃ u, Falls (exec (.rload d a p) s) (u.setX d (BitVec.ofNat 32 i)) ∧ sent u .rload (.load addr z)) ∧
      (∃ u, Falls (exec (.rstore a b p) s) u ∧
        sent u .rstore (.store addr z (if p then s.xp b else (s.x b).setWidth 64)))) ∧
    (faRegion addr = 0 → exec (.rload d a p) s = .next (raise 5 addr.lo s) ∧
      exec (.rstore a b p) s = .next (raise 7 addr.lo s)) ∧
    (∀ sl v, (s.x a).toNat % 32 = i → s.core.ni.slot i = some sl → sl.kind = .rload → sl.packet.body = .load v z →
      let u := s.mapNi fun n => { n with slots := n.slots.setIfInBounds i none, order := n.order.filter (· != i) }
      (∀ w, sl.reply = some (.data w) →
        Falls (exec (.rwait d a p) s) (if p then u.setXp d w else u.setX d w.lo)) ∧
      (sl.reply = none → exec (.rwait d a p) s = .next (s.mapCore fun c => { c with stalled := true })) ∧
      (∀ e, sl.reply = some (.nack e) →
        exec (.rwait d a p) s = .next (raise 0x0B (BitVec.ofNat 32 (e.toNat * 2 ^ 28 + i)) u))) ∧
    ((s.x a).toNat % 32 = i → s.core.ni.slot i = none →
      exec (.rwait d a p) s = .next (raise 2 (wordOf (.rwait d a p)) s))

/-- R281, R283, R288: the message instructions. MSEND, once its core's earlier requests are acknowledged and
the accesses in its destination's scope are performed, sends the message that NIBUF holds, header and payload, from the slot it holds, and counts it; MRECV with an unread message answers its address in the ring, waits without one
and is illegal while the ring is off; MPOP consumes the message at the read offset. -/
def Obligations.MessageInstructions : Prop :=
  ∀ (s : State) (d : Reg) (i : Nat),
    let h := nibufHeader s
    let packet : Packet :=
      { src := s.core.id, dst := hdrEp h, tenant := s.core.tenant, slot := BitVec.ofNat 5 i,
        body := .msg h (s.core.ni.buf.bytes 8 (32 * hdrUnits h - 8)) }
    (s.pairFollower = false → (∀ o ∈ s.core.ni.slots.toList, ∀ x, o = some x → x.reply ≠ none ∨ x.kind = .rload) →
      released s (scopeOf s (hdrEp h)) = true → s.core.ni.ownSlot = some i → i < 32 → s.reachable (hdrEp h) = true →
      pkgOf (hdrEp h) = s.pkg →
      ∃ u, Falls (exec .msend s) u ∧ packet ∈ u.fabric ∧ u.core.ni.slot i = some ⟨.msend, packet, none, true⟩ ∧
        u.core.ni.sent = s.core.ni.sent + 1 ∧ u.core.sp = s.core.sp ∧ u.core.x = s.core.x) ∧
    (s.core.csr.mrcfg.getLsbD 31 = false → exec (.mrecv d) s = .next (raise 2 (wordOf (.mrecv d)) s)) ∧
    (s.core.csr.mrcfg.getLsbD 31 = true → s.core.ni.wr = s.core.ni.rd →
      exec (.mrecv d) s = .next (s.mapCore fun c => { c with stalled := true })) ∧
    (s.core.csr.mrcfg.getLsbD 31 = true → s.core.ni.wr ≠ s.core.ni.rd → hdrBit (headHeader s) = false →
      Falls (exec (.mrecv d) s) (s.setX d (BitVec.ofNat 32 (s.core.ringBase + 32 * s.core.ni.rd)))) ∧
    (s.core.ni.wr = s.core.ni.rd → Falls (exec .mpop s) s) ∧
    (s.core.ni.wr ≠ s.core.ni.rd → hdrBit (headHeader s) = false →
      s.core.ni.overflow = [] → s.core.ni.held = [] →
      ∃ u, Falls (exec .mpop s) u ∧ u.core.x = s.core.x ∧ u.core.sp = s.core.sp ∧
        u.core.ni.rd = (s.core.ni.rd + hdrUnits (headHeader s)) % s.core.ringSize ∧ u.core.ni.wr = s.core.ni.wr)

/-- R295, R296: a valid layout record is loaded from W0, an invalid one is illegal; HDR.PACK puts fields into a header from consecutive
registers and HDR.PARSE takes them out again; both are illegal where the fields would need a register after x31. -/
def Obligations.HeaderLayouts : Prop :=
  ∀ (s : State) (d a : Reg) (l : BitVec 3),
    let p := (s.x a).toNat
    let r : DWord := BitVec.ofNat 64 (s.core.w0Read p 8)
    let ws := layoutOf s l
    (p % 8 = 0 → p + 8 ≤ 0x40000 → checkAccess s p ⟨8, false, false⟩ = none →
      (validLayout r = true → Falls (exec (.hdrLay a l) s)
        (s.mapCore fun c => { c with layouts := c.layouts.set l.toNat r l.isLt })) ∧
      (validLayout r = false → exec (.hdrLay a l) s = .next (raise 2 (wordOf (.hdrLay a l)) s))) ∧
    (a.toNat + layoutRegs ws ≤ 32 →
      Falls (exec (.hdrPack d a l) s) (s.setXp d (BitVec.ofNat 64 (packFields s ws a.toNat 0)))) ∧
    (32 < a.toNat + layoutRegs ws → exec (.hdrPack d a l) s = .next (raise 2 (wordOf (.hdrPack d a l)) s)) ∧
    (d.toNat + layoutRegs ws ≤ 32 →
      Falls (exec (.hdrParse d a l) s) (parseFields (s.xp a).toNat ws d.toNat 0 s)) ∧
    (32 < d.toNat + layoutRegs ws → exec (.hdrParse d a l) s = .next (raise 2 (wordOf (.hdrParse d a l)) s)) ∧
    (∀ w1 w2 : Nat, 0 < w1 → w1 ≤ 32 → 0 < w2 → w2 ≤ 32 → a.toNat + 2 ≤ 32 →
      packFields s [w1, w2] a.toNat 0 = (s.x a).toNat % 2 ^ w1 + (s.x (a + 1)).toNat % 2 ^ w2 * 2 ^ w1)

/-- R311, R313 at cluster level: ARRIVE answers the generation, marks the arrival, and the last member's arrival starts the next
generation with no arrival; a non-member raises cause 0x13 and a member that has arrived waits. BWAIT waits until the generation is after
the one it is given; BGROUP sets the members of a barrier without an open arrival, and otherwise waits, or raises cause 0x13 where the core
is a member that has not arrived.
R313 at device level: ARRIVE, BWAIT and BGROUP on a group act on the part of the own cluster, and the last arrival of all parts starts the
next generation. -/
def Obligations.Barriers : Prop :=
  (∀ (s : State) (d a : Reg) (n : BitVec 5),
    let b := s.unit.bars[n.toNat]
    let m := memberNo s
    let all := b.arrived ||| BitVec.ofNat 17 (2 ^ m)
    let put (b' : Barrier) : State := s.mapUnit fun u => { u with bars := u.bars.set n.toNat b' }
    s.kind ≠ .memory → s.pairFollower = false →
    (released s 1 = true → b.members.getLsbD m = true → b.arrived.getLsbD m = false →
      Falls (exec (.arrive d false n) s)
        ((put (if b.members &&& ~~~all = 0 then { b with gen := b.gen + 1, arrived := 0 }
          else { b with arrived := all })).setX d b.gen)) ∧
    (released s 1 = true → b.members.getLsbD m = false →
      exec (.arrive d false n) s = .next (raise 0x13 (wordOf (.arrive d false n)) s)) ∧
    (released s 1 = true → b.members.getLsbD m = true → b.arrived.getLsbD m = true →
      exec (.arrive d false n) s = .next (s.mapCore fun c => { c with stalled := true })) ∧
    (0 < (b.gen - s.x a).toInt → Falls (exec (.bwait a false n) s) s) ∧
    ((b.gen - s.x a).toInt ≤ 0 → exec (.bwait a false n) s = .next (s.mapCore fun c => { c with stalled := true })) ∧
    (released s 1 = false → exec (.arrive d false n) s = .next (s.mapCore fun c => { c with stalled := true })) ∧
    (b.arrived = 0 → Falls (exec (.bgroup a false n) s) (put { b with members := BitVec.ofNat 17 (s.x a).toNat })) ∧
    (b.arrived ≠ 0 → b.members.getLsbD m = true → b.arrived.getLsbD m = false →
      exec (.bgroup a false n) s = .next (raise 0x13 (wordOf (.bgroup a false n)) s)) ∧
    (b.arrived ≠ 0 → b.members.getLsbD m = false ∨ b.arrived.getLsbD m = true →
      exec (.bgroup a false n) s = .next (s.mapCore fun c => { c with stalled := true }))) ∧
  (∀ (s : State) (d a : Reg) (n : BitVec 5) (l : Launch) (g : Group),
    let r := l.rankOf s.unit.id
    let p : GroupPart := (g.parts.find? fun q => q.rank == r).getD ⟨r, 0, 0⟩
    let m := memberNo s
    let others := g.parts.filter fun q => q.rank != r
    let closed (ps : List GroupPart) : Group :=
      if (∃ q ∈ ps, q.arrived ≠ 0) ∧ ∀ q ∈ ps, q.members &&& ~~~q.arrived = 0 then
        { gen := g.gen + 1, parts := ps.map fun q => { q with arrived := 0 } }
      else { gen := g.gen, parts := ps }
    let holds (u : State) (ps : List GroupPart) : Prop := u.core = s.core ∧ u.unit = s.unit ∧
      (u.launch.bind fun l => l.groups[n.toNat]?) = some (closed ps)
    let waits (i : Instr) : Prop := exec i s = .next (s.mapCore fun c => { c with stalled := true })
    s.launch = some l → l.groups[n.toNat]? = some g → s.kind ≠ .memory → s.pairFollower = false →
    (released s 2 = false → waits (.arrive d true n)) ∧
    (released s 2 = true → p.members.getLsbD m = false →
      exec (.arrive d true n) s = .next (raise 0x13 (wordOf (.arrive d true n)) s)) ∧
    (released s 2 = true → p.members.getLsbD m = true → p.arrived.getLsbD m = true → waits (.arrive d true n)) ∧
    (released s 2 = true → p.members.getLsbD m = true → p.arrived.getLsbD m = false →
      ∃ u : State, Falls (exec (.arrive d true n) s) (u.setX d g.gen) ∧
        holds u (⟨r, p.members, p.arrived ||| BitVec.ofNat 17 (2 ^ m)⟩ :: others)) ∧
    (0 < (g.gen - s.x a).toInt → Falls (exec (.bwait a true n) s) s) ∧
    ((g.gen - s.x a).toInt ≤ 0 → waits (.bwait a true n)) ∧
    (p.arrived = 0 → ∃ u : State, Falls (exec (.bgroup a true n) s) u ∧ holds u (⟨r, BitVec.ofNat 17 (s.x a).toNat, 0⟩ :: others)) ∧
    (p.arrived ≠ 0 → p.members.getLsbD m = true → p.arrived.getLsbD m = false →
      exec (.bgroup a true n) s = .next (raise 0x13 (wordOf (.bgroup a true n)) s)) ∧
    (p.arrived ≠ 0 → p.members.getLsbD m = false ∨ p.arrived.getLsbD m = true → waits (.bgroup a true n)))

/-- R310, R314 in the own cluster: EVWAIT takes one of the pending signals and answers their number, and waits without one; EVSIG adds a
signal, or sets ovf at 255; EVLOCK takes a free mutex and EVUNLOCK gives it to the oldest requester; locking one's own and unlocking
another's raise cause 0x13. -/
def Obligations.EventLines : Prop :=
  ∀ (s : State) (d : Reg) (n : BitVec 5),
    let e := s.unit.evs[n.toNat]
    let m := memberNo s
    let put (e' : EvLine) : State := s.mapUnit fun u => { u with evs := u.evs.set n.toNat e' }
    s.kind ≠ .memory → s.pairFollower = false →
    (0 < e.count → e.waiters = [] → Falls (exec (.evwait d n) s)
      ((put { e with count := e.count - 1, waiters := [] }).setX d (BitVec.ofNat 32 e.count))) ∧
    (e.count = 0 → m ∉ e.waiters → exec (.evwait d n) s =
      .next ((put { e with waiters := e.waiters ++ [m] }).mapCore fun c => { c with stalled := true })) ∧
    (released s 1 = true → Falls (exec (.evsig 0 n) s)
      (put (if e.count = 255 then { e with ovf := true } else { e with count := e.count + 1 }))) ∧
    (e.owner = none → e.lockers = [] → Falls (exec (.evlock n) s) (put { e with owner := some m })) ∧
    (e.owner = some m → m ∉ e.lockers → exec (.evlock n) s = .next (raise 0x13 (wordOf (.evlock n)) s)) ∧
    (e.owner = some m → released s 1 = true → Falls (exec (.evunlock n) s) (put { e with owner := e.lockers.head? })) ∧
    (e.owner ≠ some m → exec (.evunlock n) s = .next (raise 0x13 (wordOf (.evunlock n)) s))

/-! ## Points and streams (R30, R31, R152 to R170, R195 to R206) -/

/-- R30, R31, R158: the dispatch of a point on a core that is idle: user mode, the kernel's entry, the stack pointer below the
supervisor frames, the coordinates in x10 to x13, every other register zero, FCSR zero, envelopes and streams cleared and no loop. -/
def Obligations.PointEntry : Prop :=
  ∀ (s : State) (l : Launch) (x : Nat), s.quartz.fatal = false → nextLine s = some (l, x) → l.pkt.pair = false →
    ∃ t, exec .pointDispatch s = .next t ∧ t.core.mode = .user ∧ t.core.pc = l.entry ∧ t.core.csr.fcsr = 0 ∧
      t.core.loop.active = false ∧ (t.core.point.map fun p => p.line) = some x ∧
      t.x 2 = BitVec.ofNat 32 (s.core.jbase * 4096) ∧
      (∀ r : Reg, 10 ≤ r.toNat → r.toNat < 14 → t.x r = BitVec.ofNat 32 (((l.coords x)[r.toNat - 10]?).getD 0)) ∧
      (∀ r : Reg, r.toNat ≠ 2 → r.toNat < 10 ∨ 14 ≤ r.toNat → t.x r = 0) ∧
      (∀ r : Reg, t.f r = 0 ∧ (t.stream r).mapped = false) ∧ (∀ i : Fin 8, t.core.env[i] = Envelope.reset) ∧
      t.core.sp = s.core.sp ∧ t.core.csr.pthresh = s.core.csr.pthresh ∧ t.launches = s.launches ∧ t.unit = s.unit

/-- R164: PDONE and PPHASE with nothing outstanding retire the point on its line (PPHASE holds the line until the next phase), end the
loop, the streams and the attachment, and count in INSTRET; without a point, in a handler, or with an RLOAD that was not collected they
raise cause 0x12; with a loop pushed they wait. Pairs are left to R170. FOLLOW of a core of the quad that may lead answers 0 and
attaches (`followLate` tells that the leader waits inside an instruction, which is then no part of the stream), otherwise it answers 1 and changes nothing; DETACH ends the attachment; in a pair both raise cause 0x12 (R165, R166). -/
def Obligations.PointEnds : Prop :=
  (∀ (s : State) (p : Point), s.kind = .compute →
    let ended (o : Result) (hold : Bool) : Prop := ∃ t, o = .next t ∧ t.core.point = none ∧ t.core.loop.active = false ∧
      t.core.follow = none ∧ t.core.x = s.core.x ∧ t.core.f = s.core.f ∧ t.core.sp = s.core.sp ∧ t.core.pc = s.core.pc ∧
      t.core.csr.instret = s.core.csr.instret + 1 ∧ (∀ r : Reg, (t.stream r).mapped = false) ∧
      t.launches = (s.mapMyLaunch fun l => l.mapLine p.line fun e => { e with h := e.h + 1, hold := e.hold || hold }).launches
    (s.core.point = some p → s.core.mode = .user → s.core.csr.ustatus.getLsbD 2 = false → s.paired = false →
      (∀ o ∈ s.core.ni.slots.toList, o = none) →
      (s.core.seqs = [] → ended (exec .pdone s) false ∧ ended (exec .pphase s) true) ∧
      (s.core.seqs ≠ [] → exec .pdone s = .next (s.mapCore fun c => { c with stalled := true }) ∧
        exec .pphase s = .next (s.mapCore fun c => { c with stalled := true }))) ∧
    (s.core.point = none ∨ s.core.mode = .supervisor ∨ s.core.csr.ustatus.getLsbD 2 = true ∨
        (∃ o ∈ s.core.ni.slots.toList, ∃ q, o = some q ∧ q.kind = .rload) →
      exec .pdone s = .next (raise 0x12 0x98000000 s) ∧ exec .pphase s = .next (raise 0x12 0x98000080 s)))
 ∧
  ∀ (s : State) (d a : Reg), s.kind = .compute →
    let q := (s.x a).toNat
    let home := localOf s.core.id / 4 * 4
    let c := s.coreAt (home + q)
    let n := ((List.range 4).filter fun k => (s.coreAt (home + k)).follow == some (BitVec.ofNat 2 q)).length
    let ok := q ≤ 3 ∧ home + q ≠ localOf s.core.id ∧ c.follow = none ∧ c.point ≠ none ∧ c.mode = .user ∧ n < 3
    (s.paired = false → ok → Falls (exec (.follow d a) s)
      ((s.mapCore fun k => { k with follow := some (BitVec.ofNat 2 q), followLate := c.stalled, lag := [] }).setX d 0)) ∧
    (s.paired = false → ¬ok → Falls (exec (.follow d a) s) (s.setX d 1)) ∧
    (s.paired = false → Falls (exec .detach s) (s.mapCore fun c => { c with follow := none, lag := [] })) ∧
    (s.paired = true → exec .detach s = .next (raise 0x12 0x98000180 s) ∧
      exec (.follow d a) s = .next (raise 0x12 (wordOf (.follow d a)) s))

/-- R195 to R200, R203, R205: SCFG writes one item of a descriptor, and waits while a pending loop uses its stream, SMAP maps a valid one from its beginning with the next sequence
number and raises cause 0x0C with code 4 for an invalid one, SUNMAP unmaps, SSTAT reads position, fault address and iteration; VLOOP pushes
its body, marked with whether streams act in it (R202), and goes on behind it, and raises cause 0x02 with the first word that no body may hold; VWAIT waits until no loop is
pending. The model's own are SSTAT's words of a stream that is not mapped, its position modulo 2^32, and that a body word beyond the
instruction store counts as the illegal word 0 (log 23). -/
def Obligations.Streams : Prop :=
  ∀ (s : State) (d a b : Reg) (i k : BitVec 4), d.toNat < 6 → s.kind = .compute →
    let desc := (s.stream d).desc
    let body := bodyWords s (k.toNat + 1)
    (s.fBusy [d] = true → exec (.scfg d a b i) s = .next (s.mapCore fun c => { c with stalled := true })) ∧
    (s.fBusy [d] = false → Falls (exec (.scfg d a b 0) s) (s.mapStream d fun t => { t with desc := { t.desc with base := s.x a, ctl := s.x b } }) ∧
      Falls (exec (.scfg d a b 5) s) (s.mapStream d fun t => { t with desc := { t.desc with ibase := s.x a, shift := s.x b } }) ∧
      (1 ≤ i.toNat → i.toNat ≤ 4 → Falls (exec (.scfg d a b i) s) (s.mapStream d fun t => { t with desc := { t.desc with
      count := t.desc.count.setIfInBounds (i.toNat - 1) (s.x a),
        stride := t.desc.stride.setIfInBounds (i.toNat - 1) (s.x b) } }))) ∧
    (s.fBusy [d] = false →
      (desc.valid = true → Falls (exec (.smap d) s)
        ((s.mapStream d fun t => { t with snap := t.desc, pos := 0, mapped := true, seq := s.core.sseq }).mapCore
          fun c => { c with sseq := c.sseq + 1 })) ∧
      (desc.valid = false → ∃ u, exec (.smap d) s =
          .next (raise 0x0C (BitVec.ofNat 32 (4 * 2 ^ 24 + s.core.sseq.toNat)) u) ∧
        (u.stream d).fcode = 4 ∧ (u.stream d).mapped = (s.stream d).mapped ∧ u.core.x = s.core.x) ∧
      Falls (exec (.sunmap d) s) (s.mapStream d fun t => { t with mapped := false })) ∧
    Falls (exec (.sstat a d 1) s) (s.setX a (BitVec.ofNat 32 (s.stream d).pos)) ∧
    Falls (exec (.sstat a d 2) s) (s.setX a (s.stream d).faddr) ∧
    Falls (exec (.sstat a 0 3) s) (s.setX a s.core.siter) ∧
    ((∀ w ∈ body, bodyOk s w = true) → k.toNat < seqFree s.core →
      ∃ t, exec (.vloop a b k) s = .next t ∧
        Ends { s.core with pc := s.core.pc + 4 + BitVec.ofNat 32 (4 * (k.toNat + 1)) }
          ((s.mapCore fun c => { c with
            sseq := c.sseq + 1
            stepCmd := if c.csr.sdbg.getLsbD 0 = true ∧ c.csr.sdbg.getLsbD 1 = true then some (3, c.sseq) else c.stepCmd
            seqs := if s.x b = 0 then c.seqs
              else c.seqs ++ [⟨body, (s.x b).toNat, 0, s.frm, s.fz, c.sseq,
                c.mode == .user && !c.csr.ustatus.getLsbD 2⟩] }).setX a (s.core.sseq.setWidth 32)) t) ∧
    (∀ w, body.find? (fun w => !bodyOk s w) = some w → exec (.vloop a b k) s = .next (raise 2 w s)) ∧
    (s.core.seqs = [] → Falls (exec .vwait s) s) ∧
    (s.core.seqs ≠ [] → exec .vwait s = .next (s.mapCore fun c => { c with stalled := true }))

/-- R202, R204, R206, R321: the oldest pushed loop, once the core's own earlier requests to bytes of its elements are performed, in which streams act where it was pushed by the point, runs to its end on the captured modes and merges its flags; a fault stops it with the iterations
done in SITER, discards every pushed loop, and is reported with cause 0x0C, its code and the loop's sequence number. -/
def Obligations.VectorLoops : Prop :=
  ∀ (s : State) (q : SeqEntry) (rest : List SeqEntry), s.entered = false → s.quartz.fatal = false → s.core.seqs = q :: rest →
    let held : Prop := ∃ o ∈ s.core.ni.slots.toList, requestMeets s o (loopSpans s q true) = true
    let pushed : State := s.mapCore fun c => { c with
      mode := .user, csr := { c.csr with ustatus := setBit c.csr.ustatus 2 (!q.streams) } }
    (held → exec .vectorLoopComplete s = .next s) ∧
    (∀ (u : State) (fl : Flags), ¬held → loopRun q q.left q.done 0 pushed = .done u fl →
      exec .vectorLoopComplete s = .next (State.addFlags (u.mapCore fun c => { c with
        seqs := rest, mode := s.core.mode, csr := { c.csr with ustatus := s.core.csr.ustatus } }) fl)) ∧
    (∀ (e : SFault) (u : State) (fl : Flags) (n : Nat), ¬held → loopRun q q.left q.done 0 pushed = .fault e u fl n →
      ∃ t, exec .vectorLoopComplete s = .next t ∧ t.core.seqs = [] ∧ t.core.siter = BitVec.ofNat 32 n ∧
        t.core.reports = u.core.reports ++ [⟨0x0C, BitVec.ofNat 32 (e.code * 2 ^ 24 + q.seq.toNat), none, some q.seq⟩] ∧
        t.core.mode = s.core.mode ∧ t.core.csr.ustatus = s.core.csr.ustatus ∧ t.core.sp = u.core.sp ∧
        t.core.f = u.core.f ∧ t.core.x = u.core.x)

/-! ## The envelope unit (R263 to R276) -/

/-- R264 (slopes and membership): the canonical form of any candidates holds candidates only, in strictly rising order of slope, and the
value of an envelope at a number is the greatest of its lines.
R264: the canonical lines have the greatest value of all the candidates everywhere on the domain, and none is redundant: each of them is,
somewhere on the domain, greater than all the others. A number is n/m in raw Q16.16; a domain that is one infinite point holds no number. -/
def Obligations.EnvelopeForm : Prop :=
  (∀ (cand : List EnvLine) (lo hi : Word), rising (canonical cand lo hi) = true ∧
    (∀ l ∈ canonical cand lo hi, l ∈ cand) ∧ (¬ hi.slt lo → cand.length = 1 → canonical cand lo hi = cand)) ∧
  (∀ (l : List EnvLine) (x : Int), l ≠ [] →
    (∃ e ∈ l, topValue l x = e.s.toInt * x + e.c.toInt * 65536) ∧
    (∀ e ∈ l, e.s.toInt * x + e.c.toInt * 65536 ≤ topValue l x)) ∧
  (∀ (cand : List EnvLine) (lo hi : Word), lo ≠ 0x7FFFFFFF → hi ≠ 0x80000000 → lo.toInt ≤ hi.toInt →
    let value (e : EnvLine) (n m : Int) : Int := e.s.toInt * n + e.c.toInt * 65536 * m
    let inside (n m : Int) : Prop := 0 < m ∧ (lo = 0x80000000 ∨ lo.toInt * m ≤ n) ∧ (hi = 0x7FFFFFFF ∨ n ≤ hi.toInt * m)
    (∀ n m, inside n m → ∀ e ∈ cand, ∃ k ∈ canonical cand lo hi, value e n m ≤ value k n m) ∧
    ∀ k ∈ canonical cand lo hi, ∃ n m, inside n m ∧ ∀ e ∈ canonical cand lo hi, e ≠ k → value e n m < value k n m)

/-- R268, R269, R271 to R274: the envelope instructions where the canonical result fits ECTL.ecap: the destination takes the domain and the
canonical lines, ESTAT takes its sticky bits, and the x registers of ECNT, EDOM and EEVAL take theirs. EINS adds a line after those that
are there, EMAX joins both operands on the intersection of their domains, ESHF shifts every line exactly, EDOM.CLIP cuts the domain whatever the
capacity.
The candidates of ESUM, ECNJ and EICV are those of `envSum`, `conjugate` and `envConvolve`. An envelope operand is the low three bits of its
field; an x operand is any register. -/
def Obligations.EnvelopeInstructions : Prop :=
  ∀ (s : State) (d a b : Reg), s.kind ≠ .memory →
    let e := s.core.env[d.toNat % 8]
    let ea := s.core.env[a.toNat % 8]
    let eb := s.core.env[b.toNat % 8]
    let cap := s.core.csr.ectl.toNat % 256
    let put (x : Envelope) (inex : Bool) : State := s.mapCore fun c => { c with
      env := c.env.setIfInBounds (d.toNat % 8) x
      csr := { c.csr with estat := c.csr.estat ||| BitVec.ofNat 32 ((if x.lines = [] then 4 else 0) + inex.toNat) } }
    let canon (lo hi : Word) (l : List EnvLine) : Envelope := ⟨lo, hi, canonical l lo hi⟩
    let lo := if ea.lo.toInt < eb.lo.toInt then eb.lo else ea.lo
    let hi := if eb.hi.toInt < ea.hi.toInt then eb.hi else ea.hi
    Falls (exec (.eclr d) s) (put ⟨0x80000000, 0x7FFFFFFF, []⟩ false) ∧
    Falls (exec (.ecnt d a) s) (s.setX d (BitVec.ofNat 32 ea.lines.length)) ∧
    Falls (exec (.edomLo d a) s) (s.setX d ea.lo) ∧ Falls (exec (.edomHi d a) s) (s.setX d ea.hi) ∧
    (∀ r : Envelope, r = canon e.lo e.hi (e.lines ++ [⟨s.x a, s.x (pairHi a), (s.x b).truncate 16⟩]) →
      r.lines.length ≤ cap → Falls (exec (.eins d a b) s) (put r false)) ∧
    (∀ r : Envelope, lo.toInt ≤ hi.toInt → r = canon lo hi (ea.lines ++ eb.lines) → r.lines.length ≤ cap →
      Falls (exec (.emax d a b) s) (put r false)) ∧
    (hi.toInt < lo.toInt → s.core.csr.ectl.getLsbD 8 = true →
      Falls (exec (.emax d a b) s) (put ⟨0x80000000, 0x7FFFFFFF, []⟩ false)) ∧
    (hi.toInt < lo.toInt → s.core.csr.ectl.getLsbD 8 = false →
      exec (.emax d a b) s = .next (raise 0x11 (BitVec.ofNat 32 (4 * 32 + d.toNat % 8)) s)) ∧
    (∀ (r : Envelope) (i : Bool), envSum ea eb = .ok (r, i) → r.canon.lines.length ≤ cap →
      Falls (exec (.esum d a b) s) (put r.canon i)) ∧
    (∀ (r : Envelope) (i : Bool), envConvolve ea eb = .ok (r, i) → r.canon.lines.length ≤ cap →
      Falls (exec (.eicv d a b) s) (put r.canon i)) ∧
    (∀ (r : Envelope) (i : Bool), conjugate ea = .ok (r, i) → r.canon.lines.length ≤ cap →
      Falls (exec (.ecnj d a) s) (put r.canon i)) ∧
    (∀ q : BitVec 2, inDomain ea (s.x b) = true →
      let v := topValue ea.lines (s.x b).toInt
      (q = 0 → Falls (exec (.eeval d a b q) s) (s.setX d (BitVec.ofInt 32 (v / 2 ^ 32)))) ∧
      (q = 1 → Falls (exec (.eeval d a b q) s) (s.setX d (BitVec.ofInt 32 v))) ∧
      (∀ w, q = 2 → winner ((s.x b).toInt, 1) ea.lines = some w →
        Falls (exec (.eeval d a b q) s) (s.setX d (w.tag.setWidth 32)))) ∧
    (∀ q : BitVec 2, inDomain ea (s.x b) = false →
      exec (.eeval d a b q) s = .next (raise 0x11 (BitVec.ofNat 32 (8 * 32 + a.toNat % 8)) s)) ∧
    ((∀ l ∈ e.lines, -(2 ^ 31) ≤ l.s.toInt + (s.x a).toInt ∧ l.s.toInt + (s.x a).toInt < 2 ^ 31 ∧
        -(2 ^ 31) ≤ l.c.toInt + (s.x b).toInt ∧ l.c.toInt + (s.x b).toInt < 2 ^ 31) →
      Falls (exec (.eshf d a b) s) (put { e with lines := e.lines.map fun l => ⟨l.s + s.x a, l.c + s.x b, l.tag⟩ } false)) ∧
    (∀ r : Envelope, s.x a ≠ 0x7FFFFFFF → s.x b ≠ 0x80000000 →
      let lo := if e.lo.toInt < (s.x a).toInt then s.x a else e.lo
      let hi := if (s.x b).toInt < e.hi.toInt then s.x b else e.hi
      lo.toInt ≤ hi.toInt → r = canon lo hi e.lines →
      Falls (exec (.edomClip d a b) s) (put r false))

/-- R266, R270, R276: EST writes the memory image of an envelope to W0 once every byte of it passes its checks; ELD reads a valid one
back in canonical form, and raises cause 0x11 for an invalid header. -/
def Obligations.EnvelopeImages : Prop :=
  ∀ (s : State) (d a : Reg), s.kind ≠ .memory → d.toNat < 8 →
    let e := s.core.env[d.toNat % 8]
    let p := (s.x a).toNat
    let image := bytesOf 4 e.lo.toNat ++ bytesOf 4 e.hi.toNat ++ bytesOf 4 e.lines.length ++ bytesOf 4 0 ++
      (e.lines.map fun l => bytesOf 4 l.s.toNat ++ bytesOf 4 l.c.toNat ++ bytesOf 4 l.tag.toNat).flatten
    p % 4 = 0 →
    (s.paired = false → p + image.length ≤ 0x40000 → checkAccess s p ⟨image.length, true, false⟩ = none →
      Falls (exec (.est d a) s) (s.w0Put p image)) ∧
    (∀ (n : Nat) (l : List EnvLine), headerOk s.core p = true → n = (s.core.w0Word (p + 8)).toNat →
      p + 16 + 12 * n ≤ 0x40000 → checkAccess s p ⟨16, false, false⟩ = none →
      checkAccess s p ⟨16 + 12 * n, false, false⟩ = none → imageLines s.core p n = some l →
      let r := Envelope.canon ⟨s.core.w0Word p, s.core.w0Word (p + 4), l⟩
      r.lines.length ≤ s.core.csr.ectl.toNat % 256 →
      Falls (exec (.eld d a) s) (s.mapCore fun c => { c with
        env := c.env.setIfInBounds d.toNat r
        csr := { c.csr with estat := c.csr.estat ||| (if r.lines = [] then 4 else 0) } })) ∧
    (headerOk s.core p = false → p + 16 ≤ 0x40000 → checkAccess s p ⟨16, false, false⟩ = none →
      exec (.eld d a) s = .next (raise 0x11 (BitVec.ofNat 32 (2 * 32 + d.toNat)) s))

/-! ## The copy engine and handles (R228 to R238) -/

/-- R186, R213, R228, R229, R237: the copy instructions. CCFG writes one item of the descriptor. CCOPY and CGATH queue a command with the
descriptor captured and answer its sequence number where an entry and the range locks are free and the core's earlier requests in the
command's scope are answered (its own scratchpad, for a command without a far operand; R362), and wait otherwise: with two commands queued,
with too few range locks free, or with such a request unanswered. CWAIT waits until the queue is empty. The signature of a pair is left to
R168. -/
def Obligations.CopyIssue : Prop :=
  ∀ (s : State) (d a b : Reg) (n h c : Bool) (m : BitVec 2), s.paired = false →
    let item (f : CopyDesc → CopyDesc) : State := s.mapCore fun c => { c with cp := { c.cp with desc := f c.cp.desc } }
    let left := if (c || (h && m == 2)) then BitVec.ofNat 32 (a.toNat % 8) else s.x a
    let right := if (h && m == 0) then BitVec.ofNat 32 (b.toNat % 8) else s.x b
    let queued (i : Instr) (x y : Word) : Prop :=
      let rs := copyRanges s.core.cp.desc (copyOps i s.core.cp.desc.far x y)
      (s.core.cp.queue.length < 2 → s.compute = false ∨ rs.length ≤ s.core.freeLocks →
        settledFor s (copyScope i) = true →
        ∃ u : State, Falls (exec i s) (u.setX d (s.core.cp.next.setWidth 32)) ∧
          u.core.cp.queue = s.core.cp.queue ++
            [⟨wordOf i, x, y, s.core.cp.next, n, s.core.cp.desc, 0, false, none, s.core.mode == .user⟩] ∧
          u.core.cp.next = s.core.cp.next + 1 ∧ u.core.cp.desc = s.core.cp.desc ∧ u.core.x = s.core.x ∧
          u.core.sp = s.core.sp ∧ u.core.mx = s.core.mx) ∧
      (2 ≤ s.core.cp.queue.length ∨ (s.compute = true ∧ s.core.freeLocks < rs.length) ∨ settledFor s (copyScope i) = false →
        exec i s = .next (s.mapCore fun c => { c with stalled := true }))
    Falls (exec (.ccfg a b 0) s) (item fun e => { e with rowlen := s.x a, counts := s.x b }) ∧
    Falls (exec (.ccfg a b 1) s) (item fun e => { e with sstr1 := s.x a, sstr2 := s.x b }) ∧
    Falls (exec (.ccfg a b 2) s) (item fun e => { e with dstr1 := s.x a, dstr2 := s.x b }) ∧
    Falls (exec (.ccfg a b 3) s) (item fun e => { e with far := s.x b ++ s.x a }) ∧
    queued (.ccopy d a b n h c m) left right ∧
    queued (.cgath d a b n h c) (if h then BitVec.ofNat 32 (a.toNat % 8) else s.x a) (s.x b) ∧
    (s.core.cp.queue = [] → Falls (exec .cwait s) s) ∧
    (s.core.cp.queue ≠ [] → reportHeld s = false →
      exec .cwait s = .next (s.mapCore fun c => { c with stalled := true }))

/-- R233, R234, R235, R236, R130: circular buffers. CB.CFG makes a handle with no slot filled, or raises cause 0x0D with code 6 for a
geometry it does not accept; CB.WAITF and CB.WAITE answer the address of the next slot once enough are filled or free, and wait
otherwise; CB.ADVP and CB.ADVC move their side on; an unconfigured handle raises cause 0x0D. CB.RADV asks another core to advance a
handle: it sends its request from the slot it holds and waits, and retires once the acknowledgement has come; a refusal raises
cause 0x0B, and one for lack of an answer is reported later (R284, R292, and the model's reading of them in log 24). At its target the
advance is done and acknowledged. -/
def Obligations.CircularBuffers : Prop :=
  (∀ (s : State) (d a b : Reg),
    let h := s.core.hnd[a.toNat % 8]
    let n := (s.x b).toNat
    let err := raise 0x0D (BitVec.ofNat 32 (6 * 2 ^ 24 + s.core.cp.next.toNat)) s
    let put (k : Nat) (h' : Handle) : State := s.mapCore fun c => { c with hnd := c.hnd.setIfInBounds k h' }
    (∀ h', newHandle s (s.x a) (s.x b) = some h' → s.core.cp.queue = [] → s.core.mx.queue = [] →
      Falls (exec (.cbCfg d a b) s) (put (d.toNat % 8) h') ∧ h'.p = 0 ∧ h'.c = 0 ∧ h'.base = s.x a ∧
      h'.count = (s.x b).toNat % 256 + 1 ∧ h'.size = ((s.x b).toNat / 65536 % 16384 + 1) * 4) ∧
    (newHandle s (s.x a) (s.x b) = none → exec (.cbCfg d a b) s = .next err) ∧
    (h.cfg = true → 0 < n → n ≤ h.count →
      (n ≤ h.filled → Falls (exec (.cbWaitf d a b) s)
        (s.setX d (h.base + BitVec.ofNat 32 (h.c % h.count * h.size)))) ∧
      (h.filled < n → exec (.cbWaitf d a b) s = .next (s.mapCore fun c => { c with stalled := true })) ∧
      (n ≤ h.count - h.filled → Falls (exec (.cbWaite d a b) s)
        (s.setX d (h.base + BitVec.ofNat 32 (h.p % h.count * h.size)))) ∧
      (h.count - h.filled < n → exec (.cbWaite d a b) s = .next (s.mapCore fun c => { c with stalled := true }))) ∧
    (h.cfg = true → 0 < h.count → s.core.cp.queue = [] → s.core.mx.queue = [] → released s 3 = true →
      (n ≤ h.count - h.filled →
        Falls (exec (.cbAdvp a b) s) (put (a.toNat % 8) { h with p := (h.p + n) % (2 * h.count) })) ∧
      (n ≤ h.filled → Falls (exec (.cbAdvc a b) s) (put (a.toNat % 8) { h with c := (h.c + n) % (2 * h.count) }))) ∧
    (h.cfg = true → n = 0 ∨ h.count < n → exec (.cbWaitf d a b) s = .next err ∧ exec (.cbWaite d a b) s = .next err) ∧
    (h.cfg = false → exec (.cbWaitf d a b) s = .next err ∧ exec (.cbWaite d a b) s = .next err ∧
      exec (.cbAdvp a b) s = .next err ∧ exec (.cbAdvc a b) s = .next err)) ∧
  ∀ (s : State) (a b : Reg) (i : Nat) (sl : Slot), s.pairFollower = false → (s.x a).toNat < 2 ^ 25 →
    (slotOf s .radv = some (i, sl) →
      let u := s.mapNi fun n => { n with slots := n.slots.setIfInBounds i none, order := n.order.filter (· != i) }
      (sl.reply = some .ack → Falls (exec (.cbRadv a b) s) u) ∧
      (sl.reply = none → exec (.cbRadv a b) s = .next (s.mapCore fun c => { c with stalled := true })) ∧
      (sl.reply = some (.nack 3) → Falls (exec (.cbRadv a b) s)
        (u.mapCore fun c => { c with refusals := c.refusals ++ [BitVec.ofNat 32 (3 * 2 ^ 28 + i % 32)] })) ∧
      (∀ e, e ≠ 3 → sl.reply = some (.nack e) →
        exec (.cbRadv a b) s = .next (raise 0x0B (BitVec.ofNat 32 (e.toNat * 2 ^ 28 + i % 32)) u))) ∧
    (slotOf s .radv = none → released s (max 2 (scopeOf s ((s.x a).truncate 21))) = true → s.core.ni.ownSlot = some i → i < 32 →
      s.reachable ((s.x a).truncate 21) = true →
      ∃ t, exec (.cbRadv a b) s = .next t ∧ t.core.stalled = true ∧ t.core.pc = s.core.pc ∧
        t.core.ni.slot i = some ⟨.radv, ⟨s.core.id, (s.x a).truncate 21, s.core.tenant, BitVec.ofNat 5 i,
          .radv ((s.x a).extractLsb' 21 3) ((s.x a).getLsbD 24) (s.x b)⟩, none, true⟩) ∧
    (∀ (p : Packet) (h : BitVec 3) (side : Bool) (n : Word) (k : Word),
      let g := s.core.hnd[h.toNat]
      p.tenant = s.core.tenant → launchOfSource s p.src = some k → s.unit.launch = some k → g.cfg = true →
      s.core.cp.queue = [] → s.core.mx.queue = [] → n.toNat ≤ (if side then g.filled else g.count - g.filled) →
      takeAdvance p h side n s = some ((mapHandle h.toNat (fun g => g.advance side n.toNat) s).answer p .ack))

/-- R186, R231, R232, R235: the engine. A command that may start starts with the verdict of its checks; one that completes moves its
rows in order, leaves the queue and is the last done, once the pieces that it sent to another package have been accepted there (a refused
one ends it with the code of its row); a fault ends it with a report of cause 0x0D, its code and sequence number,
discards the later commands and frees the engine's locks; a row that waits keeps its place. One row between two places of W0 copies the
source's bytes. -/
def Obligations.CopyEngine : Prop :=
  ∀ (s : State) (q : CCmd) (rest : List CCmd), s.entered = false → s.quartz.fatal = false → s.core.cp.queue = q :: rest →
    let faulted (o : Result) (u : State) (code row : Nat) : Prop := ∃ t, o = .next t ∧ t.core.cp.queue = [] ∧
      t.core.cp.done = q.seq ∧ t.core.cp.fault = BitVec.ofNat 32 (code * 2 ^ 24 + row % 65536 * 2 ^ 8) ∧
      t.core.reports = u.core.reports ++ [⟨0x0D, BitVec.ofNat 32 (code * 2 ^ 24 + q.seq.toNat), none, some q.seq⟩] ∧
      (∀ l, some l ∈ t.core.locks.toList → l.engine ≠ 1) ∧ t.core.sp = u.core.sp ∧ t.core.x = u.core.x
    (copyMayStart s = true → exec .copyCommandStart s = .next (s.mapCore fun c => { c with
      cp := { c.cp with queue := { q with started := true, verdict := copyVerdict s q } :: rest } })) ∧
    (q.started = true →
      (∀ c, q.verdict = some c → faulted (exec .copyCommandComplete s) s c.toNat 0) ∧
      (∀ i src dst idx, q.verdict = none → decode q.word = .ok i → checkCopy s q i = .ok (src, dst, idx) →
        let rows := (List.range (q.desc.n1 * q.desc.n2)).drop q.next
        let sent (u : State) (x : Away) : Prop := x.plan = none ∧ x.src = u.core.id
        (∀ u, moveRows q.user q.desc src dst idx rows s = .done u → (∃ x ∈ u.away, sent u x) →
          (∀ x ∈ u.away, sent u x → x.ended = none) → exec .copyCommandComplete s = .next (u.mapCore fun c => { c with
            cp := { c.cp with queue := { q with next := q.desc.n1 * q.desc.n2 } :: rest } })) ∧
        (∀ u x c, moveRows q.user q.desc src dst idx rows s = .done u → u.paired = false → x ∈ u.away → sent u x →
          x.ended = some (.code c) → c ≠ 4 → (∀ y ∈ u.away, sent u y → y.ended ≠ none → y = x ∨ x.row < y.row) →
          faulted (exec .copyCommandComplete s) u c x.row) ∧
        (∀ u, moveRows q.user q.desc src dst idx rows s = .done u → (∀ x ∈ u.away, ¬sent u x) →
          u.paired = false ∨ dst ≠ none →
          ∃ t, exec .copyCommandComplete s = .next t ∧ t.core.cp.queue = u.core.cp.queue.tail ∧ t.core.cp.done = q.seq ∧
            t.core.sp = u.core.sp ∧ t.hbm = u.hbm ∧ t.core.x = u.core.x ∧ t.core.reports = u.core.reports) ∧
        (∀ c r u, moveRows q.user q.desc src dst idx rows s = .fault c r u → faulted (exec .copyCommandComplete s) u c r) ∧
        (∀ r u, moveRows q.user q.desc src dst idx rows s = .waits r u →
          exec .copyCommandComplete s = .next (u.mapCore fun c => { c with
            cp := { c.cp with queue := { q with next := r } :: rest } }))) ∧
      (∀ r : BitVec 16, s.paired = false → s.pairFollower = false → faulted (exec (.copyPieceTimeout r) s) s 7 r.toNat)) ∧
    (∀ r : BitVec 16, s.pairFollower = true → exec (.copyPieceTimeout r) s = .next s) ∧
    (∀ (e : CopyDesc) (x y : Nat) (user : Bool), e.counts = 0 → x + e.b ≤ 0x40000 → y < 0x40000 → s.core.supFrame x e.b = false →
      moveRows user e (some x) (some y) none [0] s = .done (s.w0Put y (s.core.w0Bytes x e.b)))

/-! ## The matrix engine (R84 to R92, R209 to R227) -/

/-- R213, R214, R220, R223, R224: the matrix instructions. A queued form enters the local queue with its operands where an entry and the
range locks are free and the core's earlier requests to its own memories are answered (R362), answers its sequence number in rd and takes
the next; with two local commands in the queue, too few range locks free, or such a request unanswered it waits. MWAIT waits until the commands accepted before it was issued have left the queue. MSTAT reads the status word that its selector names, and selector 3 then clears MFLAGS. MCMD sends its block
under the capability in X[rs1] and answers the target's sequence number; one whose slot timed out retires and is reported later (R284,
R292, and the model's reading of them in log 24). The signature of a pair is left to R168. -/
def Obligations.MatrixInstructions : Prop :=
  ∀ (s : State) (d a b : Reg) (n j z : Bool), s.kind = .compute → s.paired = false → s.pairFollower = false →
    let m := s.core.mx
    let mark := if s.core.stalled then s.core.waitMark else m.next
    let queued (i : Instr) (x y : Word) : Prop :=
      let rs := matrixRanges s i x y
      (m.used false < 2 → rs.length ≤ s.core.freeLocks → settledFor s 0 = true → s.core.stalled = false ∨ m.lastRemote = true →
        ∃ u : State, Falls (exec i s) (u.setX d (m.next.setWidth 32)) ∧
          u.core.mx = { m with queue := m.queue ++ [⟨wordOf i, x, y, m.next, n, false, 0, false, none⟩], next := m.next + 1, lastRemote := false } ∧
          u.core.x = s.core.x ∧ u.core.f = s.core.f ∧ u.core.sp = s.core.sp ∧ u.core.cp = s.core.cp) ∧
      (2 ≤ m.used false ∨ s.core.freeLocks < rs.length ∨ settledFor s 0 = false → exec i s = .next (s.mapCore fun c => { c with stalled := true }))
    queued (.mcfgStr d a b n) (s.x a) (s.x b) ∧ queued (.mcfgScl d a b n) (s.x a) (s.x b) ∧
    queued (.mldw d a b n) (s.x a) (s.x b) ∧ queued (.mswap d n) 0 0 ∧ queued (.mstrm d a b n) (s.x a) (s.x b) ∧
    queued (.mstrmH d a b n) (BitVec.ofNat 32 (a.toNat % 8)) (s.x b) ∧ queued (.mdrn d a b n j z) (s.x a) (s.x b) ∧
    queued (.mzero d b n) 0 (s.x b) ∧
    ((∀ q ∈ m.queue, 4 ≤ (mark - 1 - q.seq).toNat) → Falls (exec .mwait s) s) ∧
    (∀ q ∈ m.queue, (mark - 1 - q.seq).toNat < 4 → reportHeld s = false →
      exec .mwait s = .next (s.mapCore fun c => { c with waitMark := mark, stalled := true })) ∧
    Falls (exec (.mstat d 0) s) (s.setX d (BitVec.ofNat 32 ((m.queue.any fun q => q.started).toNat * 2 ^ 31 + m.used false * 2 ^ 29 +
      m.used true * 2 ^ 27 + m.active.fmt.toNat * 2 ^ 24 + m.shadow.fmt.toNat * 2 ^ 21))) ∧
    Falls (exec (.mstat d 1) s) (s.setX d (BitVec.ofNat 32 (m.next.toNat * 65536 + m.done.toNat))) ∧
    Falls (exec (.mstat d 2) s) (s.setX d (BitVec.ofNat 32 m.flags.toNat)) ∧
    Falls (exec (.mstat d 3) s)
      ((s.mapCore fun c => { c with mx := { c.mx with flags := 0 } }).setX d (BitVec.ofNat 32 m.flags.toNat)) ∧
    Falls (exec (.mstat d 4) s) (s.setX d m.fault) ∧
    (checkBlock s (s.x b).toNat = none →
      let body := (s.xp a).lo
      let target : BitVec 21 := BitVec.ofNat 21 (body.toNat / 2 ^ 26 * 2 ^ 15 + body.toNat / 2 ^ 12 % 2 ^ 14)
      let w (k : Nat) : Word := s.core.w0Word ((s.x b).toNat + k)
      (∀ i sl, slotOf s .mcmd = some (i, sl) →
        let u := s.mapNi fun n => { n with slots := n.slots.setIfInBounds i none, order := n.order.filter (· != i) }
        (∀ v, sl.reply = some (.data v) → Falls (exec (.mcmd d a b) s) (u.setX d v.lo)) ∧
        (sl.reply = none → exec (.mcmd d a b) s = .next (s.mapCore fun c => { c with stalled := true })) ∧
        (sl.reply = some (.nack 3) → Falls (exec (.mcmd d a b) s)
          (u.mapCore fun c => { c with refusals := c.refusals ++ [BitVec.ofNat 32 (3 * 2 ^ 28 + i % 32)] })) ∧
        (∀ e, e ≠ 3 → sl.reply = some (.nack e) →
          exec (.mcmd d a b) s = .next (raise 0x0B (BitVec.ofNat 32 (e.toNat * 2 ^ 28 + i % 32)) u))) ∧
      (∀ i, slotOf s .mcmd = none → released s 2 = true → s.core.ni.ownSlot = some i → i < 32 → s.reachable target = true →
        ∃ t, exec (.mcmd d a b) s = .next t ∧ t.core.stalled = true ∧ t.core.pc = s.core.pc ∧ t.core.x = s.core.x ∧
          t.core.ni.slot i = some ⟨.mcmd, ⟨s.core.id, target, s.core.tenant, BitVec.ofNat 5 i,
            .mcmd (s.xp a) (w 0) (w 4) (w 8)⟩, none, true⟩))

/-- R85, R86: the reconstruction. An integer from -536870400 to 536870399, kept as its residues modulo 1023, 1024, 1025 and 127, comes
back exactly, whatever K-block count stands beside them; a changed check residue is found; and a dot product added to a word adds to every
residue and counts one K-block. -/
def Obligations.TrimodReconstruction : Prop :=
  (∀ (v : Int) (k q : Nat), -536870400 ≤ v → v ≤ 536870399 → k < 1024 → q < 127 →
    crt (trimod k q (v % 1025).toNat (v % 1024).toNat (v % 1023).toNat) = if (q : Int) = v % 127 then some v else none) ∧
  (∀ (k q p r n : Nat) (e : Int), k + 1 < 1024 → q < 127 → p < 1025 → r < 1024 → n < 1023 →
    addTrimod (trimod k q p r n) e =
      trimod (k + 1) ((q + e) % 127).toNat ((p + e) % 1025).toNat ((r + e) % 1024).toNat ((n + e) % 1023).toNat)

/-- R214, R216, R217, R219, R220, R221: the engine's steps. A head command whose locks conflict with no earlier command starts with the
verdict of its checks. A started command without a fault completes: it leaves the queue, its number is the last done, and MCFG writes the
strides or scale addresses, MSWAP exchanges the planes, MZERO and MDRN with `.z` empty the named rows and no other, and MLDW loads the
shadow plane from its rows. A residue mismatch in the middle of an MSTRM (the model draws it as a free value, log 20) ends it with code 1 and
the array row, and the rows from there on stay. A fault ends it with a report of cause 0x0E and discards the later commands. A remote command with its right
and room enters the remote queue and answers its sequence number; without the right it is refused with subcode 4. -/
def Obligations.MatrixEngine : Prop :=
  (∀ (s : State) (q : MCmd) (rest : List MCmd), s.entered = false → s.quartz.fatal = false → s.core.mx.queue = q :: rest →
    let m := s.core.mx
    let completes (P : Matrix → Prop) : Prop := ∃ t, exec .matrixCommandComplete s = .next t ∧ t.core.mx.queue = rest ∧
      t.core.mx.done = q.seq ∧ t.core.mx.next = m.next ∧ t.core.x = s.core.x ∧ P t.core.mx
    let emptied (first n : Nat) (m' : Matrix) : Prop :=
      ∀ r, r < 128 → m'.row r = if (r + 128 - first) % 128 < n then none else m.row r
    (q.started = false → s.core.lockWaits 0 q.seq = false →
      (∀ d a b n, decode q.word = .ok (.mstrmH d a b n) →
        (handleOf s (q.opa.toNat % 8)).cfg = false ∨ 0 < (handleOf s (q.opa.toNat % 8)).filled) →
      exec .matrixCommandStart s = .next (s.mapCore fun c => { c with mx := { c.mx with
        queue := { q with started := true, verdict := (checkMatrix s q).map fun f => BitVec.ofNat 8 f.code } :: rest } })) ∧
    (q.started = true → q.verdict = none →
      (∀ d a b n, decode q.word = .ok (.mcfgStr d a b n) →
        completes fun m' => m' = { m with astr := q.opa, dstr := q.opb, queue := rest, done := q.seq }) ∧
      (∀ d a b n, decode q.word = .ok (.mcfgScl d a b n) →
        completes fun m' => m' = { m with rscl := q.opa, cscl := q.opb, queue := rest, done := q.seq }) ∧
      (∀ d n, decode q.word = .ok (.mswap d n) →
        completes fun m' => m' = { m with active := m.shadow, shadow := m.active, queue := rest, done := q.seq }) ∧
      (∀ d b n first k, decode q.word = .ok (.mzero d b n) → rowsOf q.opb = some (first, k) →
        completes fun m' => emptied first k m') ∧
      (∀ d a b n k, decode q.word = .ok (.mldw d a b n) → checkMldw s q.opa q.opb = .ok k →
        let rows := (List.range 32).map fun r => readRow s.core k (q.opa + BitVec.ofNat 32 r * q.opb).toNat
        completes fun m' => m'.active = m.active ∧ m'.acc = m.acc ∧ m'.shadow.fmt = BitVec.ofNat 3 k ∧
          (k ≠ 1 ∧ k ≠ 2 → m'.shadow.rows = rows) ∧
          (k = 1 ∨ k = 2 → ∀ j, j < 32 → planeCol m'.shadow j = (alignSeg k (rows.map fun r => (r[j]?).getD 0)).2)) ∧
      (∀ d a b n int zero dr, decode q.word = .ok (.mdrn d a b n int zero) → checkMdrn s q.opa q.opb int q.next = .ok dr →
        completes fun m' => m'.active = m.active ∧ m'.shadow = m.shadow ∧
          if zero then emptied dr.first dr.count m' else m'.acc = m.acc) ∧
      (∀ d a b n ks first, decode q.word = .ok (.mstrm d a b n) → checkMstrm s q.opa q.opb none q.next = .ok (ks, first) →
        (arrayFault q s = none → completes fun m' => m'.active = m.active ∧ m'.shadow = m.shadow ∧
          ∀ r, r < 128 → ks.length ≤ (r + 128 - first) % 128 → m'.row r = m.row r) ∧
        (∀ j row, arrayFault q s = some (j, row) → ∃ t, exec .matrixCommandComplete s = .next t ∧ t.core.mx.queue = [] ∧
          t.core.mx.done = q.seq ∧ t.core.mx.fault.toNat / 2 ^ 24 = 1 ∧ t.core.mx.fault.toNat / 2 ^ 18 % 64 = row ∧
          t.core.reports = s.core.reports ++ [⟨0x0E, BitVec.ofNat 32 (2 ^ 24 + q.seq.toNat), none, some q.seq⟩] ∧
          ∀ r, r < 128 → j ≤ (r + 128 - first) % 128 → t.core.mx.row r = m.row r))) ∧
    (q.started = true → ∀ v, q.verdict = some v → ∃ t, exec .matrixCommandComplete s = .next t ∧ t.core.mx.queue = [] ∧
      t.core.mx.done = q.seq ∧ t.core.mx.next = m.next ∧ t.core.mx.acc = m.acc ∧ t.core.mx.shadow = m.shadow ∧
      (∀ f, checkMatrix s q = some f →
        t.core.mx.fault = BitVec.ofNat 32 (f.code * 2 ^ 24 + f.arow * 2 ^ 18 + f.accrow * 2 ^ 11 + f.col * 2 ^ 6) ∧
        t.core.reports = s.core.reports ++ [⟨0x0E, BitVec.ofNat 32 (f.code * 2 ^ 24 + q.seq.toNat), none, some q.seq⟩]))) ∧
  (∀ (s : State) (p : Packet) (cap : DWord) (w x y : Word) (i : Instr) (right : Nat) (n : Bool),
    remoteRight w = some (i, right, n) →
    (capHolds s p cap right = false → takeRemote p cap w x y s = some (s.answer p (.nack 4))) ∧
    (capHolds s p cap right = true → matrixRoom s true (matrixRanges s i (remoteOpa i x) y) = true →
      localTurn s = false →
      ∃ u : State, takeRemote p cap w x y s = some (u.answer p (.data (s.core.mx.next.setWidth 64))) ∧
        u.core.mx.queue = s.core.mx.queue ++ [⟨w, remoteOpa i x, y, s.core.mx.next, n, true, 0, false, none⟩] ∧
        u.core.mx.next = s.core.mx.next + 1)) ∧
  (∀ w : Word, remoteRight w = none → ∀ (s : State) (p : Packet) (cap : DWord) (x y : Word),
    takeRemote p cap w x y s = some (s.answer p (.nack 1)))

/-! ## Predicted transfers (R243 to R262) -/

/-- R246, R248 to R252, R254: the predicted-transfer instructions. PCFG writes an item of the descriptor. PFETCH past its checks fills the
slot with the captured descriptor and sends its lookup; a check that fails raises cause 0x0F with its code. PFETCH and CONFIRM wait for the
earlier requests of the core, as the other engines' commands do (`predReady`; R329, read as log 6 says). CONFIRM of a decided slot
trains the predictor and starts the exposure (a true fetch from another package makes the phase unreplayable, R408, code 4); CANCEL frees a decided slot; PWAIT frees an exposed one, and waits for one that exposes;
PREAD and PTRAIN read and write as their rows say. In a pair these are the leader's instructions. -/
def Obligations.PredictorInstructions : Prop :=
  ∀ (s : State) (d a b : Reg) (n : Bool), s.kind = .compute → s.paired = false → s.pairFollower = false →
    d.toNat < 8 →
    let q := s.core.slots[d.toNat % 8]
    let c := s.core.pdesc
    let waits (i : Instr) : Prop := exec i s = .next (s.mapCore fun c => { c with stalled := true })
    let error (i : Instr) (code : Nat) (seq : BitVec 16) : Prop :=
      exec i s = .next (raise 0x0F (BitVec.ofNat 32 (code * 2 ^ 24 + seq.toNat)) s)
    let put (f : PredSlot) (u : State) : State := u.mapCore fun c => { c with slots := c.slots.setIfInBounds d.toNat f }
    let train (f : List PredEntry → List PredEntry) : State := s.mapUnit fun u => { u with pred := f u.pred }
    Falls (exec (.pcfg a b false) s) (s.mapCore fun c => { c with pdesc := { c.pdesc with base := s.x b ++ s.x a } }) ∧
    Falls (exec (.pcfg a b true) s) (s.mapCore fun c => { c with
      pdesc := { c.pdesc with stride := (s.x a).toNat % 2 ^ 16, len := (s.x b).toNat % 16 } }) ∧
    (q.state ≠ .free → error (.pfetch d a b) 1 s.core.pseq) ∧
    (q.state = .free → c.len = 0 ∨ 8 < c.len ∨ c.stride = 0 ∨ c.base.toNat % 4096 ≠ 0 ∨ faRegion c.base ≠ 0 →
      error (.pfetch d a b) 2 s.core.pseq) ∧
    (q.state = .free → 0 < c.len → c.len ≤ 8 → c.stride ≠ 0 → c.base.toNat % 4096 = 0 → faRegion c.base = 0 →
      let e := (s.x b).toNat
      (e % 4096 ≠ 0 ∨ s.core.jbase < e / 4096 + c.len → error (.pfetch d a b) 3 s.core.pseq) ∧
      (e % 4096 = 0 → e / 4096 + c.len ≤ s.core.jbase →
        (s.core.freeLocks = 0 ∨ predReady s = false → waits (.pfetch d a b)) ∧
        (0 < s.core.freeLocks → predReady s = true → ∃ t, Falls (exec (.pfetch d a b) s) t ∧
          t.core.pseq = s.core.pseq + 1 ∧ t.core.x = s.core.x ∧ t.core.sp = s.core.sp ∧
          t.unit.predq = s.unit.predq ++ [.lookup s.core.id (BitVec.ofNat 3 d.toNat)] ∧
          ∀ z, t.core.slots[d.toNat]? = some z → z.state = .deciding ∧ z.key = s.x a ∧ z.base = c.base ∧ z.stride = c.stride ∧
            z.len = c.len ∧ z.dframe = e / 4096 ∧ z.seq = s.core.pseq ∧ z.frames = []))) ∧
    (q.state = .predicted ∨ q.state = .deferred →
      let v := (s.x a).toNat
      (v < 65536 → predReady s = false → waits (.confirm d a n)) ∧
      (v < 65536 → predReady s = true →
        let hit := q.state == .predicted && q.pidx == (s.x a).truncate 16
        let r : PredSlot := { q with hit := hit, state := .exposing, tidx := (s.x a).truncate 16, notice := n }
        Falls (exec (.confirm d a n) s) ((put (if hit && !q.drop then r else { r with frames := [], filled := false, held := none })
          ((if hit && !q.drop then s else notePeer (peerEndpoint q.base) s).mapUnit fun u =>
            { u with predq := u.predq ++ [.train q.key ((s.x a).truncate 16)] })).mapCore fun c => { c with
            stepCmd := if c.csr.sdbg.getLsbD 0 = true ∧ c.csr.sdbg.getLsbD 1 = true
              then some (2, BitVec.ofNat 16 d.toNat) else c.stepCmd })) ∧
      (65536 ≤ v → error (.confirm d a n) 4 q.seq) ∧
      (∃ u, Falls (exec (.cancel d) s) u ∧ u.core.slots = s.core.slots.setIfInBounds d.toNat .reset ∧ u.unit.pred = s.unit.pred ∧
        ((∀ p : BitVec 3, .lookup s.core.id p ∉ s.unit.predq) → u.unit = s.unit) ∧ u.core.sp = s.core.sp) ∧ error (.pwait d) 1 q.seq) ∧
    (q.state = .free → Falls (exec (.cancel d) s) s ∧ Falls (exec (.pwait d) s) s ∧ error (.confirm d a n) 1 q.seq) ∧
    (q.state = .deciding → waits (.confirm d a n) ∧ waits (.cancel d) ∧ waits (.pwait d)) ∧
    (q.state = .exposing → s.core.reports = [] → waits (.pwait d)) ∧
    (q.state = .exposed → ∃ u, Falls (exec (.pwait d) s) u ∧ u.core.slots = s.core.slots.setIfInBounds d.toNat .reset ∧
      (∀ l, some l ∈ u.core.locks.toList → l.engine = 2 → l.owner.toNat ≠ d.toNat)) ∧
    (q.state = .exposing ∨ q.state = .exposed → error (.cancel d) 1 q.seq ∧ error (.confirm d a n) 1 q.seq) ∧
    (q.state ≠ .deciding → Falls (exec (.pread b d false) s) (s.setX b (slotStat q)) ∧
      Falls (exec (.pread b d true) s) (s.setX b (q.seq ++ q.pidx))) ∧
    (s.unit.predq = [] →
      Falls (exec (.preadEnt b a) s) (s.setX b (match predFind s.unit.pred (s.x a) with
        | none => 0
        | some e => BitVec.ofNat 32 (2 ^ 31 + e.conf * 2 ^ 16 + e.idx.toNat))) ∧
      Falls (exec (.ptrainSet a b) s)
        (train fun l => predStore l (s.x a) ((s.x b).truncate 16) ((s.x b).toNat / 2 ^ 16 % 8)) ∧
      Falls (exec (.ptrainInv a) s)
        (train fun l => l.filter fun e => !(e.set == (s.x a).toNat % 256 && e.tag.toNat == (s.x a).toNat / 256)))

/-- R243, R244, R249, R250, R254 to R256: the predictor's and the slots' events, for a core that is not of a pair. The oldest request of the
cluster unit is served: a lookup makes its slot predicted when the entry is confident, the launch speculates and the pool has room, else
deferred; a training update changes the entry as its table says. A confirmed hit that is filled is exposed by exchanging frames; a held
fault, a true fetch that fails (5 for poison, 6 for a refusal; cause 0x15 for a translation fault that is not replayable) and a true fetch
that times out raise their causes at a later boundary; a speculative read that is served fills the quarantine, one that is dropped marks
its slot, or is answered without data where it came from another package, and none is served while a true request waits at its channels (R361). -/
def Obligations.TransferEvents : Prop :=
  (∀ (s : State) (k : Word) (t : BitVec 16) (rest : List PredReq), s.unit.predq = .train k t :: rest →
    exec .trainingUpdate s = .next (s.mapUnit fun u => { u with predq := rest, pred := predTrain u.pred k t })) ∧
  (∀ (l : List PredEntry) (k : Word) (t : BitVec 16), predTrain l k t = match predFind l k with
    | none => predStore l k t 1
    | some e => if e.idx = t then predStore l k t (min (e.conf + 1) 7)
      else if 2 ≤ e.conf then predStore l k e.idx (e.conf - 2) else predStore l k t 1) ∧
  (∀ (s : State) (p : BitVec 3) (rest : List PredReq), s.paired = false → s.pairFollower = false →
    s.unit.predq = .lookup s.core.id p :: rest →
    let q := s.core.slots[p.toNat]
    q.state = .deciding → ∃ t, exec .predictorLookup s = .next t ∧ t.unit.predq = rest ∧ t.unit.pred = s.unit.pred ∧
      t.core.slots = s.core.slots.setIfInBounds p.toNat (match predFind s.unit.pred q.key with
        | none => { q with tab := false, conf := 0, state := .deferred }
        | some e => if q.thresh ≤ e.conf ∧ q.specOk = true ∧ q.len ≤ (poolFree s.core).length
          then { q with tab := true, conf := e.conf, state := .predicted, pidx := e.idx, frames := (poolFree s.core).take q.len }
          else { q with tab := true, conf := e.conf, state := .deferred })) ∧
  (∀ (s : State) (p : BitVec 3), s.entered = false → s.quartz.fatal = false → s.paired = false → s.pairFollower = false →
    let q := s.core.slots[p.toNat]
    let reported (i : Instr) (u : State) (cause : Nat) (v : Word) : Prop := ∃ t, exec i s = .next t ∧
      t.core.reports = u.core.reports ++ [⟨cause, v, some p, some q.seq⟩] ∧ t.core.sp = u.core.sp ∧ t.core.remap = u.core.remap ∧
      ∀ z, t.core.slots[p.toNat]? = some z → z.frames = [] ∧ z.filled = false
    let code (k : Nat) : Word := BitVec.ofNat 32 (k * 2 ^ 24 + q.seq.toNat)
    (specPending s p.toNat = true → specHeld s (q.source q.pidx) q.bytes = true →
      exec (.speculativeFetchComplete p) s = .next s) ∧
    (specPending s p.toNat = true → specHeld s (q.source q.pidx) q.bytes = false →
      (∀ l, specRead s q.base (q.source q.pidx) q.bytes = .data l → ∃ t, exec (.speculativeFetchComplete p) s = .next t ∧
        t.core.x = s.core.x ∧ t.core.remap = s.core.remap ∧ t.core.pool = s.core.pool ∧ t.hbm = s.hbm ∧
        t.core.slots = s.core.slots.setIfInBounds p.toNat { q with filled := true }) ∧
      (∀ c, specRead s q.base (q.source q.pidx) q.bytes = .held c → exec (.speculativeFetchComplete p) s =
        .next (s.mapCore fun k => { k with slots := k.slots.setIfInBounds p.toNat { q with held := some c } }))) ∧
    (specPending s p.toNat = true →
      exec (.speculativeRequestDrop p) s = .next (s.mapCore fun k => { k with
        slots := k.slots.setIfInBounds p.toNat { q with drop := true, frames := if q.state = .exposing then [] else q.frames } })) ∧
    (specPending s p.toNat = false → ∀ r, s.fabric.find? isSpec = some r →
      exec (.speculativeRequestDrop p) s = .next (State.answer { s with fabric := removeFirst isSpec s.fabric } r .ack)) ∧
    (exposable s p.toNat = true → q.hit = true → q.drop = false →
      (∀ c, q.held = some c → reported (.exposureSwap p) s 0x0F (code c)) ∧
      (∀ j, q.held = none → q.filled = true → q.len = 1 → q.frames = [j] → q.dframe < 64 → j < 8 →
        ∃ t, exec (.exposureSwap p) s = .next t ∧ t.core.sp = s.core.sp ∧
          t.core.remap = s.core.remap.setIfInBounds q.dframe ((s.core.pool[j]?).getD 0) ∧
          t.core.pool = s.core.pool.setIfInBounds j ((s.core.remap[q.dframe]?).getD 0) ∧
          t.core.slots = s.core.slots.setIfInBounds p.toNat { q with state := .exposed, frames := [], filled := false } ∧
          ∀ w ∈ t.core.empty, w < q.dframe * 1024 ∨ (q.dframe + 1) * 1024 ≤ w)) ∧
    (trueDue s p.toNat = true → reported (.trueFetchTimeout p) s 0x0F (code 7) ∧
      (∀ c u, farRead (p.toNat + 1) q.base (q.source q.tidx) q.bytes s = .error (.code c u) → u.core.slots = s.core.slots →
        u.paired = false → reported (.trueFetchComplete p) u 0x0F (code (if c = 4 then 5 else 6))) ∧
      (∀ va u, farRead (p.toNat + 1) q.base (q.source q.tidx) q.bytes s = .error (.xlate va u) → u.core.slots = s.core.slots →
        u.paired = false → reported (.trueFetchComplete p) u 0x15 (BitVec.ofNat 32 (va / 512))) ∧
      (∀ l u, farRead (p.toNat + 1) q.base (q.source q.tidx) q.bytes s = .ok (l, u) → u.core = s.core →
        ∃ t, exec (.trueFetchComplete p) s = .next t ∧ t.core.sp = (u.w0Put (q.dframe * 4096) l).core.sp ∧
          t.core.slots = s.core.slots.setIfInBounds p.toNat { q with state := .exposed, frames := [], filled := false })))

/-! ## Leases and lanes (R365, R366, R384 to R398) -/

/-- R394 to R396, then R384 to R393: the LEASE group and the lease unit. LEASE past its checks takes a slot, opens the lowest free ticket
with its next generation, claims its bundles and answers its word; LREL drops the highest bundles or the whole ticket; LQRY answers the status
word and clears rev, or holds its slot while it waits; LFLOOR of the physical function writes a floor; the checks raise cause 0x14 with their
code. The events: a request is refused or its bundles chosen, granted, drained and freed; a floor, a peer that leaves and a bring-up change
the bundles; a flit lands on a lit lane, ends its packet or is asked for again; a lane is lost, and what was under way on it is sent again; the lane
that leaves fewer than 56 retires its bundle, once.
The model's choices (log 18) are that the request that LEASE sends is a packet of 3 flits, and that the entry and generation of the ticket
that another package's request comes from are free values; the
millisecond in which R390 counts resends is one of the cycles of log 7; and how the answer of a piece sent to another package ends its row
is log 12's. -/
def Obligations.BandwidthLeases : Prop :=
  (∀ (s : State) (d a b : Reg) (w : Bool) (slot : Nat), s.kind ≠ .memory → s.pairFollower = false → s.core.ni.ownSlot = some slot →
    let r := s.reserve none
    let t := s.core.tenant
    let p := (s.x a).toNat
    let n := (s.x b).toNat
    let known := p < 64 ∧ p ≠ s.pkg ∧ s.lease.domain.getLsbD p = true
    let claimed := (((s.lease.tickets.filter fun k => k.tenant == t).map fun k =>
      if k.pend then k.req else k.granted.length).foldl (· + ·) 0)
    let error (i : Instr) (code : Word) : Prop := exec i s = .next (raise 0x14 code r)
    (¬known → error (.lease d a b w) 1) ∧
    (known → (n = 0 ∨ 256 < n → error (.lease d a b w) 2) ∧
      (0 < n → n ≤ 256 → budgetOf s t < claimed + n → error (.lease d a b w) 3) ∧
      (0 < n → n ≤ 256 → claimed + n ≤ budgetOf s t → freeEntry s t = none → error (.lease d a b w) 4) ∧
      (∀ i, 0 < n → n ≤ 256 → claimed + n ≤ budgetOf s t → freeEntry s t = some i →
        let g : BitVec 8 := ((assocGet s.lease.gens (t.toNat * 64 + i)).getD 0) + 1
        ∃ u : State, Falls (exec (.lease d a b w) s) (u.setX d (BitVec.ofNat 32 (p * 2 ^ 26 + g.toNat * 2 ^ 8 + i))) ∧ u.core = r.core ∧
          (∃ m lane, u.lease.tickets =
              s.lease.tickets ++ [⟨t, BitVec.ofNat 6 i, g, BitVec.ofNat 6 p, n, [], true, false, false, 0, m⟩] ∧
            u.lightOut = s.lightOut ++
              [⟨⟨leaseUnitOf s.pkg, leaseUnitOf p, t, 0, .leaseReq (BitVec.ofNat 6 i) g n w m⟩, lane, 3⟩]))) ∧
    (heldTicket s t (s.x a) = none → error (.lrel a b) 5 ∧ error (.lqry d a w) 5) ∧
    (∀ k, heldTicket s t (s.x a) = some k →
      let g := sortBundles k.granted
      let mine (q : Ticket) : Bool := q.tenant == k.tenant && q.idx == k.idx
      (k.granted.length < n ∨ k.pend = true → error (.lrel a b) 7) ∧
      (n ≤ k.granted.length → k.pend = false → ∃ u : State, Falls (exec (.lrel a b) s) u ∧ u.core = r.core ∧
        u.lease.tickets = if n = 0 then s.lease.tickets.filter fun q => !mine q
          else updateFirst mine (fun q => { q with granted := g.take (g.length - n) }) s.lease.tickets) ∧
      (w = false ∨ k.pend = false → ∃ u : State, Falls (exec (.lqry d a w) s) (u.setX d (BitVec.ofNat 32 (k.pend.toNat * 2 ^ 31 +
          k.refused.toNat * 2 ^ 30 + k.rev.toNat * 2 ^ 29 + k.req * 2 ^ 20 + k.reason.toNat * 2 ^ 17 + k.granted.length))) ∧
        u.core = r.core ∧ u.lease.tickets = updateFirst mine (fun q => { q with rev := false }) s.lease.tickets) ∧
      (w = true → k.pend = true → exec (.lqry d a w) s = .next (waiting (s.reserve (some slot))))) ∧
    (s.core.mode = .user → exec (.lfloor a b) s = .next (raise 2 (wordOf (.lfloor a b)) s)) ∧
    (s.core.mode = .supervisor → (¬known → error (.lfloor a b) 1) ∧
      (known → 256 < n ∨ 256 < floorSum s - floorOf s p + n → error (.lfloor a b) 6) ∧
      (known → n ≤ 256 → floorSum s - floorOf s p + n ≤ 256 →
        (t ≠ 0 → error (.lfloor a b) 8) ∧
        (t = 0 → Falls (exec (.lfloor a b) s) { r with lease := { s.lease with floors := assocSet s.lease.floors p n } })))) ∧
  (∀ (s : State) (a : BitVec 6) (t : BitVec 5) (n : BitVec 9) (all : Bool) (m : BitVec 256),
    (64 ≤ s.lease.pending.length → ∃ e g, exec (.leaseRequest a t n all m) s = .next (sendLease a.toNat t (.leaseAns e g [] 4) s.draw)) ∧
    (s.lease.pending = [] → s.lease.serving = none →
      (ingressOf s a.toNat t = none →
        ∃ e g, exec (.leaseRequest a t n all m) s = .next (sendLease a.toNat t (.leaseAns e g [] 1) s.draw)) ∧
      (∀ l, ingressOf s a.toNat t = some l →
        let room := budgetOf s l - grantedTo s.lease l
        let got := (chooseBundles m a.toNat (min n.toNat room) s.lease []).2
        (room = 0 → ∃ e g, exec (.leaseRequest a t n all m) s = .next (sendLease a.toNat t (.leaseAns e g [] 2) s.draw)) ∧
        (0 < room → all = true → got.length < n.toNat →
          ∃ e g, exec (.leaseRequest a t n all m) s = .next (sendLease a.toNat t (.leaseAns e g [] 3) s.draw)) ∧
        (0 < room → all = false ∨ n.toNat ≤ got.length → ∃ (r : State) (e : BitVec 6) (g : BitVec 8),
          exec (.leaseRequest a t n all m) s = .next r ∧
          r.lease.serving = some ⟨⟨a, t, e, g, n.toNat, all, m⟩, l, got⟩ ∧ r.core = s.core)))) ∧
  (∀ (s : State) (v : Serving), s.fabric.find? isLeaseAnswer = none → s.lease.serving = some v → s.lease.pending = [] →
    ∃ t : State, exec .leaseGrant s = .next t ∧ t.lease.serving = none ∧
      (∀ b ∈ v.got, (bundleAt s.lease b).state ≠ 4 → (bundleAt t.lease b).state = 2 ∧
        (bundleAt t.lease b).peer = v.req.peer ∧ (bundleAt t.lease b).tenant = v.tenant) ∧
      ∀ b, b ∉ v.got ∨ (bundleAt s.lease b).state = 4 → bundleAt t.lease b = bundleAt s.lease b) ∧
  (∀ (s : State) (b : BitVec 8) (t : BitVec 5) (e : BitVec 6),
    let holds := s.lease.tickets.any fun k => k.tenant == t && k.idx == e && k.granted.contains b.toNat
    let whole (x : Flight) : Flight := { x with lane := none, left := flitsOf x.packet.body }
    (holds = false → exec (.revokeNotice t e b) s = .next s) ∧
    (holds = true → ∃ u : State, exec (.revokeNotice t e b) s = .next u ∧ u.core = s.core ∧
      u.lease.tickets = updateFirst (fun k => k.tenant == t && k.idx == e)
        (fun k => { k with granted := k.granted.filter (· != b.toNat), rev := true }) s.lease.tickets ∧
      u.lightOut = s.lightOut.map fun x =>
        if x.lane.map (· / 64) = some b.toNat ∧ x.left = flitsOf x.packet.body then { x with lane := none } else x) ∧
    ((∀ k ∈ s.lease.tickets, b.toNat ∉ k.granted) → (∀ q ∈ s.lease.paths, b.toNat ∉ q.2) → exec (.drainGraceExpiry b) s =
      .next { s with
        lightOut := s.lightOut.map fun x => if x.lane.map (· / 64) = some b.toNat then whole x else x
        lease := { s.lease with pins := s.lease.pins.filter fun q => q.bundle != b.toNat } }) ∧
    let raised := s.lease.raising.any fun q => q.2.contains b.toNat
    let busy := ∃ x ∈ s.lightIn, x.lane.map (· / 64) = some b.toNat
    (raised = false → busy → exec (.leaseRelease b) s = .next s) ∧
    ((bundleAt s.lease b.toNat).state = 3 → chosen s.lease b.toNat = false → raised = true ∨ ¬busy →
      ∃ t : State, exec (.leaseRelease b) s = .next t ∧
        (bundleAt t.lease b.toNat).state = raised.toNat ∧ (∀ x ∈ t.lightIn, x.lane.map (· / 64) ≠ some b.toNat) ∧
        (∀ c, c ≠ b.toNat → bundleAt t.lease c = bundleAt s.lease c) ∧ t.lease.tickets = s.lease.tickets ∧ t.core = s.core)) ∧
  (∀ (s : State) (a : BitVec 6) (n : BitVec 9), floorOf s a.toNat = n.toNat → n.toNat ≤ (baseOf s.lease a.toNat).length →
    ∃ t : State, exec (.floorChange a n) s = .next t ∧ t.core = s.core ∧ t.lease.tickets = s.lease.tickets ∧
      (∀ b ∈ (baseOf s.lease a.toNat).drop n.toNat, (bundleAt t.lease b).state = 3) ∧
      ∀ b ∉ (baseOf s.lease a.toNat).drop n.toNat, bundleAt t.lease b = bundleAt s.lease b) ∧
  (∀ (s : State) (a : BitVec 6), a.toNat ≠ s.pkg → ∃ t : State, exec (.peerLeave a) s = .next t ∧
    t.lease.domain.getLsbD a.toNat = false ∧ (∀ k ∈ t.lease.tickets, k.peer ≠ a) ∧
    (∀ x ∈ t.lease.bundles, x.peer = a → x.state ≠ 1 ∧ x.state ≠ 2) ∧ t.core = s.core) ∧
  (∀ (s : State) (m : BitVec 64), ∃ t : State, exec (.domainBringup m) s = .next t ∧ t.lease.tickets = [] ∧ t.core = s.core ∧
    ∀ p, p < 64 → p ≠ s.pkg → m.getLsbD p = true → floorOf t p = 1 ∧ assocGet t.lease.paths p = some [(p + 64 - s.pkg) % 64] ∧
      (bundleAt t.lease ((s.pkg + 64 - p) % 64)).state = 1 ∧ (bundleAt t.lease ((s.pkg + 64 - p) % 64)).peer.toNat = p) ∧
  (∀ (s : State) (q w : BitVec 7),
    let x := laneAt s.lease q.toNat w.toNat
    let n := 128 * q.toNat + w.toNat
    let recent := s.cycle.toNat :: x.resends.filter fun c => decide (s.cycle.toNat < c + msCycles)
    let more := min (x.landed + 1) 64
    let lane (k : Nat) : LaneSt := { x with landed := k, hold := if 32 < k then true else if k ≤ 16 then false else x.hold }
    (laneLit s.lease n = false → ∀ ok, exec (.linkFlit q w ok) s = .next s) ∧
    (laneLit s.lease n = true →
      (recent.length ≤ 16 → ∃ t : State, exec (.linkFlit q w false) s = .next t ∧
        laneAt t.lease q.toNat w.toNat = { x with resends := recent } ∧
        t.quartz.log = s.quartz.log ++ [(.correctable, 0)] ∧ t.lightIn = s.lightIn) ∧
      (16 < recent.length → ∃ t : State, exec (.linkFlit q w false) s = .next t ∧ n ∈ t.lease.deadRx) ∧
      (nextFlight s n = none → ∃ t : State, exec (.linkFlit q w true) s = .next t ∧ t.lightIn = s.lightIn ∧
        laneAt t.lease q.toNat w.toNat = lane more) ∧
      (∀ f, nextFlight s n = some f →
        (1 < f.left → ∃ t : State, exec (.linkFlit q w true) s = .next t ∧ laneAt t.lease q.toNat w.toNat = lane more ∧
          t.lightIn = updateFirst (· == f) (fun y => { y with lane := some n, left := y.left - 1 }) s.lightIn) ∧
        (f.left ≤ 1 → ∃ t : State, exec (.linkFlit q w true) s = .next t ∧
          ((∀ a r, f.packet.body ≠ .pieceDone a r) → t.lightIn = removeFirst (· == f) s.lightIn) ∧
          (∀ a, f.packet.body = .pieceDone a .ack → f.packet.slot = 0 → ingressOf s (pkgOf f.packet.src) f.packet.tenant ≠ none →
            t.away = removeFirst (fun x => x.src == f.packet.dst && x.addr == a && x.ended.isNone) s.away) ∧
          ∀ fa z l, f.packet.body = .load fa z → ingressOf s (pkgOf f.packet.src) f.packet.tenant = some l →
            t.fabric = s.fabric ++ [{ f.packet with tenant := l }])))) ∧
  (∀ (s : State) (b : BitVec 8) (w : BitVec 6),
    let x := bundleAt s.lease b.toNat
    let n := 64 * b.toNat + w.toNat
    (n ∈ s.lease.deadRx → exec (.laneRetire b w false) s = .next s) ∧
    (n ∉ s.lease.deadRx → ∃ t : State, exec (.laneRetire b w false) s = .next t ∧ n ∈ t.lease.deadRx ∧
      (57 ≤ x.rxlive → bundleAt t.lease b.toNat = { x with rxlive := x.rxlive - 1 } ∧
        t.quartz.log = s.quartz.log ++ [(.correctable, 0)]) ∧
      (x.rxlive ≤ 56 → (bundleAt t.lease b.toNat).state = 4 ∧
        t.quartz.log = s.quartz.log ++ (if x.state = 4 then [(.correctable, 0)] else [(.correctable, 0), (.correctable, 0)]))) ∧
    (n ∈ s.lease.dead → exec (.laneRetire b w true) s = .next s) ∧
    (n ∉ s.lease.dead → ∃ t : State, exec (.laneRetire b w true) s = .next t ∧ n ∈ t.lease.dead ∧
      bundleAt t.lease b.toNat = { x with txlive := x.txlive - 1 } ∧
      (∀ f ∈ t.lightOut, f.lane ≠ some n) ∧
      (x.txlive ≠ 56 → t.lease.tickets = s.lease.tickets ∧ t.lease.paths = s.lease.paths) ∧
      (x.txlive = 56 → (∀ k ∈ t.lease.tickets, b.toNat ∉ k.granted) ∧ ∀ q ∈ t.lease.paths, b.toNat ∉ q.2))) ∧
  (∀ (s : State) (a b : BitVec 21), exec (.flowletGapExpiry a b) s = .next { s with lease := { s.lease with
    pins := s.lease.pins.filter fun q => !(q.relaxed && q.src == a && q.dst == b) } })


/-! ## Instruction boundaries and debug control (R128 to R139, R284, R289, R415) -/

/-- R128, R131 to R137, R139, R284, R289, R406, R411, R415: the events of an instruction boundary. A machine check, a phase abort, a pre-emption and, on a
steward, a waiting escalation enter supervisor mode with their codes; a completion and a message arrival enter the user handler with the
shadow copies switched in; a report and a refusal raise their cause; a debug halt stops the core, or stays pending. DCTL's kill, uret and go
end the halt of a core of the cluster: kill ends the core's launch with a Non-Fatal error on its function, and every core of the gang
abandons its work. A machine check that meets SSTATUS.mcip halts the core, retires it and kills its launch; another one of a compute core
starts the phase abort of a running launch with why = 2, or kills the one that cannot roll back; one of a steward kills the launch and
withdraws the cluster, and one of a memory core makes the device Fatal. The model's choices among these: which
hardware error an unannounced machine check is, and whether it is corrected, is the free value `Config.openWord` (log 20); a debug-halt
request to a halted core is dropped, DCTL.uret needs no handler, and DCTL.go keeps the loop (log 23). -/
def Obligations.BoundaryEvents : Prop :=
  (∀ s : State,
    let supervisor (o : Result) (code val off : Word) : Prop := ∃ t : State, o = .next t ∧ t.core.mode = .supervisor ∧
      t.core.csr.scause = code ∧ t.core.csr.sval = val ∧ t.core.csr.sepc = s.core.pc &&& 0xFFFFFFFC ∧
      t.core.pc = (s.core.csr.stvec &&& 0xFFFFFFFC) + off ∧ t.core.csr.sstatus.getLsbD 0 = false ∧
      t.core.csr.sstatus.getLsbD 1 = s.core.csr.sstatus.getLsbD 0 ∧
      t.core.csr.sstatus.getLsbD 2 = (s.core.mode == .supervisor) ∧
      t.core.x = s.core.x ∧ t.core.f = s.core.f ∧ t.core.sp = s.core.sp ∧ t.core.stalled = false
    let handler (o : Result) (code : Word) : Prop := ∃ t : State, o = .next t ∧ t.core.mode = s.core.mode ∧
      t.core.csr.ucause = code ∧ t.core.csr.uval = 0 ∧ t.core.csr.uepc = s.core.pc &&& 0xFFFFFFFC ∧
      t.core.pc = s.core.csr.utvec &&& 0xFFFFFFFC ∧ t.core.csr.ustatus.getLsbD 0 = false ∧
      t.core.csr.ustatus.getLsbD 1 = s.core.csr.ustatus.getLsbD 0 ∧ t.core.csr.ustatus.getLsbD 2 = true ∧
      t.core.csr.ustatus.getLsbD 3 = true ∧ t.core.f = s.core.f ∧ t.core.sp = s.core.sp ∧
      (∀ r : Fin 26, t.core.x[r.val] = s.core.x[r.val]) ∧
      (∀ r : Fin 6, t.core.x[r.val + 26] = s.core.shadow[r.val] ∧ t.core.shadow[r.val] = s.core.x[r.val + 26])
    (takesEvent 2 s = true → supervisor (exec .phaseAbortInterrupt s) 0x80000004 0 0) ∧
    (takesEvent 3 s = true → supervisor (exec .preEmptionEntry s) 0x80000001 0 0) ∧
    (∀ l rest, takesEvent 4 s = true → escalating s = l :: rest →
      let c := s.coreAt l
      supervisor (exec .stewardEscalationEntry s) (BitVec.ofNat 32 (2 ^ 30 + c.decl.toNat * 2 ^ 29 + l % 16 * 2 ^ 16 +
        (c.decl && c.ecause.getLsbD 31).toNat * 2 ^ 8 + c.ecause.toNat % 256)) c.eval 0) ∧
    (∀ m, s.kind = .compute → s.core.halt = none → s.core.mcheck = some m → s.unit.launch = none →
      (s.core.csr.sstatus.getLsbD 3 = false → supervisor (exec .machineCheck s) 0x80000006 0 0x100) ∧
      (s.core.csr.sstatus.getLsbD 3 = true → ∃ t : State, exec .machineCheck s = .next t ∧ t.core.halt = some 5 ∧
        t.core.dpc = s.core.pc ∧ t.core.x = s.core.x ∧ localOf s.core.id ∈ t.quartz.retired)) ∧
    (∀ m id g, s.kind = .compute → s.core.halt = none → s.core.mcheck = some m → s.unit.launch = some id → s.launch? id = some g →
      (s.core.csr.sstatus.getLsbD 3 = false → g.stage = .running →
        (g.canRollBack = true → supervisor (exec .machineCheck s) 0x80000006 0 0x100 ∧ ∃ t : State, exec .machineCheck s = .next t ∧
          t.launch? id = some { g with stage := .aborting, why := 2 }) ∧
        (g.canRollBack = false → ∃ t : State, exec .machineCheck s = .next t ∧ t.launch? id = none)) ∧
      (s.core.csr.sstatus.getLsbD 3 = true → ∃ t : State, exec .machineCheck s = .next t ∧ t.core.halt = some 5 ∧
        t.core.dpc = s.core.pc ∧ localOf s.core.id ∈ t.quartz.retired ∧ t.launch? id = none)) ∧
    (∀ m, s.core.halt = none → s.core.mcheck = some m → s.core.csr.sstatus.getLsbD 3 = false →
      (s.kind = .steward → supervisor (exec .machineCheck s) 0x80000006 0 0x100 ∧ ∃ t : State, exec .machineCheck s = .next t ∧
        t.unit.withdrawn = true ∧ ∀ id, s.unit.launch = some id → t.launch? id = none) ∧
      (s.kind = .memory → supervisor (exec .machineCheck s) 0x80000006 0 0x100 ∧ ∃ t : State, exec .machineCheck s = .next t ∧
        t.quartz.fatal = true)) ∧
    (s.kind = .compute → s.core.halt = none → s.core.mcheck = none →
      ((Config.openWord s.free).getLsbD 30 = true → ∃ t : State, exec .machineCheck s = .next t ∧ t.core = s.core) ∧
      ((Config.openWord s.free).getLsbD 30 = false → s.core.csr.sstatus.getLsbD 3 = false → s.unit.launch = none →
        supervisor (exec .machineCheck s) 0x80000006 0 0x100)) ∧
    (∀ r rest, takesEvent 5 s = true → s.core.reports = r :: rest → r.slot = none →
      exec .engineFaultReport s = .next (report r.cause r.value (s.mapCore fun c => { c with reports := rest }))) ∧
    (∀ v rest, takesEvent 6 s = true → s.core.refusals = v :: rest →
      exec .refusalReport s = .next (report 0x0B v (s.mapCore fun c => { c with refusals := rest }))) ∧
    (takesEvent 7 s = true → handler (exec .completionInterrupt s) 0x80000002) ∧
    (takesEvent 8 s = true → handler (exec .messageArrivalInterrupt s) 0x80000005) ∧
    (s.core.halt ≠ none → exec .debugHalt s = .next s) ∧
    (s.core.halt = none → ∃ t : State, exec .debugHalt s = .next t ∧ t.core.pc = s.core.pc ∧ t.core.x = s.core.x ∧
      t.core.mode = s.core.mode ∧
      if s.core.csr.sie.getLsbD 3 = true ∧ s.core.stalled = false ∧ s.core.mcheck = none then t.core.halt = some 3 ∧ t.core.dpc = s.core.pc ∧ t.core.csr.sip.getLsbD 3 = false
      else t.core.halt = none ∧ t.core.csr.sip.getLsbD 3 = true)) ∧
  (∀ (s : State) (c : BitVec 4) (w : BitVec 3),
    let l := 16 * s.unit.id + c.toNat
    let k := s.coreAt l
    s.unit.id < 1024 → localOf k.id = l → k.halt = some w →
    (∃ t : State, exec (.dctlGo c) s = .next t ∧
      t.coreAt l = { k with halt := none, escWaits := false, pc := k.dpc &&& 0xFFFFFFFC }) ∧
    (∃ t : State, exec (.dctlUret c) s = .next t ∧ (t.coreAt l).halt = none ∧ (t.coreAt l).escWaits = false ∧
      (t.coreAt l).pc = k.csr.uepc &&& 0xFFFFFFFC ∧ (t.coreAt l).mode = k.mode ∧ (t.coreAt l).sp = k.sp ∧
      (t.coreAt l).csr.ustatus.getLsbD 2 = false ∧
      (t.coreAt l).csr.ustatus.getLsbD 0 = k.csr.ustatus.getLsbD 1) ∧
    (∀ id g, s.unit.launch = some id → s.launch? id = some g → g.stage ≠ .saved → ∃ t : State, exec (.dctlKill c) s = .next t ∧
      t.launch? id = none ∧ (t.queue g.fn.toNat g.queue.toNat).kill = true ∧
      t.quartz.log = s.quartz.log ++ [(.nonFatal, BitVec.ofNat 5 g.fn.toNat)] ∧
      (∀ k ∈ g.gang, (t.unitAt k).launch = none ∧ (t.unitAt k).key = none) ∧
      (s.placed → (∀ k ∈ g.gang, k < 1024) → ∀ m ∈ g.members, (t.coreAt m).halt = none ∧ (t.coreAt m).point = none ∧
        (t.coreAt m).mx.queue = [] ∧ (t.coreAt m).cp.queue = [] ∧ (t.coreAt m).seqs = [] ∧ (t.coreAt m).sp = (s.coreAt m).sp)) ∧
    (s.unit.launch = none → ∃ t : State, exec (.dctlKill c) s = .next t ∧ (t.coreAt l).halt = none ∧
      (t.coreAt l).point = none ∧ (t.coreAt l).mx.queue = [] ∧ (t.coreAt l).cp.queue = [] ∧ (t.coreAt l).sp = k.sp ∧
      (t.coreAt l).x = if k.csr.ustatus.getLsbD 3 then (swapShadow k).x else k.x))

/-! ## Phases and recovery (R160 to R163, R242, R353 to R356, R407 to R411) -/

/-- R160, R162, R242, R354, R356, R408 to R411: the events of a launch. The plan's entries of a kind run once in a phase, and a fault among
them kills the launch. A closure of a finished phase moves the frontier's start heights on, counts the phase and resets the tries; a closed
launch without a signal completes: it frees its clusters, counts its successors down and is gone. The watchdog asks the steward; its answer,
or none in time, rolls back or kills. A rollback starts the phase again from its journals, unless the phase became unreplayable. A launch
with rel completes once its requests are performed at system scope, and a closure waits until what the plan sent to other packages has been
accepted there. While the device runs no launch (Fatal, R404; locked or not yet provisioned, R426) none of these steps does anything. -/
def Obligations.PhaseEvents : Prop :=
  (∀ (s : State) (l : Word), launchesRun s = false →
    ∀ i ∈ ([.movementPlanLoad l, .movementPlanStore l, .phaseClosure l, .launchCompletion l, .phaseRollback l, .phaseWatchdogExpiry,
        .precActTimeout, .precActRollback, .precActKill] : List Instr), exec i s = .next s) ∧
  (∀ (s : State) (l : Word) (g : Launch), launchesRun s = true → s.launch? l = some g → g.stage = .running →
    (∀ t, g.loaded = false → runPlan g 0 (2 ^ 36) g.plan s = .ok t →
      exec (.movementPlanLoad l) s = .next (t.mapLaunch g.id fun g => { g with loaded := true })) ∧
    (∀ t, g.loaded = false → runPlan g 0 (2 ^ 36) g.plan s = .error (.ends t) →
      exec (.movementPlanLoad l) s = .next (t.kill g.id)) ∧
    (workDone s g = true → g.stored = false →
      (∀ t, runPlan g 1 (2 ^ 36) g.plan s = .ok t →
        exec (.movementPlanStore l) s = .next (t.mapLaunch g.id fun g => { g with stored := true })) ∧
      (∀ t, runPlan g 1 (2 ^ 36) g.plan s = .error (.waits t) → exec (.movementPlanStore l) s = .next t)) ∧
    (planAway s l = true → exec (.phaseClosure l) s = .next s) ∧
    (workDone s g = true → g.stored = true → planAway s l = false → ∃ t : State, exec (.phaseClosure l) s = .next t ∧
      ∃ g' : Launch, t.launch? l = some g' ∧ g'.phase = g.phase + 1 ∧ g'.tries = 0 ∧ g'.ureason = 0 ∧ g'.pkt = g.pkt ∧
        g'.lines = g.lines.map (fun e => { e with hs := e.h, hold := false }) ∧
        g'.stage = (if g.finished then .closed else .running) ∧ ∀ e ∈ t.sliceJrn, e.launch ≠ g.id) ∧
    (workDone s g = false → exec (.phaseClosure l) s = .next s)) ∧
  (∀ (s : State) (l : Word) (g : Launch), launchesRun s = true → s.launch? l = some g → g.stage = .closed → g.pkt.sig = 0 →
    let visible := g.members.all fun m => released (s.focus m) 3
    (g.pkt.rel = true → visible = false → exec (.launchCompletion l) s = .next s) ∧
    (g.pkt.rel = false ∨ visible = true → ∃ t : State, exec (.launchCompletion l) s = .next t ∧ t.launch? l = none ∧
      (∀ k ∈ g.gang, (t.unitAt k).launch = none ∧ (t.unitAt k).key = none) ∧
      (∀ c, g.pkt.succ = [c] → 0 < (s.fn g.fn.toNat).counter c →
        (t.fn g.fn.toNat).counter c = (s.fn g.fn.toNat).counter c - 1))) ∧
  (∀ (s : State) (g : Launch), launchesRun s = true → s.launch = some g →
    (g.stage = .running → watchLimit s.unit ≤ s.unit.elapsed → gangWaits s g = false →
      ∃ t : State, exec .phaseWatchdogExpiry s = .next t ∧ t.launch? g.id = some { g with stage := .awaitAct, why := 1 } ∧
        ∀ k ∈ g.gang, (t.unitAt k).why = 1) ∧
    (g.stage = .awaitAct →
      (∃ t : State, exec .precActTimeout s = .next t ∧ t.launch? g.id = none) ∧
      (g.canRollBack = true → ∃ t : State, exec .precActRollback s = .next t ∧
        t.launch? g.id = some { g with stage := .aborting, why := 1 }) ∧
      (g.canRollBack = false → ∃ t : State, exec .precActRollback s = .next t ∧ t.launch? g.id = none)) ∧
    (g.stage = .running → g.canRollBack = true → ∃ t : State, exec .precActRollback s = .next t ∧
      t.launch? g.id = some { g with stage := .aborting, why := 4 }) ∧
    (g.stage ≠ .aborting → ∃ t : State, exec .precActKill s = .next t ∧ t.launch? g.id = none) ∧
    (g.stage = .aborting → exec .precActKill s = .next s ∧ exec .precActRollback s = .next s)) ∧
  (∀ (s : State) (l : Word) (g : Launch), launchesRun s = true → s.launch? l = some g → g.stage = .aborting → g.preempt = false →
    g.members.all (abortStopped s) = true →
    (g.canRollBack = false → ∃ t : State, exec (.phaseRollback l) s = .next t ∧ t.launch? l = none) ∧
    (g.canRollBack = true → ∃ t : State, exec (.phaseRollback l) s = .next t ∧
      ∃ g' : Launch, t.launch? l = some g' ∧ g'.stage = .running ∧ g'.phase = g.phase ∧ g'.tries = g.tries + 1 ∧
        g'.lines = g.lines.map (fun e => { e with h := e.hs, hold := false }) ∧
        (∀ h ∈ t.commit, h.launch ≠ g.id) ∧ (∀ e ∈ t.sliceJrn, e.launch ≠ g.id) ∧
        (s.placed → (∀ k ∈ g.gang, k < 1024) → ∀ m ∈ g.members, (t.coreAt m).point = none ∧
          (t.coreAt m).sp = ((s.coreAt m).jrn.lines.foldl restoreLine (s.coreAt m)).sp ∧
          (t.coreAt m).hnd = (s.coreAt m).jrn.hnd ∧ (t.coreAt m).jrn.lines = [] ∧ (t.coreAt m).mx.queue = [])))

/-! ## Requests on the fabric (R24, R279 to R294, R299, R308, R309, R314, R369, R370) -/

/-- R24, R185, R225, R236, R279, R284 to R286, R290, R292, R293, R299, R303, R309, R314, R361, R365, R369, R370: the requests that a target
serves, each the oldest of its kind that may be served, and what comes back. A packet that is served leaves the fabric (`takeOff`), and at a
home slice a ninth request of its source then enters the queue. A load answers the bytes of the core, a store writes them, and one
that the target does not admit is refused; a piece of an engine of another package reads or writes at a core, or is translated and acts
at its home slice. An atomic is translated, forwarded, performed at its home slice and answered with the old
value. A message goes into the ring; a take, a ttake and a put act on the word at the core in focus; a signal adds to its line. A reply
reaches its slot, a refusal for a retry sends the request again, and a slot whose time is up is refused with subcode 3. That a slot of the LEASE group that waits for
an answer that its lease unit cannot give is a device Fatal error is the model's choice (log 18). -/
def Obligations.FabricRequests : Prop :=
  ∀ (s : State) (p : Packet),
    let u : State := takeOff p s
    let l := localOf p.dst
    let own := localOf p.dst = localOf s.core.id
    (l < 0x5000 ∨ 0x5300 ≤ l ∨ pkgOf p.src ≠ s.pkg ∨ (s.fabric.filter fun q => q.src == p.src && q.dst == p.dst).length ≤ 8 →
      p ∈ s.fabric → u = { s with fabric := removeFirst (· == p) s.fabric }) ∧
    (∀ a z, nextPacket s isLoad = some p → p.body = .load a z → l < 0x4000 →
      (0 < z → faLocal a + z ≤ 0x40000 → (s.unitAt (l / 16)).owner = p.tenant →
        (s.coreAt l).supFrame (faLocal a) z = false → (s.coreAt l).lockHit (faLocal a) z false = false →
        exec .remoteLoadRequest s = .next (u.answer p (.data (BitVec.ofNat 64 ((s.coreAt l).w0Read (faLocal a) z))))) ∧
      ((s.unitAt (l / 16)).owner ≠ p.tenant → exec .remoteLoadRequest s = .next (u.answer p (.nack 1)))) ∧
    (∀ a z v, nextPacket s isStore = some p → p.body = .store a z v → l < 0x4000 →
      (0 < z → faLocal a + z ≤ 0x40000 → (s.unitAt (l / 16)).owner = p.tenant →
        (s.coreAt l).supFrame (faLocal a) z = false → (s.coreAt l).lockHit (faLocal a) z true = false →
        exec .remoteStoreRequest s =
          .next ((u.at l fun t => noteIncoming p.src (t.w0Write (faLocal a) z v.toNat)).answer p .ack)) ∧
      ((s.unitAt (l / 16)).owner ≠ p.tenant → exec .remoteStoreRequest s = .next (u.answer p (.nack 1)))) ∧
    (∀ a n, nextPacket s isLoad = some p → p.body = .read a n → l < 0x4000 → faLocal a + n ≤ 0x40000 →
      (s.unitAt (l / 16)).owner = p.tenant → (s.coreAt l).supFrame (faLocal a) n = false →
      (s.coreAt l).lockHit (faLocal a) n false = false → exec .remoteLoadRequest s = .next (u.send
        ⟨p.dst, p.src, p.tenant, p.slot, .pieceData ((s.coreAt l).w0Bytes (faLocal a) n)⟩)) ∧
    (∀ a bs, nextPacket s isStore = some p → p.body = .write a bs → l < 0x4000 → faLocal a + bs.length ≤ 0x40000 →
      (s.unitAt (l / 16)).owner = p.tenant → (s.coreAt l).supFrame (faLocal a) bs.length = false →
      (s.coreAt l).lockHit (faLocal a) bs.length true = false → exec .remoteStoreRequest s =
        .next ((u.at l fun t => noteIncoming p.src (t.w0Put (faLocal a) bs)).answer p .ack)) ∧
    (∀ via va pa n, nextPacket s isLoad = some p → p.body = .readPhys via va pa n → (s.block (pa / 64)).poison = false →
      s.errAt (pa / 64) = .clean → exec .remoteLoadRequest s = .next (u.send
        ⟨p.dst, p.src, p.tenant, p.slot, .pieceData (readBlock p.tenant pa n s)⟩)) ∧
    (∀ via va pa bs, nextPacket s isStore = some p → p.body = .writePhys via va pa bs → (s.block (pa / 64)).poison = false →
      s.errAt (pa / 64) = .clean → exec .remoteStoreRequest s =
        .next ((writeBlock p.tenant pa bs u).answer p .ack)) ∧
    (∀ op sys a v cmp, nextPacket s (fun q => isVirtual q && canTranslate s q) = some p → p.body = .amo op sys a v cmp →
      (atcFind s (atcUnit l) p.tenant.toNat (faVirtual a) = none →
        exec .memoryCoreRequest s = .next { u with walks := u.walks ++ [⟨atcUnit l, p⟩] }) ∧
      (∀ e, atcFind s (atcUnit l) p.tenant.toNat (faVirtual a) = some e → e.w = true → forwardRoom u p.dst = true →
        let pa := e.pa + faVirtual a % 2 ^ e.bits
        exec .memoryCoreRequest s = .next (u.send { p with
          dst := s.endpoint (0x5000 + sliceOf pa), body := .amoPhys p.dst op sys (faVirtual a) pa v cmp }))) ∧
    (∀ a n e, nextPacket s (fun q => isVirtual q && canTranslate s q) = some p → p.body = .read a n →
      atcFind s (atcUnit l) p.tenant.toNat (faVirtual a) = some e → forwardRoom u p.dst = true →
      let pa := e.pa + faVirtual a % 2 ^ e.bits
      exec .memoryCoreRequest s = .next (u.send { p with
        dst := s.endpoint (0x5000 + sliceOf pa), body := .readPhys p.dst (faVirtual a) pa n })) ∧
    (∀ a bs e, nextPacket s (fun q => isVirtual q && canTranslate s q) = some p → p.body = .write a bs →
      atcFind s (atcUnit l) p.tenant.toNat (faVirtual a) = some e → e.w = true → forwardRoom u p.dst = true →
      let pa := e.pa + faVirtual a % 2 ^ e.bits
      exec .memoryCoreRequest s = .next (u.send { p with
        dst := s.endpoint (0x5000 + sliceOf pa), body := .writePhys p.dst (faVirtual a) pa bs })) ∧
    (∀ w op sys a v cmp pa sp b, s.walks = [w] → (∀ k, s.errAt k = .clean) → w.packet.body = .amo op sys a v cmp →
      walk { s with walks := [] } w.packet.tenant.toNat (faVirtual a) = .leaf pa true sp b → forwardRoom s w.packet.dst = true →
      ∃ t : State, exec .pageWalkComplete s = .next t ∧ t.walks = [] ∧ t.core = s.core ∧
        (pkgOf (s.endpoint (0x5000 + sliceOf pa)) = s.pkg → t.fabric = s.fabric ++
          [{ w.packet with dst := s.endpoint (0x5000 + sliceOf pa)
                           body := .amoPhys w.packet.dst op sys (faVirtual a) pa v cmp }])) ∧
    (∀ via op sys va pa v cmp, nextPacket s isReadyAmo = some p → p.body = .amoPhys via op sys va pa v cmp → launchOfSource s p.src = none →
      s.sliceJrn = [] → (s.block (pa / 64)).poison = false → s.errAt (pa / 64) = .clean →
      let old : Word := BitVec.ofNat 32 (natOfBytes (readBlock p.tenant pa 4 s))
      exec .atomicRequest s = .next ((if (amoNew op old v cmp).2
        then writeBlock p.tenant pa (bytesOf 4 (amoNew op old v cmp).1.toNat) u else u).answer p (.data (old.setWidth 64)))) ∧
    (∀ h bs m t, nextPacket s isMessage = some p → own → l < 0x4400 → p.body = .msg h bs →
      (s.unitAt (clusterAt l)).owner = p.tenant → s.entered = false → s.core.ni.held = [] → s.core.ni.ovf = false →
      s.core.ringOn = true → s.paired = false → messageOf u p = some m → m.member = true → place m u = some t →
      exec .messageArrival s = .next (t.answer p .ack)) ∧
    (nextPacket s isMessage = some p → l < 0x4400 → (s.unitAt (clusterAt l)).owner ≠ p.tenant →
      exec .messageArrival s = .next (u.answer p (.nack 1))) ∧
    (s.core.ni.held = [] ∨ s.entered = true → exec .ringHoldTimeout s = .next s) ∧
    (∀ h m t, s.entered = false → s.core.ni.held = [h] → messageOf s h.packet = some m → (appendOverflow m s).1 = some t →
      ∃ r : State, exec .ringHoldTimeout s = .next r ∧ r.core.ni.held = [] ∧ r.core.ni.heldFlag = false ∧
        r.core.ni.overflow = t.core.ni.overflow) ∧
    (∀ a w, nextPacket s isTake = some p → p.body = .take a → own → wordTarget u p a = some w →
      (s.core.full w = true → exec .remoteTakeRequest s =
        .next ((noteIncoming p.src (u.setFull w false)).answer p (.data ((s.core.w0Word w).setWidth 64)))) ∧
      (s.core.full w = false → s.core.deferred.length < 64 → ⟨w, some (p.src, p.slot)⟩ ∉ s.core.deferred →
        exec .remoteTakeRequest s = .next ((u.mapCore fun c => { c with
          deferred := c.deferred ++ [⟨w, some (p.src, p.slot)⟩] }).send { p with src := p.dst, dst := p.src, body := .queued }))) ∧
    (∀ a v w, nextPacket s isTtake = some p → p.body = .ttake a v → own → wordTarget u p a = some w →
      (s.core.full w = true → exec .remoteTtakeRequest s =
        .next ((noteIncoming p.src (u.setFull w false)).answer p (.data ((s.core.w0Word w).setWidth 64)))) ∧
      (s.core.full w = false → exec .remoteTtakeRequest s = .next (u.answer p (.data (v.setWidth 64))))) ∧
    (∀ a v w, nextPacket s isPut = some p → p.body = .put a v → own → wordTarget u p a = some w →
      (s.core.full w = true → exec .remotePutRequest s = .next (u.answer p (.nack 0))) ∧
      (s.core.full w = false → (∀ x ∈ s.core.deferred, x.addr ≠ w) → exec .remotePutRequest s =
        .next ((((noteIncoming p.src u).w0Write w 4 v.toNat).setFull w true).answer p .ack))) ∧
    (∀ r n, nextPacket s isSignal = some p → p.body = .evsig r n → clusterAt l = s.unit.id →
      exec .remoteEvsigRequest s = .next ((u.mapUnit fun k => { k with evs := k.evs.set n.toNat (
        if k.evs[n.toNat].count = 255 then { k.evs[n.toNat] with ovf := true }
        else { k.evs[n.toNat] with count := k.evs[n.toNat].count + 1 }) }).answer p .ack)) ∧
    (∀ t, nextPacket s (matrixReady s) = some p → commandAt p u = some t → exec .remoteMatrixCommand s = .next t) ∧
    (∀ t, nextPacket s (advanceReady s) = some p → commandAt p u = some t → exec .remoteHandleAdvance s = .next t) ∧
    (∀ r x, nextPacket s isReply = some p → p.body = .reply r → own → s.core.ni.slot p.slot.toNat = some x → r ≠ .nack 2 →
      (reported x.kind = false → x.reply = none → exec .remoteReply s =
        .next (u.mapNi fun n => n.setSlot p.slot.toNat (some { x with reply := some r }))) ∧
      (reported x.kind = true → r = .ack → exec .remoteReply s =
        .next (u.mapNi fun n => n.setSlot p.slot.toNat none))) ∧
    (∀ t x, nextPacket s (retryFor s t) = some p → s.core.ni.slot t.toNat = some x → x.reply = none →
      exec (.nackRetry t) s = .next (u.send x.packet)) ∧
    (∀ x, nextPacket s (fun q => q.body == .queued) = some p → own → s.core.ni.slot p.slot.toNat = some x →
      exec .queuedNotice s =
        .next (u.mapNi fun n => n.setSlot p.slot.toNat (some { x with timed := false }))) ∧
    (∀ t : BitVec 5, s.core.ni.slot t.toNat = none → leaseWaits s t.toNat = true → exec (.slotTimeout t) s = .next s.deviceFatal) ∧
    (∀ (t : BitVec 5) (x : Slot), s.core.ni.slot t.toNat = some x → replyComes s x = true → exec (.slotTimeout t) s = .next s) ∧
    (∀ (t : BitVec 5) (x : Slot), s.placed → s.core.ni.slot t.toNat = some x → x.timed = true → x.reply = none → replyComes s x = false →
      x.kind ≠ .lease → ∃ r : State, exec (.slotTimeout t) s = .next r ∧ r.core.x = s.core.x ∧ r.core.pc = s.core.pc ∧
        if reported x.kind then r.core.ni.slot t.toNat = none ∧
          r.core.refusals = s.core.refusals ++ [BitVec.ofNat 32 (3 * 2 ^ 28 + t.toNat)]
        else r.core.ni.slot t.toNat = some { x with reply := some (.nack 3) })

/-- R308, R310, R311, R314: the words of the event-unit window. A load of BARW or GRPW answers the generation once the core has no open
arrival; EVW waits and signals as EVWAIT and EVSIG do, MXW locks and unlocks; EVSTAT answers the line's state and clears ovf; RFTAKE, RFTTAKE
and RFPUT send a full/empty request to the address in RFA, and RFTAKE and RFTTAKE answer what comes back.
R136, R178, R179, R187, R280 by LW, LWP, SW and SWP: the network-interface window holds NIBUF, NISTAT and the count of the overflow
area, and raises cause 0x05 or 0x07 at other offsets; the engine-status window gives the remap table, the pool and the range locks and
takes no store; a steward's debug window reads zero and ignores writes while its core runs, and gives and takes the registers of a core
that is halted (what a write of DCTL does, `BoundaryEvents` says; MRCFG there is left to `CsrInstructions`). An offset of the status window
that is not listed reads zero (log 17). -/
def Obligations.EventWindowRows : Prop :=
  (∀ (s : State) (d b : Reg) (n : BitVec 5) (g : BitVec 4), s.kind ≠ .memory → s.pairFollower = false →
    let e := s.unit.evs[n.toNat]
    let m := memberNo s
    let bar := s.unit.bars[n.toNat]
    let grp := syncView s true g.toNat
    let put (e' : EvLine) : State := s.mapUnit fun u => { u with evs := u.evs.set n.toNat e' }
    let waits (i : Instr) : Prop := exec i s = .next (s.mapCore fun c => { c with stalled := true })
    let far : DWord := s.core.ni.rfaHi ++ s.core.ni.rfaLo
    let packet (i : Nat) (k : Body) : Packet := ⟨s.core.id, faEndpoint far, s.core.tenant, BitVec.ofNat 5 i, k⟩
    let trip (i : Instr) (k : ReqKind) (body : Body) : Prop :=
      (∀ j sl, slotOf s k = some (j, sl) →
        let u := s.mapNi fun n => n.setSlot j none
        (∀ v, sl.reply = some (.data v) → Falls (exec i s) (u.setX d v.lo)) ∧ (sl.reply = none → waits i) ∧
        (∀ c, sl.reply = some (.nack c) → exec i s = .next (raise 0x0B (BitVec.ofNat 32 (c.toNat * 2 ^ 28 + j % 32)) u))) ∧
      (∀ j, slotOf s k = none → s.core.ni.ownSlot = some j → j < 32 → faRegion far = 1 → faValid far = true →
        s.reachable (faEndpoint far) = true → ∃ t : State, exec i s = .next t ∧ t.core.stalled = true ∧ t.core.pc = s.core.pc ∧
          t.core.ni.slot j = some ⟨k, packet j body, none, true⟩)
    (bar.arrived.getLsbD m = false → Falls (exec (.barwLoad d n) s) (s.setX d bar.gen)) ∧
    (bar.arrived.getLsbD m = true → waits (.barwLoad d n)) ∧
    (grp.arrived.getLsbD m = false → Falls (exec (.grpwLoad d g) s) (s.setX d grp.gen)) ∧
    (grp.arrived.getLsbD m = true → waits (.grpwLoad d g)) ∧
    (0 < e.count → e.waiters = [] → Falls (exec (.evwLoad d n) s)
      ((put { e with count := e.count - 1, waiters := [] }).setX d (BitVec.ofNat 32 e.count))) ∧
    (e.count = 0 → m ∉ e.waiters → exec (.evwLoad d n) s =
      .next ((put { e with waiters := e.waiters ++ [m] }).mapCore fun c => { c with stalled := true })) ∧
    (released s 1 = true → Falls (exec (.evwStore n) s)
      (put (if e.count = 255 then { e with ovf := true } else { e with count := e.count + 1 }))) ∧
    (e.owner = none → e.lockers = [] → Falls (exec (.mxwLoad d n) s) ((put { e with owner := some m }).setX d 0)) ∧
    (e.owner = some m → m ∉ e.lockers → exec (.mxwLoad d n) s = .next (raise 0x13 (ownWord s) s)) ∧
    (e.owner = some m → released s 1 = true → Falls (exec (.mxwStore n) s) (put { e with owner := e.lockers.head? })) ∧
    (e.owner ≠ some m → exec (.mxwStore n) s = .next (raise 0x13 (ownWord s) s)) ∧
    Falls (exec (.evstatRead d n) s) ((put { e with ovf := false }).setX d (BitVec.ofNat 32
      (e.owner.isSome.toNat * 2 ^ 31 + e.ovf.toNat * 2 ^ 30 + e.owner.getD 0 * 2 ^ 16 + e.count))) ∧
    trip (.rftakeLoad d) .take (.take far) ∧ trip (.rfttakeLoad d) .ttake (.ttake far s.core.ni.rfsent) ∧
    (∀ j, released s 2 = true → s.core.ni.ownSlot = some j → j < 32 → faRegion far = 1 → faValid far = true → faPkg far = s.pkg →
      s.reachable (faEndpoint far) = true → ∃ u : State, Falls (exec (.rfputStore b) s) u ∧ u.core.x = s.core.x ∧
        packet j (.put far (s.x b)) ∈ u.fabric ∧ u.core.ni.slot j = some ⟨.put, packet j (.put far (s.x b)), none, true⟩)) ∧
  (∀ (s : State) (d b a : Reg) (i : BitVec 16),
    let t := BitVec.ofInt 32 ((s.x a).toInt + i.toInt)
    let p := t.toNat
    let o := p - 0x800000
    let ni := s.core.ni
    let reads (v : Word) : Prop := Falls (exec (.lw d a i) s) (s.setX d v)
    let keeps : Prop := Falls (exec (.sw b a i) s) s
    let buf (m : Memory) : State := { s with core := { s.core with ni := { ni with buf := m } } }
    (0x800000 ≤ p → p < 0x802000 → p % 4 = 0 →
      (o < 0x100 → reads (ni.buf.word o) ∧ Falls (exec (.sw b a i) s) (buf (ni.buf.putWord o (s.x b)))) ∧
      (o + 8 ≤ 0x100 →
        Falls (exec (.lwp d a i) s) ((s.setX d (ni.buf.word o)).setX (pairHi d) (ni.buf.word (o + 4))) ∧
        Falls (exec (.swp b a i) s) (buf ((ni.buf.putWord (o + 4) (s.x (pairHi b))).putWord o (s.x b)))) ∧
      (o = 0x1000 → keeps ∧ reads (BitVec.ofNat 32 ((egressHeld s).toNat * 2 ^ 31 +
        ((ni.slots.toList.filter fun x => x.isNone).length - ni.reserved.isSome.toNat) * 2 ^ 24 + ni.sent.toNat))) ∧
      (o = 0x1004 → keeps ∧ reads (BitVec.ofNat 32 ni.overflow.length)) ∧
      (0x100 ≤ o → o ≠ 0x1000 → o ≠ 0x1004 →
        exec (.lw d a i) s = .next (raise 5 t s) ∧ exec (.sw b a i) s = .next (raise 7 t s))) ∧
    (0xA00000 ≤ p → p + 4 ≤ 0xA02000 → exec (.sw b a i) s = .next (raise 7 t s)) ∧
    (0xA00000 ≤ p → p + 4 ≤ 0xA02000 → p % 4 ≠ 0 → exec (.lw d a i) s = .next (raise 4 t s)) ∧
    (s.kind = .compute →
      (∀ k : Fin 64, p = 0xA00F00 + 4 * k.val → reads (s.core.remap[k].setWidth 32)) ∧
      (∀ j : Fin 8, p = 0xA01000 + 4 * j.val → ∃ w : Word, reads w ∧ w.extractLsb' 0 7 = s.core.pool[j] ∧
        w.getLsbD 31 = poolBusy s.core j.val ∧ w.extractLsb' 7 24 = 0) ∧
      (∀ k : Fin 16, (s.core.locks[k] = none → p = 0xA00E00 + 8 * k.val ∨ p = 0xA00E04 + 8 * k.val → reads 0) ∧
        ∀ l, s.core.locks[k] = some l → (p = 0xA00E00 + 8 * k.val → reads (BitVec.ofNat 32 (l.first % 2 ^ 18))) ∧
          (p = 0xA00E04 + 8 * k.val → reads (BitVec.ofNat 32
            (2 ^ 31 + l.write.toNat * 2 ^ 30 + l.engine.toNat * 2 ^ 28 + l.last % 2 ^ 18)))) ∧
      (0xA01020 ≤ p → p + 4 ≤ 0xA02000 → p % 4 = 0 → reads 0)) ∧
    (s.kind = .steward →
      (p = 0xB00000 → reads s.unit.pwdog ∧
        Falls (exec (.sw b a i) s) { s with unit := { s.unit with pwdog := s.x b } }) ∧
      (p = 0xB00008 → reads s.unit.ftctl ∧
        Falls (exec (.sw b a i) s) { s with unit := { s.unit with ftctl := s.x b &&& 0x800000FF } }))) ∧
  (∀ (s : State) (d b a : Reg) (i : BitVec 16) (n : BitVec 4) (o : Nat),
    let l := 16 * s.unit.id + n.toNat
    let k := s.coreAt l
    let at_ : State := { s with core := k }
    let v := s.x b
    let reads (v : Word) : Prop := ∃ u : State, Falls (exec (.lw d a i) s) (u.setX d v) ∧ u.core = s.core ∧
      ∀ j, u.coreAt j = s.coreAt j
    let writes (c : Core) : Prop := ∃ u : State, Falls (exec (.sw b a i) s) u ∧ u.core = s.core ∧ u.coreAt l = c ∧
      ∀ j, j ≠ l → u.coreAt j = s.coreAt j
    s.kind = .steward → s.unit.id < 1024 → localOf s.core.id = 0x4000 + s.unit.id → localOf k.id = l → o < 0x1000 →
    BitVec.ofInt 32 ((s.x a).toInt + i.toInt) = BitVec.ofNat 32 (0xC00000 + 0x1000 * n.toNat + o) →
    (o % 4 ≠ 0 → exec (.lw d a i) s = .next (raise 4 (BitVec.ofNat 32 (0xC00000 + 0x1000 * n.toNat + o)) s) ∨ 0xFFC < o ∧ n = 15) ∧
    (o % 4 = 0 → k.halt = none → Falls (exec (.lw d a i) s) (s.setX d 0) ∧ Falls (exec (.sw b a i) s) s) ∧
    (∀ w, o % 4 = 0 → k.halt = some w →
      (∀ r : Reg, o = 4 * r.toNat → reads (at_.x r) ∧ writes (at_.setX r v).core) ∧
      (∀ r : Reg, o = 0x80 + 4 * r.toNat → reads (at_.f r) ∧ writes (at_.setF r v).core) ∧
      (o = 0x100 → reads (k.dpc &&& 0xFFFFFFFC) ∧ writes { k with dpc := v &&& 0xFFFFFFFC }) ∧
      (o = 0x104 → reads (BitVec.ofNat 32 (2 ^ 31 + w.toNat)) ∧ writes k) ∧
      (o = 0x108 → reads k.ecause ∧ writes k) ∧ (o = 0x10C → reads k.eval ∧ writes k) ∧
      (0x110 < o → o < 0x800 ∨ 0xF0C < o → reads 0 ∧ writes k) ∧
      (∀ c : BitVec 12, o = 0x800 + 4 * c.toNat → c.toNat ≤ 0x1C3 → c ≠ 0x010 → c ≠ 0x006 →
        reads (csrRead at_ c) ∧ writes (csrWrite c v v at_).core)))
/-! ## Queues, the distributor and launch start (R346 to R359) -/

/-- R347, R348, R350 to R353, R357 to R359, R431: the events of a queue. A write pointer is ignored while the queue is disabled, refused with ovr
beyond the ring, and stored otherwise. An enabled queue starts at index 0; while a peer image is expected (R440) or a quote awaited (R426)
its enable bit stays. Neither the distributor nor a launch acts while the device runs no launch (R404, R426). The underflow count is returned and cleared. A packet that passes
its checks becomes a launch and binds its counter; any other is recorded in QSTAT, and QRD moves past it. The distributor selects the head
and its victims; a waiting victim is pre-empted where the head still needs it. Placement takes the lowest free clusters or rejects with code
6; launch start gives every core its image, its data over cleared frames and its arguments at 0. A register write of a ready function
writes its register, and a posted write writes its word. -/
def Obligations.QueueEvents : Prop :=
  (∀ (s : State) (t : BitVec 5) (q : BitVec 4) (v : BitVec 32), hostServed s = true →
    let n := t.toNat
    let m := q.toNat
    let x := s.queue n m
    let size := v.toNat / 2 ^ 16 % 32
    (s.quartz.ready = true →
      (∃ r : State, exec (.qwrWrite t q v) s = .next r ∧
        r.queue n m = (if x.en = false then x
          else if 2 ^ x.lsize < (v.truncate 16 - x.rd).toNat then { x with ovr := true } else { x with wr := v.truncate 16 }) ∧
        ∀ n' m', (n', m') ≠ (n, m) → r.queue n' m' = s.queue n' m') ∧
      (∃ r : State, exec (.qctlWrite t q v) s = .next r ∧
        (r.queue n m).cie = v.getLsbD 30 ∧ (r.queue n m).pmax = v.toNat % 8 ∧
        (r.queue n m).lsize = (if x.en = false ∧ 4 ≤ size ∧ size ≤ 16 then size else x.lsize) ∧
        (s.flint.ckrx.getLsbD 31 = true ∨ s.flint.life = .awaiting → (r.queue n m).en = x.en) ∧
        (s.flint.ckrx.getLsbD 31 = false → s.flint.life ≠ .awaiting → v.getLsbD 31 = false → (r.queue n m).en = false) ∧
        (v.getLsbD 31 = true → x.en = true → (r.queue n m).en = true ∧ (r.queue n m).rd = x.rd) ∧
        (s.flint.ckrx.getLsbD 31 = false → s.flint.life ≠ .awaiting → v.getLsbD 31 = true → x.en = false → mayEnable s = true →
          (r.queue n m).en = true ∧ (r.queue n m).rd = 0 ∧ (r.queue n m).wr = 0 ∧ (r.queue n m).total = 0))) ∧
    (∃ r : State, exec (.qundRead t q) s = .next r ∧ r.quartz.hostRead = BitVec.ofNat 32 x.undCount ∧
      r.queue n m = { x with undCount := 0 })) ∧
  (∀ (s : State) (t : BitVec 5) (q : BitVec 4),
    let n := t.toNat
    let m := q.toNat
    let x := s.queue n m
    let o := readVirtual (processor s n (launchId n m x.total) m) (x.base + 64 * (x.rd.toNat % 2 ^ x.lsize)) 64 s
    (mayRead s n m = false → exec (.packetEnqueue t q) s = .next s) ∧
    (mayRead s n m = true →
      (∀ bs u, o = .ok (bs, u) →
        let ws := wordsOf 16 bs
        let p := parsePacket ws
        let y := u.queue n m
        ∃ r : State, exec (.packetEnqueue t q) s = .next r ∧ (r.queue n m).rd = y.rd + 1 ∧ (r.queue n m).total = y.total + 1 ∧
          (enqueueCode u n ws p = none → r.launches.length = u.launches.length + 1 ∧ (r.fn n).counter p.cslot = p.icount ∧
            ∃ l ∈ r.launches, l.id = launchId n m y.total ∧ l.pkt = p) ∧
          (∀ c, enqueueCode u n ws p = some c → r.launches = u.launches ∧ (r.queue n m).rej = true ∧
            (y.rej = false → (r.queue n m).code = BitVec.ofNat 8 c ∧ (r.queue n m).index = BitVec.ofNat 16 y.total))) ∧
      (∀ va u, o = .error (.fault va u) → ∃ r : State, exec (.packetEnqueue t q) s = .next r ∧
        (r.queue n m).rd = (u.queue n m).rd + 1 ∧ (r.queue n m).rej = true ∧
        ((u.queue n m).rej = false → (r.queue n m).code = 9)))) ∧
  (∀ (s : State) (t : BitVec 5) (q : BitVec 4) (l : Word), launchesRun s = false →
    ∀ i ∈ ([.packetEnqueue t q, .distributorSelection t, .residencyExpiry t, .placement t, .launchStart l] : List Instr),
      exec i s = .next s) ∧
  (∀ (s : State) (t : BitVec 5), launchesRun s = true →
    let n := t.toNat
    (headOf s n = none → ∃ r : State, exec (.distributorSelection t) s = .next r ∧ (r.fn n).head = none ∧ (r.fn n).victims = []) ∧
    (∀ h, headOf s n = some h → (∀ v ∈ neededVictims s n h, atOnce s h v = false) →
      ∃ r : State, exec (.distributorSelection t) s = .next r ∧ (r.fn n).head = some h.id ∧ r.launches = s.launches ∧
        (r.fn n).victims = (neededVictims s n h).map fun v => v.id) ∧
    (selected s n = none → exec (.residencyExpiry t) s = .next s) ∧
    (∀ h v, selected s n = some h → (s.fn n).victims.find? (fun v => ((s.launch? v).map (atOnce s h)).getD false) = some v →
      ∃ r : State, exec (.residencyExpiry t) s = .next r ∧ (r.fn n).victims = (s.fn n).victims.filter (· != v) ∧
        ((∀ l ∈ neededVictims s n h, l.id ≠ v) → r.launches = s.launches) ∧
        (∀ g, s.launch? v = some g → g.stage = .running → (∃ l ∈ neededVictims s n h, l.id = v) →
          r.launch? v = some { g with stage := .preempting, preempt := false }))) ∧
  (∀ (s : State) (t : BitVec 5) (l : Launch), selected s t.toNat = some l → l.fn = t → l.stage = .eligible →
    launchesRun s = true →
    let own := (ownClusters s t.toNat).length
    let free := freeClustersOf s t.toNat
    let g := placedOn s l (free.take l.pkt.gang)
    (own < l.pkt.gang → ∃ r : State, exec (.placement t) s = .next r ∧ r.launch? l.id = none ∧
      (r.queue t.toNat l.queue.toNat).rej = true) ∧
    (l.pkt.gang ≤ own → free.length < l.pkt.gang → exec (.placement t) s = .next s) ∧
    (l.pkt.gang ≤ own → l.pkt.gang ≤ free.length → g.cores ≠ [] → homesOk g g.cores g.gang = true →
      ∀ d u, loadImage (processor s t.toNat l.id (16 + l.queue.toNat)) g (58 - g.jframes) s = .ok (d, u) →
        u.launch? l.id = some l → u.placed →
        ∃ r : State, exec (.placement t) s = .next r ∧ r.launch? l.id = some g ∧
          ∀ k ∈ g.gang, (r.unitAt k).launch = some l.id ∧ (r.unitAt k).key = some g.key)) ∧
  (∀ (s : State) (i : BitVec 32) (l : Launch), launchesRun s = true → s.launch? i = some l → l.stage = .placed →
    ∀ d u, loadImage (processor s l.fn.toNat l.id (16 + l.queue.toNat)) l (58 - l.jframes) s = .ok (d, u) →
      u.launch? i = some l → u.placed → (∀ k ∈ l.gang, k < 1024) → l.gang.Nodup →
      ∃ r : State, exec (.launchStart i) s = .next r ∧
        (∃ g : Launch, r.launch? i = some g ∧ g.stage = .running ∧ g.phase = 0 ∧ g.lines = [] ∧
          g.entry = BitVec.ofNat 32 d.image.entry) ∧
        (∀ k ∈ l.gang, (r.unitAt k).istore = (u.unitAt k).istore.put 0 d.text) ∧
        ∀ m ∈ l.members,
          let c := u.coreAt m
          let c' := r.coreAt m
          c'.mode = .user ∧ c'.point = none ∧ c'.empty = [] ∧ c'.csr.fcsr = 0 ∧ c'.csr.phase = 0 ∧ c'.csr.sip = c.csr.sip ∧ c'.x = c.x ∧
          c'.sp = ((c.sp.clear 0 (c.jbase * 4096)).put d.image.daddr d.data).put 0 d.args) ∧
  (∀ (s : State) (t : BitVec 5) (o : BitVec 41) (v : BitVec 32), hostServed s = true →
    (s.quartz.ready = true →
      (∃ r : State, exec (.registerWrite t 0 0x20004 v) s = .next r ∧ (r.fn t.toNat).trootHi = v &&& 0x1FF ∧ r.core = s.core) ∧
      ∃ r : State, exec (.registerWrite t 0 0x10020 v) s = .next r ∧ (r.queue t.toNat 0).pwdog = v ∧ r.core = s.core) ∧
    (o.toNat % 4 = 0 → o.toNat / 2 ^ 36 < 24 → (s.block (o.toNat / 64)).poison = false → s.errAt (o.toNat / 64) = .clean →
      exec (.postedWrite 0 true o v) s = .next (writeBlock 0 o.toNat (bytesOf 4 v.toNat) s)) ∧
    ∀ pa sp b, o.toNat % 4 = 0 → walk s t.toNat o.toNat = .leaf pa true sp b → (s.block (pa / 64)).poison = false →
      (∀ k, s.errAt k = .clean) → exec (.postedWrite t false o v) s = .next (writeBlock t pa (bytesOf 4 v.toNat) s))

/-! ## Tenants, translation faults and pre-emption (R364 to R382) -/

/-- R359, R364, R366, R372, R374 to R376, R379, R381, R382: the events of tenants and of pre-emption. Once every request of the gang has settled, a save settles the core and
writes its image into the context frames; the block of the context region follows when the resident handler has come to its WFI, and the
launch keeps the spill ring as that block holds it; the launch is saved, its clusters are free, and it runs again from what was written once
it is the head, its clusters are free, none of their cores was retired since, and the images fit. An owner write is ignored while busy,
refused while the cluster is held, and otherwise starts the preparation, which scrubs the cluster. A fault record is answered by a retry, which walks again, or
a failure, of every request with its own address. An invalidation is done once no request translated before it is under way. The model's
own (log 15): that the launch keeps where the spill ring ends and which cores were retired when it left (`coreLost`), and the details of
the context image that R376 to R381 leave open. -/
def Obligations.TenantsAndPreemption : Prop :=
  (∀ (s : State) (l : Launch) (old : Core), launchesRun s = true → s.launch = some l → l.stage = .preempting →
    assocGet l.parked (localOf s.core.id) = some old →
    (s.core.csr.ctxsaved = false → (∀ i : Fin 32, s.core.ni.slots[i] = none) → s.core.ni.held = [] →
      gangSettled s l = true → s.core.mx.queue = [] → s.core.cp.queue = [] → s.core.seqs = [] →
      let v : State := { s with
        core := settleCore s.core
        unit := { s.unit with predq := s.unit.predq.filter fun r => match r with
          | .lookup c _ => c != s.core.id
          | .train _ _ => true } }
      ∃ r : State, exec .contextSave s = .next r ∧ r.core.csr.ctxsaved = true ∧ r.core.blockSaved = false ∧
        r.core.follow = (if s.core.csr.ganginfo.getLsbD 30 then s.core.follow else none) ∧
        r.core.csr.sip.getLsbD 1 = false ∧ r.core.slots = vmap settleSlot s.core.slots ∧ r.core.x = s.core.x ∧
        (s.core.mx.acc = [] →
          r.core.sp = (w0Load (58 * 4096) (contextImage v (interrupted old v.core)) v.core).sp)) ∧
    (s.core.csr.ctxsaved = false → gangSettled (spillArrivals (withdrawTakes s)) l = false →
      exec .contextSave s = .next (spillArrivals (withdrawTakes s))) ∧
    (s.core.csr.ctxsaved = true → exec .contextSave s = .next s) ∧
    (handlerEnds s = false → exec .contextBlockWrite s = .next s) ∧
    (∀ a u, coreBlock s l (localOf s.core.id) = some a → s.core.csr.ctxsaved = true → s.core.blockSaved = false →
      handlerEnds s = true → writeVirtual (saver l s.core.id 0) none a (coreBlockBytes s.core) s = .ok u →
      exec .contextBlockWrite s = .next ((keepSpill u).mapCore fun c => { c with blockSaved := true }))) ∧
  (∀ (s : State) (l : Launch) (c : Core), s.launch = some l → assocGet l.parked (localOf s.core.id) = some c →
    ∃ g : Launch, (keepSpill s).launch = some g ∧ (keepSpill s).core = s.core ∧ g.stage = l.stage ∧
      assocGet g.parked (localOf s.core.id) = some { c with ni := { c.ni with spill := s.core.ni.spill } }) ∧
  (∀ (s : State) (i : BitVec 32) (g : Launch), launchesRun s = true → s.launch? i = some g →
    (∀ t, g.stage = .preempting → g.span ≠ 0 → (∀ m ∈ g.members, (s.coreAt m).blockSaved = true) →
      writeGang g s = .ok t → t.launch? i = some g →
      ∃ r : State, exec (.clusterBlockSave i) s = .next r ∧ r.hbm = t.hbm ∧
        (∃ g' : Launch, r.launch? i = some g' ∧ g'.stage = .saved ∧ g'.gang = g.gang ∧ g'.lines = g.lines) ∧
        ∀ k ∈ g.gang, (r.unitAt k).launch = none ∧ (r.unitAt k).key = none) ∧
    ((selected s g.fn.toNat).map (fun h => h.id) ≠ some i → exec (.launchResume i) s = .next s) ∧
    (g.stage = .saved → (selected s g.fn.toNat).map (fun h => h.id) = some i → fitsOn g (freeClustersOf s g.fn.toNat) = true →
      (coreLost s g = true → ∃ r : State, exec (.launchResume i) s = .next r ∧ r.launch? i = none) ∧
      (coreLost s g = false → g.parked ≠ [] → ∀ d t, readSaved g s = .ok (d, t) →
        (readFrontier g d.head d.runs = none → ∃ r : State, exec (.launchResume i) s = .next r ∧ r.launch? i = none) ∧
        (∀ ph ls l u, readFrontier g d.head d.runs = some (ph, ls) → readBlocks g t = .ok (l, u) →
          (∀ e ∈ l, contextOk g ph (imageIn e.2) = true) →
          u.launch? i = some g → u.placed → (l.map fun e => e.1).Nodup → (∀ e ∈ l, e.1 < 0x4000) →
          (∀ e ∈ l, ∃ c, assocGet g.parked e.1 = some c ∧ c.ni.overflow = [] ∧
            ((readImage g (imageIn e.2) e.2 (readBlockOf e.2 c)).ringOn = true ∨ (c.ni.spill = [] ∧ (u.coreAt e.1).ni.held = []))) →
          ∃ r : State, exec (.launchResume i) s = .next r ∧
            (∃ g' : Launch, r.launch? i = some g' ∧ g'.stage = .running ∧ g'.phase = ph ∧ g'.lines = ls ∧ g'.parked = []) ∧
            ∀ e ∈ l, (r.coreAt e.1).pc = imageWord (imageIn e.2) 4 ∧
              (r.coreAt e.1).f = Vector.ofFn fun i : Fin 32 => imageWord (imageIn e.2) (0xE0 + 4 * i.val))))) ∧
  (∀ (s : State) (c : BitVec 10) (t : BitVec 5),
    let k := c.toNat
    let u := s.unitAt k
    (hostServed s = true →
      (u.ownBusy = true ∨ u.owner = t → exec (.clownOwnerWrite c t) s = .next s) ∧
      (u.ownBusy = false → u.owner ≠ t → ∃ r : State, exec (.clownOwnerWrite c t) s = .next r ∧
        r.unitAt k = (if clusterHeld s k then { u with ownErr := true } else { u with owner := t, ownBusy := true }))) ∧
    (u.ownBusy = false → exec (.clusterPreparationDone c) s = .next s) ∧
    (u.ownBusy = true → s.placed → ∃ r : State, exec (.clusterPreparationDone c) s = .next r ∧
      (r.unitAt k).ownBusy = false ∧ (r.unitAt k).istore = [] ∧ (r.unitAt k).sync = [] ∧ (r.unitAt k).pred = [] ∧
      ∀ m ∈ coresOf k ++ [0x4000 + k], (r.coreAt m).sp = [] ∧ (r.coreAt m).empty = [] ∧ (r.coreAt m).x = .replicate 32 0 ∧
        (r.coreAt m).f = .replicate 32 0 ∧ (r.coreAt m).shadow = .replicate 6 0 ∧ (r.coreAt m).env = .replicate 8 ⟨0, 0, []⟩ ∧
        (r.coreAt m).csr.sctx.extractLsb' 16 5 = u.owner)) ∧
  (∀ (s : State) (a : BitVec 6) (t : BitVec 5) (v : BitVec 32), hostServed s = true →
    ∃ r : State, exec (.ingrWrite a t v) s = .next r ∧ ingressOf r a.toNat t = if v.getLsbD 31 then some (v.truncate 5) else none) ∧
  (∀ (s : State) (t : BitVec 5) (i : BitVec 6) (v : BitVec 32), hostServed s = true → s.quartz.ready = true →
    let n := t.toNat
    (openRecord s n i.toNat = none → exec (.fqrespRetry t i) s = .next s ∧ exec (.fqrespFail t i) s = .next s) ∧
    (∀ x, openRecord s n i.toNat = some x → (s.fn n).fqwait = [] →
      (∃ r : State, exec (.fqrespRetry t i) s = .next r ∧ r.fabric = x.reqs ++ s.fabric ∧ openRecord r n i.toNat = none ∧
        ∀ e ∈ r.atc, e ∈ s.atc ∧ covers n x.va e = false) ∧
      (∀ p, x.reqs = [p] → ∃ r : State, r.fabric = s.fabric ∧ r.core = s.core ∧ openRecord r n i.toNat = none ∧
        exec (.fqrespFail t i) s = .next (r.answer p (.vfault (BitVec.ofNat 32 (packetVa p / 512)))))) ∧
    ((s.fn n).fqwait = [] → ∃ r : State, exec (.fqtailWrite t v) s = .next r ∧ (r.fn n).fqtail = v.toNat % 128) ∧
    ∃ r : State, exec (.atcinvWrite t v) s = .next r ∧ (r.fn n).atcBusy = true ∧
      (r.fn n).atcinvHi = (if (s.fn n).atcBusy then (s.fn n).atcinvHi else v &&& 0x1FF) ∧
      (r.fn n).atcTaken = (if (s.fn n).atcBusy then (s.fn n).atcTaken else (s.fn n).atcinvLo) ∧ r.atc = s.atc) ∧
  (∀ (s : State) (t : BitVec 5),
    let h := s.fn t.toNat
    (h.atcBusy = false ∨ (∃ p ∈ s.fabric, forwarded t.toNat p = true) → exec (.atcInvalidationDone t) s = .next s) ∧
    (h.atcBusy = true → (∀ p ∈ s.fabric, forwarded t.toNat p = false) →
      ∃ r : State, exec (.atcInvalidationDone t) s = .next r ∧ (r.fn t.toNat).atcBusy = false ∧
        r.atc = s.atc.filter fun e => !(e.tenant == t && inRange h e)))

/-! ## Flint: the alarm, the lifecycle, quotes and field tests (R417, R419, R424 to R429, R436, R438 to R441) -/

/-- R417, R424, R425, R426, R428, R429, R436, R438, R439, R440, R441: the events of security and repair. A first failed test makes a unit suspect, a second within 24 hours withdraws
the cluster of a steward or the clusters of a die, and 64 passes make it good; a passed cluster test readmits a cluster unless it or its
die was retired, and no test runs with a share of 0. Tamper erases the keys, makes the device Fatal and locks it;
a window's expiry clears the counters; a read of ALMSTAT clears amb. A quote is refused with err while one is in progress, without a fresh
nonce, or once decommissioned; a delivered one holds the version, the lifecycle, its nonce, the measurements of the loaded images, ALMSTAT
and the cold resets, and ends the awaiting state. A recovery submission and a checkpoint operation that pass their checks start and
complete; throttling moves by 50 MHz between 425 and 850. That decommissioning kills every launch and disables the queues, and the form of
telemetry over the sideband, are the model's (log 19), and so is that an image passes or fails by free values of its words (log 25). -/
def Obligations.SecurityEvents : Prop :=
  (∀ (s : State) (c k : BitVec 4) (u : BitVec 6) (ok : Bool), s.unit.id < 1024 →
    let name : UnitName :=
      ⟨k, BitVec.ofNat 3 (s.unit.id / 128), if k = 1 then 0 else BitVec.ofNat 7 (s.unit.id % 128), if 3 ≤ k.toNat then c else 0, u⟩
    let raised (r : State) := (0, 3) ∈ if (s.fn 0).masked 3 then r.quartz.msixPend else r.quartz.msix
    let parts := if k.toNat ≤ 3 then 1 else if k = 4 then 34 else if k = 5 then 4 else if k = 6 then 64 else 0
    let die : UnitName := ⟨1, BitVec.ofNat 3 (s.unit.id / 128), 0, 0, 0⟩
    let gone (v : UnitName) : Prop := ∃ x ∈ s.ftRec v, x.state = 3
    let may := s.steward = true ∧ s.unit.ftctl.getLsbD 31 = true ∧ s.unit.ftctl.toNat % 256 ≠ 0 ∧ 0 < k.toNat ∧ u.toNat < parts ∧ testable c.toNat k.toNat s = true
    (¬may → exec (.fieldTestPoint c k u ok) s = .next s) ∧
    (may → s.quartz.records.length < 4096 →
      (ok = false → s.ftRec name = none → ∃ r : State, exec (.fieldTestPoint c k u ok) s = .next r ∧
        raised r ∧ ∃ x : FtRec, r.ftRec name = some x ∧ x.state = 1 ∧ x.fails = 1 ∧ x.passes = 0) ∧
      (∀ x, ok = false → s.ftRec name = some x → x.state = 1 → s.now - x.at_ < 86400 → k = 1 ∨ k = 2 →
        ∃ r : State, exec (.fieldTestPoint c k u ok) s = .next r ∧ raised r ∧ (r.unitAt s.unit.id).withdrawn = true ∧
          ∃ y : FtRec, r.ftRec name = some y ∧ y.state = 3) ∧
      (ok = true → k = 2 → ∃ r : State, exec (.fieldTestPoint c k u ok) s = .next r ∧
        (¬gone name → ¬gone die → (r.unitAt s.unit.id).withdrawn = false) ∧
        (gone name ∨ gone die → (r.unitAt s.unit.id).withdrawn = s.unit.withdrawn)) ∧
      (∀ x, ok = true → s.ftRec name = some x → x.state = 1 → ∃ r : State, exec (.fieldTestPoint c k u ok) s = .next r ∧
        (63 ≤ x.streak → r.ftRec name = none) ∧
        (x.streak < 63 → ∃ y : FtRec, r.ftRec name = some y ∧ y.passes = x.passes + 1 ∧ y.streak = x.streak + 1 ∧ y.state = 1)))) ∧
  (∀ s : State,
    (s.flint.level = 3 → exec .tamperInput s = .next s) ∧
    (s.flint.level ≠ 3 → ∃ r : State, exec .tamperInput s = .next r ∧ r.flint.level = 3 ∧ r.flint.keys = .replicate 32 none ∧
      r.flint.tamper = true ∧ r.quartz.fatal = true ∧
      r.flint.life = (if s.flint.life = .decommissioned then .decommissioned else .locked)) ∧
    (∃ r : State, exec .alarmWindowExpiry s = .next r ∧ r.flint.count = 0 ∧ r.flint.tcount = [] ∧ r.flint.level = s.flint.level ∧
      r.flint.contained = s.flint.contained) ∧
    (hostServed s = true → ∃ r : State, exec .almstatRead s = .next r ∧ r.flint.amb = 0 ∧
      r.quartz.hostRead = BitVec.ofNat 32 ((s.flint.life == .locked).toNat * 2 ^ 31 + s.flint.tamper.toNat * 2 ^ 30 +
        s.flint.level.toNat * 2 ^ 28 + s.flint.count * 2 ^ 16 + s.flint.amb)) ∧
    (hostServed s = true → ∃ r : State, exec .fuseDecommission s = .next r ∧ r.flint.life = .decommissioned ∧
      r.flint.identity = false ∧ r.flint.keys = .replicate 32 none ∧ r.launches = [] ∧ ∀ t q, (r.queue t q).en = false) ∧
    (s.flint.life = .manufacturing → ∃ r : State, exec .provisioning s = .next r ∧ r.flint.life = .provisioned ∧
      r.flint.identity = true ∧ (∀ t : Fin 32, r.flint.keys[t] ≠ none) ∧ r.flint.coldResets = 0) ∧
    (s.flint.life ≠ .manufacturing → exec .provisioning s = .next s)) ∧
  (∀ (s : State) (i : BitVec 3) (v : BitVec 32) (w : BitVec 256) (h : Bool),
    let f := s.flint
    let asked : Vector Word 8 := Vector.ofFn fun i => w.extractLsb' (32 * i.val) 32
    let refused (n : Vector Word 8) := f.qbusy = true ∨ n = .replicate 8 0 ∨ f.lastNonce = some n ∨ f.life = .decommissioned
    ((refused f.nonce → ∃ r : State, exec .qtctlGo s = .next r ∧ r.flint.qerr = true ∧ r.flint.qbusy = f.qbusy) ∧
      (¬refused f.nonce → ∃ r : State, exec .qtctlGo s = .next r ∧ r.flint.qbusy = true ∧ r.flint.request = f.nonce ∧
        r.flint.sideband = false) ∧
      (f.life ≠ .decommissioned → ∃ r : State, exec (.qtnonceWrite i v) s = .next r ∧ r.flint.qdone = false ∧
        r.flint.nonce = f.nonce.set i.toNat v)) ∧
    (f.life = .decommissioned → exec (.qtnonceWrite i v) s = .next s) ∧
    (refused asked → ∃ r : State, exec (.sidebandQuoteRequest w) s = .next r ∧ r.flint.qerr = true ∧ r.flint.qbusy = f.qbusy ∧
      r.flint.request = f.request) ∧
    (¬refused asked → ∃ r : State, exec (.sidebandQuoteRequest w) s = .next r ∧ r.flint.qbusy = true ∧ r.flint.request = asked ∧
      r.flint.sideband = true) ∧
    (f.qbusy = false → exec .quoteDone s = .next s) ∧
    (f.qbusy = true → ∃ r : State, exec .quoteDone s = .next r ∧ r.flint.qbusy = false ∧ r.flint.lastNonce = some f.request ∧
      r.flint.life = (if f.life = .awaiting then .provisioned else f.life) ∧
      let q := if f.sideband then r.quartz.replies else r.flint.qbuf
      q.length = 928 ∧ q[0]? = some 1 ∧ q[1]? = some (BitVec.ofNat 32 (lifeCode f.life)) ∧
      (∀ j : Fin 8, q[2 + j.val]? = some f.request[j]) ∧
      (∀ (m : Fin 5) (j : Fin 12), q[10 + 12 * m.val + j.val]? = some (f.measures[m].extractLsb' (32 * j.val) 32)) ∧
      q[82]? = some (almstat s) ∧
      q[83]? = some (BitVec.ofNat 32 f.coldResets) ∧
      (f.sideband = false → r.flint.qdone = (f.request == f.nonce))) ∧
    (∃ r : State, exec (.mctpRequest 0) s = .next r ∧ r.quartz.replies = s.quartz.freq.toList.map (BitVec.ofNat 32) ∧
      r.core = s.core ∧ r.flint = f) ∧
    (∃ r : State, exec (.mctpRequest 2) s = .next r ∧ r.quartz.replies.length = 4 * s.quartz.records.length) ∧
    exec (.boundaryScan h) s = .next s) ∧
  (∀ (s : State) (i n : BitVec 3) (v : BitVec 32),
    let f := s.flint
    let len := f.rmlen.toNat
    let old := (s.quartz.freq[n.toNat]?).getD 850
    let (slot, image) := f.rmsub
    (hostServed s = true → f.rmbusy = false → f.life = .provisioned → i.toNat ≤ 4 → 64 ≤ len → len ≤ 1048576 → len % 64 = 0 →
      ∃ r : State, exec (.rmctlGo i) s = .next r ∧ r.flint.rmbusy = true ∧ r.flint.rmslot = i ∧
        r.flint.rmsub = (i.toNat, bufferImage f) ∧ r.core = s.core) ∧
    (f.rmbusy = true → imageFault f slot image = none → ∃ r : State, exec (.recoverySubmitDone 0) s = .next r ∧
      r.flint.rmbusy = false ∧ r.flint.rmdone = true ∧ r.core = s.core ∧ assocGet r.quartz.images slot = some image) ∧
    (hostServed s = true → f.ckbusy = false → anyGang s = false → f.life = .provisioned → ckReach s v = true →
      (∃ r : State, exec (.checkpointSave v) s = .next r ∧ r.flint.ckbusy = true ∧ r.flint.ckop.getLsbD 30 = false ∧
        r.flint.ckop.getLsbD 29 = v.getLsbD 29 ∧ r.hbm = s.hbm) ∧
      (∃ r : State, exec (.checkpointRestore v) s = .next r ∧ r.flint.ckbusy = true ∧ r.flint.ckop.getLsbD 30 = true ∧
        r.flint.ckop.getLsbD 29 = v.getLsbD 29 ∧ r.hbm = s.hbm)) ∧
    (f.ckbusy = true → f.ckop.getLsbD 30 = false → ckReach s f.ckop = true → ∃ r : State, exec (.checkpointDone 0) s = .next r ∧ r.flint.ckbusy = false ∧
      r.flint.ckdone = true ∧ r.hbm = s.hbm ∧ (f.ckgib.toNat ≤ 1536 → r.flint.ckgib = 1536)) ∧
    (hostServed s = true → v.getLsbD 31 = false ∨ anyGang s = false → ∃ r : State, exec (.ckrxWrite v) s = .next r ∧
      r.flint.ckrx = v &&& 0x8000003F ∧ r.core = s.core) ∧
    (∃ r : State, exec (.throttleDownStep n) s = .next r ∧ r.quartz.freq[n.toNat]? = some (max 425 (old - 50)) ∧ r.core = s.core) ∧
    (∃ r : State, exec (.throttleUpStep n) s = .next r ∧ r.quartz.freq[n.toNat]? = some (min 850 (old + 50)) ∧ r.core = s.core) ∧
    ∃ r : State, exec .overtempFatal s = .next r ∧ r.quartz.fatal = true ∧ r.quartz.off = true ∧ r.core = s.core)

/-! ## Resets, boot, recovery, checkpoints and host writes (R404, R431 to R440) -/

/-- R348, R404, R431, R432, R434 to R436, R438 to R440: the resets, the boot and what the host writes. A cold reset empties HBM and every
core, and takes a locked device to awaiting-quote; a warm reset keeps HBM, keys, generations, the lifecycle, the level, CYCLE and the records. A function-level
reset ends the tenant's launches, increments its generation and gives it new keys. The boot loads and measures the images and ends ready, or a
refused image holds it in recovery until a reset, with the images before it loaded and measured. The mailbox and the checkpoint engine
refuse with their codes, a peer that cannot be reached with code 3 at the start and at the end; a save takes what HBM holds when each GiB
moves into its image, and a restore writes HBM from where it stands to its end, and keeps every block's owner. Throttling moves by 50 MHz between 425 and 850. Registers are written through BAR 0 and, by the physical
function, BAR 2. The model's own: r.core = .reset also fixes the core in focus (log 1) and the zeros that the spec does not give (log 2);
that a cold reset keeps the retired cores and a warm one the frequencies, that a cold boot which is refused leaves 425 MHz, and that a cold
reset and a function-level reset make new keys (log 19); that the image of a save is kept here as its blocks and bytes (log 12), and that
a MAC is told by the keys that made it (log 11); which image of the delivered ones is refused (log 25); a go of CKCTL while an operation is in progress starts nothing but writes its fields (log 17); a go of RMCTL while a submission is in
progress is ignored, and an image passes or fails by free values of its words (log 25). -/
def Obligations.ResetsAndHost : Prop :=
  (∀ s : State,
    (∃ r : State, exec .coldReset s = .next r ∧ r.core = .reset (BitVec.ofNat 21 (s.pkg * 0x8000)) ∧ r.others = [] ∧
      r.hbm = [] ∧ r.blocks = [] ∧ r.launches = [] ∧ r.fns = [] ∧ r.cycle = 0 ∧ r.quartz.ready = false ∧
      r.quartz.retired = s.quartz.retired ∧ r.flint.level = 0 ∧ r.flint.coldResets = s.flint.coldResets + 1 ∧
      r.flint.measures = .replicate 5 0 ∧
      (s.flint.life = .locked → r.flint.life = .awaiting ∧ (∀ i : Fin 32, r.flint.keys[i] ≠ none) ∧
        ∀ i : Fin 32, r.flint.gens[i] = s.flint.gens[i] + 1) ∧
      (s.flint.life ≠ .locked → r.flint.life = s.flint.life ∧ r.flint.gens = s.flint.gens ∧
        ∀ i : Fin 32, r.flint.keys[i] ≠ none ↔ (s.flint.life = .provisioned ∨ s.flint.life = .awaiting))) ∧
    (∃ r : State, exec .warmReset s = .next r ∧ r.core = .reset (BitVec.ofNat 21 (s.pkg * 0x8000)) ∧ r.others = [] ∧
      r.hbm = s.hbm ∧ r.blocks = s.blocks ∧ r.launches = [] ∧ r.fns = [] ∧ r.cycle = s.cycle ∧ r.quartz.ready = false ∧
      r.quartz.records = s.quartz.records ∧ r.flint.level = s.flint.level ∧ r.flint.life = s.flint.life ∧
      r.flint.keys = s.flint.keys ∧ r.flint.gens = s.flint.gens ∧ r.quartz.freq = s.quartz.freq ∧
      r.quartz.images = s.quartz.images ∧ ∀ i : Fin 2, r.flint.measures[i] = s.flint.measures[i]) ∧
    (∃ r : State, exec .overtempFatal s = .next r ∧ r.quartz.fatal = true ∧ r.quartz.off = true)) ∧
  (∀ (s : State) (t : BitVec 5) (ok : Bool),
    (hostServed s = true → exec (.frstWarm t) s = if t = 0 then exec .warmReset s else .next s) ∧
    exec (.vfFunctionLevelReset 0) s = exec .warmReset s ∧
    (t ≠ 0 → ∃ r : State, exec (.vfFunctionLevelReset t) s = .next r ∧ (∀ l ∈ r.launches, l.fn ≠ t) ∧ r.fn t.toNat = .reset ∧
      r.flint.gens[t.toNat]? = (s.flint.gens[t.toNat]?).map (· + 1) ∧ (∀ k ∈ r.lease.tickets, k.tenant ≠ t) ∧
      ((r.flint.keys[t.toNat]?).join ≠ none ↔ (s.flint.life = .provisioned ∨ s.flint.life = .awaiting)) ∧
      (∀ e ∈ r.quartz.msixPend, e.1 ≠ t) ∧
      ((∀ l ∈ s.launches, l.fn ≠ t) → ∀ k, k < 1024 → (s.unitAt k).owner = t → (r.unitAt k).ownBusy = true)) ∧
    (s.quartz.ready = true ∨ s.quartz.recov = true ∨ s.quartz.off = true → exec (.boot ok) s = .next s) ∧
    (s.quartz.ready = false → s.quartz.recov = false → s.quartz.off = false → ∃ r : State, exec (.boot ok) s = .next r ∧
      r.quartz.ready = (!imagesRefused ok s) ∧ r.quartz.recov = imagesRefused ok s ∧
      (imagesRefused ok s = true → (r.quartz.freq = if s.quartz.boot = 0 then .replicate 8 425 else s.quartz.freq) ∧
        ∀ i, i < 5 → if i ∈ bootLoads ok s
          then assocGet r.quartz.loaded i = some (assocGet s.quartz.images i) ∧ r.flint.measures[i]? = some (measureOf s i)
          else assocGet r.quartz.loaded i = assocGet s.quartz.loaded i ∧ r.flint.measures[i]? = s.flint.measures[i]?) ∧
      (imagesRefused ok s = false → r.quartz.freq = .replicate 8 850 ∧ ∀ i ∈ bootSlots s,
        assocGet r.quartz.loaded i = some (assocGet s.quartz.images i) ∧ r.flint.measures[i]? = some (measureOf s i))) ∧
    imagesRefused false s = true ∧
    (s.quartz.boot ≠ 0 → assocGet s.quartz.loaded 0 = none ∨ assocGet s.quartz.loaded 1 = none → imagesRefused ok s = true ∧
      bootLoads ok s = []) ∧
    (s.quartz.boot = 0 ∨ (assocGet s.quartz.loaded 0 ≠ none ∧ assocGet s.quartz.loaded 1 ≠ none) →
      ∀ i ∈ bootSlots s, (∀ j ∈ bootSlots s, j ≤ i → ∀ m, assocGet s.quartz.images j = some m → imageFault s.flint j m = none) →
        i ∈ bootLoads true s) ∧
    (∀ i ∈ bootSlots s, ∀ m, assocGet s.quartz.images i = some m → imageFault s.flint i m ≠ none → imagesRefused ok s = true) ∧
    (∀ i m, (imageFault s.flint i m = some 1 ↔ Config.verifies s.flint.roots.toList m.words = false) ∧
      (imageFault s.flint i m = some 2 ↔ Config.verifies s.flint.roots.toList m.words = true ∧
        Config.imageVersion m.words < (s.flint.minVersion[i]?).getD 0)) ∧
    exec (.configRequest t) s =
      .next { s with quartz := { s.quartz with crs := !(s.quartz.ready || (s.quartz.recov && t == 0)) } }) ∧
  (∀ (s : State) (i n : BitVec 3) (c : BitVec 8),
    let f := s.flint
    let len := f.rmlen.toNat
    let old := (s.quartz.freq[n.toNat]?).getD 850
    let (slot, image) := f.rmsub
    let raised (r : State) := (0, 3) ∈ if (s.fn 0).masked 3 then r.quartz.msixPend else r.quartz.msix
    (hostServed s = true → f.rmbusy = false → ∃ r : State, exec (.rmctlGo i) s = .next r ∧ r.flint.rmslot = i ∧
      let served := (f.life = .provisioned ∨ f.life = .awaiting ∨ s.quartz.recov = true)
      let fits := i.toNat ≤ 4 ∧ 64 ≤ len ∧ len ≤ 1048576 ∧ len % 64 = 0
      (¬served → r.flint.rmerr = true ∧ r.flint.rmcode = 4) ∧
      (served → ¬fits → r.flint.rmerr = true ∧ r.flint.rmcode = 3) ∧
      (served → fits → r.flint.rmbusy = true ∧ r.flint.rmsub = (i.toNat, bufferImage f))) ∧
    (hostServed s = true → f.rmbusy = true → ∃ r : State, exec (.rmctlGo i) s = .next r ∧ r.flint.rmslot = i ∧
      r.flint.rmsub = f.rmsub ∧ r.flint.rmerr = f.rmerr ∧ r.flint.rmbusy = true) ∧
    (f.rmbusy = false → exec (.recoverySubmitDone c) s = .next s) ∧
    (f.rmbusy = true → ∃ r : State, exec (.recoverySubmitDone c) s = .next r ∧ r.flint.rmbusy = false ∧ raised r ∧
      (∀ e, imageFault f slot image = some e → r.flint.rmerr = true ∧ r.flint.rmcode = e ∧ r.quartz.images = s.quartz.images) ∧
      (imageFault f slot image = none → (c = 5 → r.flint.rmerr = true ∧ r.flint.rmcode = 5 ∧ r.quartz.images = s.quartz.images) ∧
        (c ≠ 5 → r.flint.rmdone = true ∧ assocGet r.quartz.images slot = some image))) ∧
    (∃ r : State, exec (.throttleDownStep n) s = .next r ∧ r.quartz.freq[n.toNat]? = some (max 425 (old - 50)) ∧
      (425 < old → raised r)) ∧
    (∃ r : State, exec (.throttleUpStep n) s = .next r ∧ r.quartz.freq[n.toNat]? = some (min 850 (old + 50)))) ∧
  (∀ (s : State) (v : BitVec 32) (c : BitVec 8),
    let f := s.flint
    let lo := f.ckgib.toNat
    let raised (r : State) := (0, 3) ∈ if (s.fn 0).masked 3 then r.quartz.msixPend else r.quartz.msix
    (hostServed s = true → f.ckbusy = false →
      ∀ e ∈ ([(.checkpointSave v, false), (.checkpointRestore v, true)] : List (Instr × Bool)), ∃ r : State, exec e.1 s = .next r ∧
        r.flint.ckctl.getLsbD 30 = e.2 ∧
        (anyGang s = true → r.flint.ckerr = true ∧ r.flint.ckcode = 1 ∧ r.flint.ckbusy = false) ∧
        (anyGang s = false → f.life ≠ .provisioned → r.flint.ckerr = true ∧ r.flint.ckcode = 2 ∧ r.flint.ckbusy = false) ∧
        (anyGang s = false → f.life = .provisioned → ckReach s v = false →
          r.flint.ckerr = true ∧ r.flint.ckcode = 3 ∧ r.flint.ckbusy = false) ∧
        (anyGang s = false → f.life = .provisioned → ckReach s v = true → r.flint.ckbusy = true ∧ r.flint.ckgib = 0 ∧
          r.flint.ckHbm = [] ∧ r.flint.ckBlocks = [])) ∧
    (hostServed s = true → f.ckbusy = true →
      ∀ e ∈ ([(.checkpointSave v, false), (.checkpointRestore v, true)] : List (Instr × Bool)), ∃ r : State, exec e.1 s = .next r ∧
        r.flint.ckctl.getLsbD 30 = e.2 ∧ r.flint.ckop = f.ckop ∧ r.flint.ckbusy = true ∧ r.flint.ckcode = f.ckcode) ∧
    (f.ckbusy = false → exec (.checkpointDone c) s = .next s) ∧
    (f.ckbusy = true → ∃ r : State, exec (.checkpointDone c) s = .next r ∧ r.flint.ckbusy = false ∧ raised r ∧
      (c = 0 → lo < 1536 → ckReach s f.ckop = false → r.flint.ckerr = true ∧ r.flint.ckcode = 3 ∧ r.hbm = s.hbm ∧
        r.flint.ckImages = f.ckImages) ∧
      (c = 0 → f.ckop.getLsbD 30 = false → ckReach s f.ckop = true → r.flint.ckdone = true ∧
        ∃ i ∈ r.flint.ckImages, (i.peer, i.addr) = ckTarget f ∧ i.gens = f.gens ∧ i.cold = f.coldResets ∧
          (∀ a, a < 1536 * 2 ^ 30 → i.hbm.get a = if a < lo * 2 ^ 30 then f.ckHbm.get a else s.hbm.get a) ∧
          i.blocks = f.ckBlocks ++ (List.range (1536 - lo)).flatMap fun k => s.blocks.filter (inGib (lo + k))) ∧
      (∀ i, c = 0 → f.ckop.getLsbD 30 = true → ckImage f = some i → ckReach s f.ckop = true →
        (i.gens = f.gens → i.cold = f.coldResets → r.flint.ckdone = true ∧
          (i.peer ≠ none ∨ (∀ m ∈ i.blocks, staleKeys s m = false) → ∀ a, r.hbm.get a = if lo * 2 ^ 30 ≤ a ∧ a < 1536 * 2 ^ 30 then i.hbm.get a else s.hbm.get a) ∧
          (∀ b, b < lo * 2 ^ 24 ∨ 1536 * 2 ^ 24 ≤ b → r.block b = s.block b) ∧
          (i.blocks.Pairwise (fun m n => m.block ≠ n.block) → ∀ b, lo * 2 ^ 24 ≤ b → b < 1536 * 2 ^ 24 →
            (∀ m ∈ i.blocks, m.block = b →
              r.block b = if i.peer = none then { m with poison := false, err := .clean, mac := s.macKey m.tenant } else m) ∧
            ((∀ m ∈ i.blocks, m.block ≠ b) → r.block b = ⟨b, false, 0, 0, .clean, none⟩))) ∧
        (lo < 1536 → i.gens ≠ f.gens ∨ i.cold ≠ f.coldResets →
          r.flint.ckerr = true ∧ r.flint.ckcode = 5 ∧ r.hbm = s.hbm)) ∧
      (c = 0 → f.ckop.getLsbD 30 = true → ckImage f = none → lo < 1536 → ckReach s f.ckop = true → r.flint.ckerr = true ∧ r.hbm = s.hbm ∧
        r.flint.ckcode = if f.ckop.getLsbD 29 then 3 else 5) ∧
      (c ≠ 0 → r.flint.ckerr = true ∧ r.flint.ckcode = c ∧ r.hbm = s.hbm ∧
        ∀ i : Fin 32, r.flint.gens[i] = if c = 4 ∧ f.ckop.getLsbD 30 = true then f.gens[i] + 1 else f.gens[i])) ∧
    (hostServed s = true → ∃ r : State, exec (.ckrxWrite v) s = .next r ∧
      (v.getLsbD 31 = true → anyGang s = true → r.flint.ckerr = true ∧ r.flint.ckcode = 1 ∧ r.flint.ckrx = f.ckrx) ∧
      (v.getLsbD 31 = false ∨ anyGang s = false → r.flint.ckrx = v &&& 0x8000003F))) ∧
  (∀ (s : State) (t : BitVec 5) (o : BitVec 24) (v : BitVec 32),
    (hostServed s = false → exec (.registerWrite t 0 o v) s = .next s) ∧
    (t ≠ 0 → exec (.registerWrite t 2 o v) s = .next s) ∧
    (hostServed s = true → s.quartz.ready = false → exec (.registerWrite t 0 0x20000 v) s = .next s) ∧
    (hostServed s = true → s.quartz.ready = true → ∃ r : State, exec (.registerWrite t 0 0x20000 v) s = .next r ∧
      (r.fn t.toNat).trootLo = v &&& 0xFFFFC000 ∧ (r.fn t.toNat).trootHi = (s.fn t.toNat).trootHi ∧ r.hbm = s.hbm) ∧
    (hostServed s = true → ∃ r : State, exec (.registerWrite 0 2 0x501004 v) s = .next r ∧
      budgetOf r 1 = min 256 (v.toNat % 512)) ∧
    (s.flint.life ≠ .decommissioned → ∃ r : State, exec (.registerWrite 0 2 0xC10020 v) s = .next r ∧
      r.flint.nonce[0] = v)) ∧
  (∀ (s : State) (t : BitVec 5) (o : BitVec 41) (v : BitVec 32), hostServed s = true → o.toNat % 4 = 0 →
    (o.toNat / 2 ^ 36 < 24 → (s.block (o.toNat / 64)).poison = false → s.errAt (o.toNat / 64) = .clean →
      exec (.postedWrite 0 true o v) s = .next (writeBlock 0 o.toNat (bytesOf 4 v.toNat) s)) ∧
    (t ≠ 0 → exec (.postedWrite t true o v) s = .next s) ∧
    (let u := walkSeen t.toNat o.toNat (s.endpoint 0x7FFF) 0 s
      ∀ pa sp b, walk s t.toNat o.toNat = .leaf pa true sp b → (u.block (pa / 64)).poison = false →
      u.errAt (pa / 64) = .clean →
      exec (.postedWrite t false o v) s = .next (writeBlock t pa (bytesOf 4 v.toNat) u)))

/-! ## Reset, the step and the encoding (R30, R44 to R55, R434) -/

/-- R37, R41, R177, R178, R233, R263, R347, R418, R425, R432, R434, R435: what reset leaves where the spec gives a value, with every memory in its canonical form. (Where the
spec gives none, the value is the model's: `fresh` fixes those zeros of a core, log 2, and the core in focus, log 1.) From every state a cold reset, a warm reset, FRST.warm of
the physical function and a function-level reset complete with what R434 says they keep and clear; the boot completes, and a
configuration request is answered. -/
def Obligations.ResetState : Prop :=
  let s := State.reset
  let c := s.core
  s.canonical ∧ c.csr.pthresh = 4 ∧ c.csr.ectl = 128 ∧ c.csr.spshare = 4 ∧ c.csr.svweight = 8 ∧ c.csr.fcsr = 0 ∧
  c.csr.sstatus = 0 ∧ c.csr.sdbg = 0 ∧ c.csr.mcstat = 0 ∧ c.loop.active = false ∧ c.locks = .replicate 16 none ∧ c.tags = [] ∧
  (∀ i : Fin 64, c.remap[i] = BitVec.ofNat 7 i.val) ∧ (∀ j : Fin 8, c.pool[j] = BitVec.ofNat 7 (64 + j.val)) ∧
  (∀ i : Fin 8, c.env[i] = ⟨0x80000000, 0x7FFFFFFF, []⟩ ∧ c.hnd[i].cfg = false ∧ c.slots[i].state = .free) ∧
  s.unit.ftctl = 0x80000010 ∧ s.unit.owner = 0 ∧ s.unit.launch = none ∧ s.flint.almctl = 0x3C001004 ∧ s.flint.level = 0 ∧
  s.launches = [] ∧ s.hbm = [] ∧ s.fabric = [] ∧ s.quartz.ready = false ∧ s.quartz.fatal = false ∧ s.cycle = 0 ∧
  (∀ t q, q < 16 → (s.queue t q).en = false) ∧
  ∀ s : State,
    let fresh (r : State) : Prop := r.core = .reset (BitVec.ofNat 21 (s.pkg * 0x8000)) ∧ r.others = [] ∧ r.launches = [] ∧
      r.fns = [] ∧ r.fabric = [] ∧ r.quartz.ready = false
    let kept (r : State) : Prop := r.hbm = s.hbm ∧ r.blocks = s.blocks ∧ r.cycle = s.cycle ∧ r.flint.level = s.flint.level ∧
      r.flint.life = s.flint.life ∧ r.flint.keys = s.flint.keys ∧ r.flint.gens = s.flint.gens ∧ r.quartz.records = s.quartz.records
    (∃ r : State, exec .coldReset s = .next r ∧ fresh r ∧ r.hbm = [] ∧ r.blocks = [] ∧ r.cycle = 0 ∧ r.flint.level = 0 ∧
      r.flint.coldResets = s.flint.coldResets + 1) ∧
    (∃ r : State, exec .warmReset s = .next r ∧ fresh r ∧ kept r) ∧
    (hostServed s = true → (∃ r : State, exec (.frstWarm 0) s = .next r ∧ fresh r ∧ kept r) ∧
      ∀ t, t ≠ 0 → exec (.frstWarm t) s = .next s) ∧
    (∃ r : State, exec (.vfFunctionLevelReset 0) s = .next r ∧ fresh r ∧ kept r) ∧
    (∀ t, t ≠ 0 → ∃ r : State, exec (.vfFunctionLevelReset t) s = .next r ∧ r.fn t.toNat = .reset ∧
      (∀ l ∈ r.launches, l.fn ≠ t) ∧ ∀ k ∈ r.lease.tickets, k.tenant ≠ t) ∧
    (∀ ok, s.quartz.ready = false → s.quartz.recov = false → s.quartz.off = false → ∃ r : State, exec (.boot ok) s = .next r ∧
      r.quartz.ready = (!imagesRefused ok s) ∧ r.quartz.recov = imagesRefused ok s ∧ r.core = s.core ∧ r.hbm = s.hbm) ∧
    (∀ t : BitVec 5, ∃ r : State, exec (.configRequest t) s = .next r ∧ r.core = s.core ∧
      r.quartz.crs = !(s.quartz.ready || (s.quartz.recov && t == 0)))

/-- R44, R55, R106, R134: a step in which no device step is due and the core in focus may issue runs the instruction at its pc: `exec` of the
decoded word, then what the end of an issue does (the followers of the core are told; a core that waits or went back gives the other units a
turn), and time passes. A pc that is no multiple of 4
raises cause 0x01, a fetch outside the store cause 0x05, and a word that does not decode cause 0x02. That the other units have a
turn, and how much time passes, are the model's (logs 5 and 7). -/
def Obligations.StepRunsDecodedInstruction : Prop :=
  ∀ s : State, s.schedule = [] → s.inputs = [] → s.quartz.off = false → s.quartz.fatal = false → stopped s = false →
    s.core.stepDue = false → s.core.follow = none → s.core.stalled = false → boundary s = none → noPoint s = false →
    leaderHeld s = false → ownHazard s (issued s) = false →
    (s.core.pc.toNat % 4 ≠ 0 → step s = .next (passTime (settleIssue s (raise 1 s.core.pc s)))) ∧
    (s.core.pc.toNat % 4 = 0 → fetchWord s = none → step s = .next (passTime (settleIssue s (raise 5 s.core.pc s)))) ∧
    ∀ w, s.core.pc.toNat % 4 = 0 → fetchWord s = some w →
      (∀ e, decode w = .error e → step s = .next (passTime (settleIssue s (raise 2 w s)))) ∧
      ∀ i, decode w = .ok i →
        step s = andThen (exec i s) (fun t => passTime (settleIssue s t)) ∧
        ∀ t, exec i s = .next t → t.core.stalled = false → s.core.pc < (tell s t (some w)).core.pc →
          step s = .next (passTime (tell s t (some w)))

/-- R45, R48, R49 and the worked encodings of chapter 3: words written out from the encoding decode to the instruction they stand for, and
reserved ones are refused. -/
def Obligations.DecodedWords : Prop :=
  decode 0x296A1007 = .ok (.srai 11 10 7) ∧ decode 0x4540FFFC = .ok (.bne 10 0 0xFFFC) ∧
  decode 0x8CA83558 = .ok (.amoincb 5 8 6 2 3 false) ∧ decode 0xA822190E = .ok (.fma 1 2 3 4 7) ∧
  decode 0x84000100 = .ok (.swp 0 0 0x0100) ∧ decode 0x058A5801 = .ok (.sub 12 10 11) ∧
  decode 0x00000000 = .ok (.ill 0) ∧ (∀ w ∈ ([0xFFFFFFFF, 0x04000010, 0x8CA93558, 0x3C000000] : List Word), ∃ e, decode w = .error e)

/-- R45 to R51, R53: decoding and encoding agree. Every instruction that the encoding admits and that has a word decodes from it, with all
its operands; and every word that decodes is the word of the instruction it gives, so no two words stand for one instruction. -/
def Obligations.DecodeEncode : Prop :=
  (∀ (i : Instr) (w : Word), i.wellFormed = true → encode i = some w → decode w = .ok i) ∧
  (∀ (w : Word) (i : Instr), decode w = .ok i → encode i = some w ∧ i.wellFormed = true)

/-- The model's own invariant of memory (log 3): every step, with whatever instruction or device step it runs, leaves every memory of the
package in its canonical form, so that equal memories are equal data. -/
def Obligations.MemoryStaysCanonical : Prop :=
  ∀ s t : State, s.canonical → step s = .next t → t.canonical
end

