-- ==== Sys2Proof/Laws/Memory.lean ====
section
/-!
SUPPORT. The laws of memory: every operation keeps the canonical form, a read after a write gives what was written, a write leaves
every other byte alone, and two memories that read alike are equal.
-/

namespace Sys2Proof.Machine

/-- A memory whose addresses start at `hi` also starts at any lower address. -/
theorem Memory.wfFrom_mono {m : Memory} {lo hi : Nat} (h : lo ≤ hi) (w : Memory.wfFrom hi m = true) :
    Memory.wfFrom lo m = true := by
  cases m with
  | nil => rfl
  | cons e m =>
    obtain ⟨k, v⟩ := e
    simp only [Memory.wfFrom, Bool.and_eq_true, decide_eq_true_eq] at w ⊢
    exact ⟨⟨Nat.le_trans h w.1.1, w.1.2⟩, w.2⟩

/-- Below its first address a memory reads 0. -/
theorem Memory.get_below : ∀ {m : Memory} {lo a : Nat}, Memory.wfFrom lo m = true → a < lo → Memory.get m a = 0
  | [], _, _, _, _ => rfl
  | (k, v) :: m, lo, a, w, h => by
    simp only [Memory.wfFrom, Bool.and_eq_true, decide_eq_true_eq] at w
    have hk : k ≠ a := by omega
    simp only [Memory.get, hk, if_false]
    exact Memory.get_below w.2 (by omega)

/-- One byte written at or above `lo` keeps the form. -/
theorem Memory.wfFrom_set : ∀ {m : Memory} {lo a : Nat} {b : Byte}, Memory.wfFrom lo m = true → lo ≤ a →
    Memory.wfFrom lo (m.set a b) = true
  | [], lo, a, b, _, h => by
    by_cases hb : b = 0#8
    · simp [Memory.set, Memory.wfFrom, hb]
    · simp [Memory.set, Memory.wfFrom, hb, h]
  | (k, v) :: m, lo, a, b, w, h => by
    simp only [Memory.wfFrom, Bool.and_eq_true, decide_eq_true_eq] at w
    obtain ⟨⟨hk, hv⟩, hm⟩ := w
    have hv : ¬ v = 0#8 := by simpa using hv
    simp only [Memory.set]
    by_cases h1 : a < k
    · by_cases hb : b = 0#8
      · simp [h1, hb, Memory.wfFrom, hk, hm, hv]
      · have hak : a + 1 ≤ k := h1
        simp [h1, hb, Memory.wfFrom, h, hak, hm, hv]
    · by_cases h2 : a = k
      · by_cases hb : b = 0#8
        · simp only [h2, hb, if_true, if_false, Nat.lt_irrefl]
          exact Memory.wfFrom_mono (by omega) hm
        · subst h2
          simp [hb, Memory.wfFrom, h, hm]
      · have := Memory.wfFrom_set (b := b) hm (show k + 1 ≤ a by omega)
        simp [h1, h2, Memory.wfFrom, hk, hv, this]

/-- What a byte reads as after a write of one byte. -/
theorem Memory.get_set_from : ∀ {m : Memory} {lo : Nat} (a x : Nat) (b : Byte), Memory.wfFrom lo m = true →
    Memory.get (m.set a b) x = if x = a then b else Memory.get m x
  | [], _, a, x, b, _ => by
    by_cases hx : x = a
    · by_cases hb : b = 0#8 <;> simp [Memory.set, Memory.get, hb, hx]
    · by_cases hb : b = 0#8 <;> simp [Memory.set, Memory.get, hb, hx, Ne.symm hx]
  | (k, v) :: m, lo, a, x, b, w => by
    simp only [Memory.wfFrom, Bool.and_eq_true, decide_eq_true_eq] at w
    obtain ⟨⟨hk, hv⟩, hm⟩ := w
    simp only [Memory.set]
    by_cases h1 : a < k
    · by_cases hx : x = a
      · subst hx
        have h0 : Memory.get m x = 0 := Memory.get_below hm (by omega)
        have hkx : k ≠ x := by omega
        by_cases hb : b = 0#8
        · simp [h1, hb, Memory.get, hkx, h0]
        · simp [h1, hb, Memory.get]
      · by_cases hb : b = 0#8
        · simp [h1, hb, hx]
        · simp [h1, hb, Memory.get, hx, Ne.symm hx]
    · by_cases h2 : a = k
      · subst h2
        by_cases hx : x = a
        · subst hx
          have h0 : Memory.get m x = 0 := Memory.get_below hm (by omega)
          by_cases hb : b = 0#8 <;> simp [hb, Memory.get, h0]
        · by_cases hb : b = 0#8 <;> simp [hb, Memory.get, hx, Ne.symm hx]
      · have ih := Memory.get_set_from a x b hm
        by_cases hkx : k = x
        · subst hkx
          simp [h1, h2, Memory.get, Ne.symm h2]
        · simp [h1, h2, Memory.get, hkx, ih]

/-- One byte written keeps the canonical form. -/
theorem Memory.wf_set {m : Memory} (a : Nat) (b : Byte) (w : m.wf = true) : (m.set a b).wf = true :=
  Memory.wfFrom_set w (Nat.zero_le a)

/-- A byte reads as what was last written there, and no other byte changes. -/
theorem Memory.get_set {m : Memory} (a x : Nat) (b : Byte) (w : m.wf = true) :
    Memory.get (m.set a b) x = if x = a then b else Memory.get m x := Memory.get_set_from a x b w

/-- Bytes written keep the canonical form. -/
theorem Memory.wf_put : ∀ {m : Memory} (a : Nat) (l : List Byte), m.wf = true → (m.put a l).wf = true
  | _, _, [], w => w
  | _, a, b :: l, w => Memory.wf_put (a + 1) l (Memory.wf_set a b w)

/-- What a byte reads as after a write of several. -/
theorem Memory.get_put : ∀ {m : Memory} (a x : Nat) (l : List Byte), m.wf = true →
    Memory.get (m.put a l) x = if a ≤ x ∧ x < a + l.length then (l[x - a]?).getD 0 else Memory.get m x
  | m, a, x, [], _ => by
    have : ¬ (a ≤ x ∧ x < a + ([] : List Byte).length) := by simp only [List.length_nil]; omega
    simp only [Memory.put, this, if_false]
  | m, a, x, b :: l, w => by
    simp only [Memory.put, List.length_cons]
    rw [Memory.get_put (a + 1) x l (Memory.wf_set a b w), Memory.get_set a x b w]
    by_cases h : a + 1 ≤ x ∧ x < a + 1 + l.length
    · have h' : a ≤ x ∧ x < a + (l.length + 1) := by omega
      have e : x - a = (x - (a + 1)) + 1 := by omega
      simp only [h, h', and_self, if_true, e, List.getElem?_cons_succ]
    · by_cases hx : x = a
      · subst hx
        have h' : x ≤ x ∧ x < x + (l.length + 1) := by omega
        rw [if_neg h, if_pos rfl, if_pos h', Nat.sub_self]
        rfl
      · have h' : ¬ (a ≤ x ∧ x < a + (l.length + 1)) := by omega
        simp only [h, h', hx, if_false]

/-- A number written keeps the canonical form. -/
theorem Memory.wf_write {m : Memory} (a n v : Nat) (w : m.wf = true) : (m.write a n v).wf = true := Memory.wf_put a _ w

/-- A word written keeps the canonical form. -/
theorem Memory.wf_putWord {m : Memory} (a : Nat) (v : Word) (w : m.wf = true) : (m.putWord a v).wf = true :=
  Memory.wf_write a 4 _ w

/-- Entries left out keep the form. -/
theorem Memory.wfFrom_filter (p : Host.Cell → Bool) : ∀ {m : Memory} {lo : Nat}, Memory.wfFrom lo m = true →
    Memory.wfFrom lo (m.filter p) = true
  | [], _, _ => rfl
  | (k, v) :: m, lo, w => by
    simp only [Memory.wfFrom, Bool.and_eq_true, decide_eq_true_eq] at w
    obtain ⟨⟨hk, hv⟩, hm⟩ := w
    have ih := Memory.wfFrom_filter p hm
    have hv : ¬ v = 0#8 := by simpa using hv
    simp only [List.filter_cons]
    cases p (k, v) with
    | true => simp [Memory.wfFrom, hk, hv, ih]
    | false => exact Memory.wfFrom_mono (by omega) ih

/-- Clearing keeps the canonical form. -/
theorem Memory.wf_clear {m : Memory} (a n : Nat) (w : m.wf = true) : (m.clear a n).wf = true := Memory.wfFrom_filter _ w

/-- Two memories, the first below `k` and the second from `k` on, join to a canonical one. -/
theorem Memory.wfFrom_append {k : Nat} {n : Memory} (hn : Memory.wfFrom k n = true) : ∀ {m : Memory} {lo : Nat},
    Memory.wfFrom lo m = true → lo ≤ k → (∀ e ∈ m, e.1 < k) → Memory.wfFrom lo (m ++ n) = true
  | [], _, _, hk, _ => Memory.wfFrom_mono hk hn
  | (a, v) :: m, lo, w, hk, hb => by
    simp only [Memory.wfFrom, Bool.and_eq_true] at w
    have ha : a < k := hb (a, v) (by simp)
    simp only [List.cons_append, Memory.wfFrom, Bool.and_eq_true]
    exact ⟨w.1, Memory.wfFrom_append hn w.2 (by omega) fun e he => hb e (by simp [he])⟩

/-- The entries of a canonical memory from `k` on are canonical from `k`. -/
theorem Memory.wfFrom_from (k : Nat) : ∀ {m : Memory} {lo : Nat}, Memory.wfFrom lo m = true →
    Memory.wfFrom k (m.filter fun e => decide (k ≤ e.1)) = true
  | [], _, _ => rfl
  | (a, v) :: m, lo, w => by
    simp only [Memory.wfFrom, Bool.and_eq_true] at w
    simp only [List.filter_cons]
    by_cases h : k ≤ a
    · simp only [h, decide_true, if_true, Memory.wfFrom, Bool.and_eq_true, true_and]
      exact ⟨w.1.2, Memory.wfFrom_filter _ w.2⟩
    · simp only [h, decide_false, Bool.false_eq_true, if_false]
      exact Memory.wfFrom_from k w.2

/-- Taking a range of addresses from another memory keeps the canonical form. -/
theorem Memory.wf_splice {m n : Memory} {lo hi : Nat} (h : lo ≤ hi) (wm : m.wf = true) (wn : n.wf = true) :
    (m.splice n lo hi).wf = true := by
  have h1 : Memory.wfFrom hi (m.filter fun e => decide (hi ≤ e.1)) = true := Memory.wfFrom_from hi wm
  have h2 : Memory.wfFrom lo (n.filter fun e => decide (lo ≤ e.1) && decide (e.1 < hi)) = true := by
    have := Memory.wfFrom_filter (fun e => decide (e.1 < hi)) (Memory.wfFrom_from lo wn)
    rw [List.filter_filter] at this
    simpa [Bool.and_comm] using this
  rw [Memory.splice, List.append_assoc]
  refine Memory.wfFrom_append (k := lo) (Memory.wfFrom_append h1 h2 h ?_) (Memory.wfFrom_filter _ wm) (Nat.zero_le _) ?_ <;>
    simp [List.mem_filter]

/-- What a byte reads as after a range was cleared. -/
theorem Memory.get_clear (a n x : Nat) : ∀ (m : Memory),
    Memory.get (m.clear a n) x = if a ≤ x ∧ x < a + n then 0 else Memory.get m x
  | [] => by simp [Memory.clear, Memory.get]
  | (k, v) :: m => by
    have ih : Memory.get (m.filter fun e => decide (e.1 < a) || decide (a + n ≤ e.1)) x = _ := Memory.get_clear a n x m
    simp only [Memory.clear, List.filter_cons]
    by_cases hk : k < a ∨ a + n ≤ k
    · have hp : (decide (k < a) || decide (a + n ≤ k)) = true := by simpa using hk
      simp only [hp, if_true, Memory.get]
      by_cases hx : k = x
      · subst hx
        have : ¬ (a ≤ k ∧ k < a + n) := by omega
        simp [this]
      · simp only [hx, if_false, ih]
    · have hp : (decide (k < a) || decide (a + n ≤ k)) = false := by
        simp only [Bool.or_eq_false_iff, decide_eq_false_iff_not]; omega
      simp only [hp, Memory.get]
      by_cases hx : k = x
      · subst hx
        have : a ≤ k ∧ k < a + n := by omega
        simpa [this] using ih
      · simpa [hx] using ih

/-- The empty memory is canonical, and so is every memory of the state after reset. -/
theorem Memory.wf_nil : Memory.wf [] = true := rfl

/-- Canonical memories that read alike are equal data. -/
theorem Memory.ext_from : ∀ {m m' : Memory} {lo : Nat}, Memory.wfFrom lo m = true → Memory.wfFrom lo m' = true →
    (∀ a, Memory.get m a = Memory.get m' a) → m = m'
  | [], [], _, _, _, _ => rfl
  | [], (k, v) :: m', _, _, w', h => by
    simp only [Memory.wfFrom, Bool.and_eq_true, bne_iff_ne] at w'
    have := h k
    simp only [Memory.get, if_true] at this
    exact absurd this.symm w'.1.2
  | (k, v) :: m, [], _, w, _, h => by
    simp only [Memory.wfFrom, Bool.and_eq_true, bne_iff_ne] at w
    have := h k
    simp only [Memory.get, if_true] at this
    exact absurd this w.1.2
  | (k, v) :: m, (k', v') :: m', lo, w, w', h => by
    simp only [Memory.wfFrom, Bool.and_eq_true, bne_iff_ne, decide_eq_true_eq] at w w'
    have hk : k = k' := by
      rcases Nat.lt_trichotomy k k' with c | c | c
      · have e := h k
        have : k' ≠ k := by omega
        simp only [Memory.get, if_true, this, if_false] at e
        rw [Memory.get_below w'.2 (show k < k' + 1 by omega)] at e
        exact absurd e w.1.2
      · exact c
      · have e := h k'
        have : k ≠ k' := by omega
        simp only [Memory.get, if_true, this, if_false] at e
        rw [Memory.get_below w.2 (show k' < k + 1 by omega)] at e
        exact absurd e.symm w'.1.2
    subst hk
    have hv : v = v' := by have := h k; simpa [Memory.get] using this
    subst hv
    have hm : m = m' := Memory.ext_from w.2 w'.2 fun a => by
      by_cases c : k = a
      · subst c
        rw [Memory.get_below w.2 (by omega), Memory.get_below w'.2 (by omega)]
      · have := h a
        simpa [Memory.get, c] using this
    rw [hm]

/-- The memories of a core and of a cluster unit are in their canonical form at reset. -/
theorem Core.reset_canonical (id : BitVec 21) : (Core.reset id).canonical := ⟨rfl, rfl, rfl⟩

theorem Cluster.reset_canonical (k : Nat) : (Cluster.reset k).canonical := ⟨rfl, rfl, rfl⟩

end Sys2Proof.Machine
end

