-- ==== Sys2Proof/Laws/State.lean ====
section
/-!
SUPPORT. One lemma for each field and each update of the state: what the update writes, and that it leaves the rest.
-/

namespace Sys2Proof.Machine
open Sys2Proof

/-! ## The core in focus changed -/

@[simp] theorem State.mapCore_core (s : State) (f : Core → Core) : (s.mapCore f).core = f s.core := rfl
@[simp] theorem State.mapCore_others (s : State) (f : Core → Core) : (s.mapCore f).others = s.others := rfl
@[simp] theorem State.mapCore_unit (s : State) (f : Core → Core) : (s.mapCore f).unit = s.unit := rfl
@[simp] theorem State.mapCore_units (s : State) (f : Core → Core) : (s.mapCore f).units = s.units := rfl
@[simp] theorem State.mapCore_launches (s : State) (f : Core → Core) : (s.mapCore f).launches = s.launches := rfl
@[simp] theorem State.mapCore_fns (s : State) (f : Core → Core) : (s.mapCore f).fns = s.fns := rfl
@[simp] theorem State.mapCore_hbm (s : State) (f : Core → Core) : (s.mapCore f).hbm = s.hbm := rfl
@[simp] theorem State.mapCore_blocks (s : State) (f : Core → Core) : (s.mapCore f).blocks = s.blocks := rfl
@[simp] theorem State.mapCore_commit (s : State) (f : Core → Core) : (s.mapCore f).commit = s.commit := rfl
@[simp] theorem State.mapCore_sliceJrn (s : State) (f : Core → Core) : (s.mapCore f).sliceJrn = s.sliceJrn := rfl
@[simp] theorem State.mapCore_syncTab (s : State) (f : Core → Core) : (s.mapCore f).syncTab = s.syncTab := rfl
@[simp] theorem State.mapCore_atc (s : State) (f : Core → Core) : (s.mapCore f).atc = s.atc := rfl
@[simp] theorem State.mapCore_walks (s : State) (f : Core → Core) : (s.mapCore f).walks = s.walks := rfl
@[simp] theorem State.mapCore_fabric (s : State) (f : Core → Core) : (s.mapCore f).fabric = s.fabric := rfl
@[simp] theorem State.mapCore_lightOut (s : State) (f : Core → Core) : (s.mapCore f).lightOut = s.lightOut := rfl
@[simp] theorem State.mapCore_lightIn (s : State) (f : Core → Core) : (s.mapCore f).lightIn = s.lightIn := rfl
@[simp] theorem State.mapCore_away (s : State) (f : Core → Core) : (s.mapCore f).away = s.away := rfl
@[simp] theorem State.mapCore_lease (s : State) (f : Core → Core) : (s.mapCore f).lease = s.lease := rfl
@[simp] theorem State.mapCore_flint (s : State) (f : Core → Core) : (s.mapCore f).flint = s.flint := rfl
@[simp] theorem State.mapCore_quartz (s : State) (f : Core → Core) : (s.mapCore f).quartz = s.quartz := rfl
@[simp] theorem State.mapCore_cycle (s : State) (f : Core → Core) : (s.mapCore f).cycle = s.cycle := rfl
@[simp] theorem State.mapCore_inputs (s : State) (f : Core → Core) : (s.mapCore f).inputs = s.inputs := rfl
@[simp] theorem State.mapCore_schedule (s : State) (f : Core → Core) : (s.mapCore f).schedule = s.schedule := rfl
@[simp] theorem State.mapCore_free (s : State) (f : Core → Core) : (s.mapCore f).free = s.free := rfl

/-! ## The CSRs of the core in focus changed -/

@[simp] theorem State.mapCsr_core_csr (s : State) (f : Csrs → Csrs) : (s.mapCsr f).core.csr = f s.core.csr := rfl
@[simp] theorem State.mapCsr_core_id (s : State) (f : Csrs → Csrs) : (s.mapCsr f).core.id = s.core.id := rfl
@[simp] theorem State.mapCsr_core_mode (s : State) (f : Csrs → Csrs) : (s.mapCsr f).core.mode = s.core.mode := rfl
@[simp] theorem State.mapCsr_core_halt (s : State) (f : Csrs → Csrs) : (s.mapCsr f).core.halt = s.core.halt := rfl
@[simp] theorem State.mapCsr_core_stalled (s : State) (f : Csrs → Csrs) : (s.mapCsr f).core.stalled = s.core.stalled := rfl
@[simp] theorem State.mapCsr_core_point (s : State) (f : Csrs → Csrs) : (s.mapCsr f).core.point = s.core.point := rfl
@[simp] theorem State.mapCsr_core_x (s : State) (f : Csrs → Csrs) : (s.mapCsr f).core.x = s.core.x := rfl
@[simp] theorem State.mapCsr_core_f (s : State) (f : Csrs → Csrs) : (s.mapCsr f).core.f = s.core.f := rfl
@[simp] theorem State.mapCsr_core_shadow (s : State) (f : Csrs → Csrs) : (s.mapCsr f).core.shadow = s.core.shadow := rfl
@[simp] theorem State.mapCsr_core_pc (s : State) (f : Csrs → Csrs) : (s.mapCsr f).core.pc = s.core.pc := rfl
@[simp] theorem State.mapCsr_core_loop (s : State) (f : Csrs → Csrs) : (s.mapCsr f).core.loop = s.core.loop := rfl
@[simp] theorem State.mapCsr_core_loopUser (s : State) (f : Csrs → Csrs) : (s.mapCsr f).core.loopUser = s.core.loopUser := rfl
@[simp] theorem State.mapCsr_core_loopSup (s : State) (f : Csrs → Csrs) : (s.mapCsr f).core.loopSup = s.core.loopSup := rfl
@[simp] theorem State.mapCsr_core_dpc (s : State) (f : Csrs → Csrs) : (s.mapCsr f).core.dpc = s.core.dpc := rfl
@[simp] theorem State.mapCsr_core_ecause (s : State) (f : Csrs → Csrs) : (s.mapCsr f).core.ecause = s.core.ecause := rfl
@[simp] theorem State.mapCsr_core_eval (s : State) (f : Csrs → Csrs) : (s.mapCsr f).core.eval = s.core.eval := rfl
@[simp] theorem State.mapCsr_core_decl (s : State) (f : Csrs → Csrs) : (s.mapCsr f).core.decl = s.core.decl := rfl
@[simp] theorem State.mapCsr_core_escWaits (s : State) (f : Csrs → Csrs) : (s.mapCsr f).core.escWaits = s.core.escWaits := rfl
@[simp] theorem State.mapCsr_core_escServing (s : State) (f : Csrs → Csrs) : (s.mapCsr f).core.escServing = s.core.escServing := rfl
@[simp] theorem State.mapCsr_core_stepDue (s : State) (f : Csrs → Csrs) : (s.mapCsr f).core.stepDue = s.core.stepDue := rfl
@[simp] theorem State.mapCsr_core_stepCmd (s : State) (f : Csrs → Csrs) : (s.mapCsr f).core.stepCmd = s.core.stepCmd := rfl
@[simp] theorem State.mapCsr_core_waitMark (s : State) (f : Csrs → Csrs) : (s.mapCsr f).core.waitMark = s.core.waitMark := rfl
@[simp] theorem State.mapCsr_core_mcheck (s : State) (f : Csrs → Csrs) : (s.mapCsr f).core.mcheck = s.core.mcheck := rfl
@[simp] theorem State.mapCsr_core_reports (s : State) (f : Csrs → Csrs) : (s.mapCsr f).core.reports = s.core.reports := rfl
@[simp] theorem State.mapCsr_core_refusals (s : State) (f : Csrs → Csrs) : (s.mapCsr f).core.refusals = s.core.refusals := rfl
@[simp] theorem State.mapCsr_core_env (s : State) (f : Csrs → Csrs) : (s.mapCsr f).core.env = s.core.env := rfl
@[simp] theorem State.mapCsr_core_hnd (s : State) (f : Csrs → Csrs) : (s.mapCsr f).core.hnd = s.core.hnd := rfl
@[simp] theorem State.mapCsr_core_slots (s : State) (f : Csrs → Csrs) : (s.mapCsr f).core.slots = s.core.slots := rfl
@[simp] theorem State.mapCsr_core_pdesc (s : State) (f : Csrs → Csrs) : (s.mapCsr f).core.pdesc = s.core.pdesc := rfl
@[simp] theorem State.mapCsr_core_pseq (s : State) (f : Csrs → Csrs) : (s.mapCsr f).core.pseq = s.core.pseq := rfl
@[simp] theorem State.mapCsr_core_tags (s : State) (f : Csrs → Csrs) : (s.mapCsr f).core.tags = s.core.tags := rfl
@[simp] theorem State.mapCsr_core_sp (s : State) (f : Csrs → Csrs) : (s.mapCsr f).core.sp = s.core.sp := rfl
@[simp] theorem State.mapCsr_core_empty (s : State) (f : Csrs → Csrs) : (s.mapCsr f).core.empty = s.core.empty := rfl
@[simp] theorem State.mapCsr_core_remap (s : State) (f : Csrs → Csrs) : (s.mapCsr f).core.remap = s.core.remap := rfl
@[simp] theorem State.mapCsr_core_pool (s : State) (f : Csrs → Csrs) : (s.mapCsr f).core.pool = s.core.pool := rfl
@[simp] theorem State.mapCsr_core_imem (s : State) (f : Csrs → Csrs) : (s.mapCsr f).core.imem = s.core.imem := rfl
@[simp] theorem State.mapCsr_core_locks (s : State) (f : Csrs → Csrs) : (s.mapCsr f).core.locks = s.core.locks := rfl
@[simp] theorem State.mapCsr_core_deferred (s : State) (f : Csrs → Csrs) : (s.mapCsr f).core.deferred = s.core.deferred := rfl
@[simp] theorem State.mapCsr_core_handed (s : State) (f : Csrs → Csrs) : (s.mapCsr f).core.handed = s.core.handed := rfl
@[simp] theorem State.mapCsr_core_streams (s : State) (f : Csrs → Csrs) : (s.mapCsr f).core.streams = s.core.streams := rfl
@[simp] theorem State.mapCsr_core_sseq (s : State) (f : Csrs → Csrs) : (s.mapCsr f).core.sseq = s.core.sseq := rfl
@[simp] theorem State.mapCsr_core_siter (s : State) (f : Csrs → Csrs) : (s.mapCsr f).core.siter = s.core.siter := rfl
@[simp] theorem State.mapCsr_core_seqs (s : State) (f : Csrs → Csrs) : (s.mapCsr f).core.seqs = s.core.seqs := rfl
@[simp] theorem State.mapCsr_core_mx (s : State) (f : Csrs → Csrs) : (s.mapCsr f).core.mx = s.core.mx := rfl
@[simp] theorem State.mapCsr_core_cp (s : State) (f : Csrs → Csrs) : (s.mapCsr f).core.cp = s.core.cp := rfl
@[simp] theorem State.mapCsr_core_ni (s : State) (f : Csrs → Csrs) : (s.mapCsr f).core.ni = s.core.ni := rfl
@[simp] theorem State.mapCsr_core_layouts (s : State) (f : Csrs → Csrs) : (s.mapCsr f).core.layouts = s.core.layouts := rfl
@[simp] theorem State.mapCsr_core_jrn (s : State) (f : Csrs → Csrs) : (s.mapCsr f).core.jrn = s.core.jrn := rfl
@[simp] theorem State.mapCsr_core_handlerEnded (s : State) (f : Csrs → Csrs) : (s.mapCsr f).core.handlerEnded = s.core.handlerEnded := rfl
@[simp] theorem State.mapCsr_core_blockSaved (s : State) (f : Csrs → Csrs) : (s.mapCsr f).core.blockSaved = s.core.blockSaved := rfl
@[simp] theorem State.mapCsr_core_follow (s : State) (f : Csrs → Csrs) : (s.mapCsr f).core.follow = s.core.follow := rfl
@[simp] theorem State.mapCsr_core_followLate (s : State) (f : Csrs → Csrs) : (s.mapCsr f).core.followLate = s.core.followLate := rfl
@[simp] theorem State.mapCsr_core_lag (s : State) (f : Csrs → Csrs) : (s.mapCsr f).core.lag = s.core.lag := rfl
@[simp] theorem State.mapCsr_core_sig (s : State) (f : Csrs → Csrs) : (s.mapCsr f).core.sig = s.core.sig := rfl
@[simp] theorem State.mapCsr_others (s : State) (f : Csrs → Csrs) : (s.mapCsr f).others = s.others := rfl
@[simp] theorem State.mapCsr_unit (s : State) (f : Csrs → Csrs) : (s.mapCsr f).unit = s.unit := rfl
@[simp] theorem State.mapCsr_units (s : State) (f : Csrs → Csrs) : (s.mapCsr f).units = s.units := rfl
@[simp] theorem State.mapCsr_launches (s : State) (f : Csrs → Csrs) : (s.mapCsr f).launches = s.launches := rfl
@[simp] theorem State.mapCsr_fns (s : State) (f : Csrs → Csrs) : (s.mapCsr f).fns = s.fns := rfl
@[simp] theorem State.mapCsr_hbm (s : State) (f : Csrs → Csrs) : (s.mapCsr f).hbm = s.hbm := rfl
@[simp] theorem State.mapCsr_blocks (s : State) (f : Csrs → Csrs) : (s.mapCsr f).blocks = s.blocks := rfl
@[simp] theorem State.mapCsr_commit (s : State) (f : Csrs → Csrs) : (s.mapCsr f).commit = s.commit := rfl
@[simp] theorem State.mapCsr_sliceJrn (s : State) (f : Csrs → Csrs) : (s.mapCsr f).sliceJrn = s.sliceJrn := rfl
@[simp] theorem State.mapCsr_syncTab (s : State) (f : Csrs → Csrs) : (s.mapCsr f).syncTab = s.syncTab := rfl
@[simp] theorem State.mapCsr_atc (s : State) (f : Csrs → Csrs) : (s.mapCsr f).atc = s.atc := rfl
@[simp] theorem State.mapCsr_walks (s : State) (f : Csrs → Csrs) : (s.mapCsr f).walks = s.walks := rfl
@[simp] theorem State.mapCsr_fabric (s : State) (f : Csrs → Csrs) : (s.mapCsr f).fabric = s.fabric := rfl
@[simp] theorem State.mapCsr_lightOut (s : State) (f : Csrs → Csrs) : (s.mapCsr f).lightOut = s.lightOut := rfl
@[simp] theorem State.mapCsr_lightIn (s : State) (f : Csrs → Csrs) : (s.mapCsr f).lightIn = s.lightIn := rfl
@[simp] theorem State.mapCsr_away (s : State) (f : Csrs → Csrs) : (s.mapCsr f).away = s.away := rfl
@[simp] theorem State.mapCsr_lease (s : State) (f : Csrs → Csrs) : (s.mapCsr f).lease = s.lease := rfl
@[simp] theorem State.mapCsr_flint (s : State) (f : Csrs → Csrs) : (s.mapCsr f).flint = s.flint := rfl
@[simp] theorem State.mapCsr_quartz (s : State) (f : Csrs → Csrs) : (s.mapCsr f).quartz = s.quartz := rfl
@[simp] theorem State.mapCsr_cycle (s : State) (f : Csrs → Csrs) : (s.mapCsr f).cycle = s.cycle := rfl
@[simp] theorem State.mapCsr_inputs (s : State) (f : Csrs → Csrs) : (s.mapCsr f).inputs = s.inputs := rfl
@[simp] theorem State.mapCsr_schedule (s : State) (f : Csrs → Csrs) : (s.mapCsr f).schedule = s.schedule := rfl
@[simp] theorem State.mapCsr_free (s : State) (f : Csrs → Csrs) : (s.mapCsr f).free = s.free := rfl

/-! ## The network interface of the core in focus changed -/

@[simp] theorem State.mapNi_core_ni (s : State) (f : NetIf → NetIf) : (s.mapNi f).core.ni = f s.core.ni := rfl
@[simp] theorem State.mapNi_core_id (s : State) (f : NetIf → NetIf) : (s.mapNi f).core.id = s.core.id := rfl
@[simp] theorem State.mapNi_core_mode (s : State) (f : NetIf → NetIf) : (s.mapNi f).core.mode = s.core.mode := rfl
@[simp] theorem State.mapNi_core_halt (s : State) (f : NetIf → NetIf) : (s.mapNi f).core.halt = s.core.halt := rfl
@[simp] theorem State.mapNi_core_stalled (s : State) (f : NetIf → NetIf) : (s.mapNi f).core.stalled = s.core.stalled := rfl
@[simp] theorem State.mapNi_core_point (s : State) (f : NetIf → NetIf) : (s.mapNi f).core.point = s.core.point := rfl
@[simp] theorem State.mapNi_core_x (s : State) (f : NetIf → NetIf) : (s.mapNi f).core.x = s.core.x := rfl
@[simp] theorem State.mapNi_core_f (s : State) (f : NetIf → NetIf) : (s.mapNi f).core.f = s.core.f := rfl
@[simp] theorem State.mapNi_core_shadow (s : State) (f : NetIf → NetIf) : (s.mapNi f).core.shadow = s.core.shadow := rfl
@[simp] theorem State.mapNi_core_pc (s : State) (f : NetIf → NetIf) : (s.mapNi f).core.pc = s.core.pc := rfl
@[simp] theorem State.mapNi_core_loop (s : State) (f : NetIf → NetIf) : (s.mapNi f).core.loop = s.core.loop := rfl
@[simp] theorem State.mapNi_core_loopUser (s : State) (f : NetIf → NetIf) : (s.mapNi f).core.loopUser = s.core.loopUser := rfl
@[simp] theorem State.mapNi_core_loopSup (s : State) (f : NetIf → NetIf) : (s.mapNi f).core.loopSup = s.core.loopSup := rfl
@[simp] theorem State.mapNi_core_csr (s : State) (f : NetIf → NetIf) : (s.mapNi f).core.csr = s.core.csr := rfl
@[simp] theorem State.mapNi_core_dpc (s : State) (f : NetIf → NetIf) : (s.mapNi f).core.dpc = s.core.dpc := rfl
@[simp] theorem State.mapNi_core_ecause (s : State) (f : NetIf → NetIf) : (s.mapNi f).core.ecause = s.core.ecause := rfl
@[simp] theorem State.mapNi_core_eval (s : State) (f : NetIf → NetIf) : (s.mapNi f).core.eval = s.core.eval := rfl
@[simp] theorem State.mapNi_core_decl (s : State) (f : NetIf → NetIf) : (s.mapNi f).core.decl = s.core.decl := rfl
@[simp] theorem State.mapNi_core_escWaits (s : State) (f : NetIf → NetIf) : (s.mapNi f).core.escWaits = s.core.escWaits := rfl
@[simp] theorem State.mapNi_core_escServing (s : State) (f : NetIf → NetIf) : (s.mapNi f).core.escServing = s.core.escServing := rfl
@[simp] theorem State.mapNi_core_stepDue (s : State) (f : NetIf → NetIf) : (s.mapNi f).core.stepDue = s.core.stepDue := rfl
@[simp] theorem State.mapNi_core_stepCmd (s : State) (f : NetIf → NetIf) : (s.mapNi f).core.stepCmd = s.core.stepCmd := rfl
@[simp] theorem State.mapNi_core_waitMark (s : State) (f : NetIf → NetIf) : (s.mapNi f).core.waitMark = s.core.waitMark := rfl
@[simp] theorem State.mapNi_core_mcheck (s : State) (f : NetIf → NetIf) : (s.mapNi f).core.mcheck = s.core.mcheck := rfl
@[simp] theorem State.mapNi_core_reports (s : State) (f : NetIf → NetIf) : (s.mapNi f).core.reports = s.core.reports := rfl
@[simp] theorem State.mapNi_core_refusals (s : State) (f : NetIf → NetIf) : (s.mapNi f).core.refusals = s.core.refusals := rfl
@[simp] theorem State.mapNi_core_env (s : State) (f : NetIf → NetIf) : (s.mapNi f).core.env = s.core.env := rfl
@[simp] theorem State.mapNi_core_hnd (s : State) (f : NetIf → NetIf) : (s.mapNi f).core.hnd = s.core.hnd := rfl
@[simp] theorem State.mapNi_core_slots (s : State) (f : NetIf → NetIf) : (s.mapNi f).core.slots = s.core.slots := rfl
@[simp] theorem State.mapNi_core_pdesc (s : State) (f : NetIf → NetIf) : (s.mapNi f).core.pdesc = s.core.pdesc := rfl
@[simp] theorem State.mapNi_core_pseq (s : State) (f : NetIf → NetIf) : (s.mapNi f).core.pseq = s.core.pseq := rfl
@[simp] theorem State.mapNi_core_tags (s : State) (f : NetIf → NetIf) : (s.mapNi f).core.tags = s.core.tags := rfl
@[simp] theorem State.mapNi_core_sp (s : State) (f : NetIf → NetIf) : (s.mapNi f).core.sp = s.core.sp := rfl
@[simp] theorem State.mapNi_core_empty (s : State) (f : NetIf → NetIf) : (s.mapNi f).core.empty = s.core.empty := rfl
@[simp] theorem State.mapNi_core_remap (s : State) (f : NetIf → NetIf) : (s.mapNi f).core.remap = s.core.remap := rfl
@[simp] theorem State.mapNi_core_pool (s : State) (f : NetIf → NetIf) : (s.mapNi f).core.pool = s.core.pool := rfl
@[simp] theorem State.mapNi_core_imem (s : State) (f : NetIf → NetIf) : (s.mapNi f).core.imem = s.core.imem := rfl
@[simp] theorem State.mapNi_core_locks (s : State) (f : NetIf → NetIf) : (s.mapNi f).core.locks = s.core.locks := rfl
@[simp] theorem State.mapNi_core_deferred (s : State) (f : NetIf → NetIf) : (s.mapNi f).core.deferred = s.core.deferred := rfl
@[simp] theorem State.mapNi_core_handed (s : State) (f : NetIf → NetIf) : (s.mapNi f).core.handed = s.core.handed := rfl
@[simp] theorem State.mapNi_core_streams (s : State) (f : NetIf → NetIf) : (s.mapNi f).core.streams = s.core.streams := rfl
@[simp] theorem State.mapNi_core_sseq (s : State) (f : NetIf → NetIf) : (s.mapNi f).core.sseq = s.core.sseq := rfl
@[simp] theorem State.mapNi_core_siter (s : State) (f : NetIf → NetIf) : (s.mapNi f).core.siter = s.core.siter := rfl
@[simp] theorem State.mapNi_core_seqs (s : State) (f : NetIf → NetIf) : (s.mapNi f).core.seqs = s.core.seqs := rfl
@[simp] theorem State.mapNi_core_mx (s : State) (f : NetIf → NetIf) : (s.mapNi f).core.mx = s.core.mx := rfl
@[simp] theorem State.mapNi_core_cp (s : State) (f : NetIf → NetIf) : (s.mapNi f).core.cp = s.core.cp := rfl
@[simp] theorem State.mapNi_core_layouts (s : State) (f : NetIf → NetIf) : (s.mapNi f).core.layouts = s.core.layouts := rfl
@[simp] theorem State.mapNi_core_jrn (s : State) (f : NetIf → NetIf) : (s.mapNi f).core.jrn = s.core.jrn := rfl
@[simp] theorem State.mapNi_core_handlerEnded (s : State) (f : NetIf → NetIf) : (s.mapNi f).core.handlerEnded = s.core.handlerEnded := rfl
@[simp] theorem State.mapNi_core_blockSaved (s : State) (f : NetIf → NetIf) : (s.mapNi f).core.blockSaved = s.core.blockSaved := rfl
@[simp] theorem State.mapNi_core_follow (s : State) (f : NetIf → NetIf) : (s.mapNi f).core.follow = s.core.follow := rfl
@[simp] theorem State.mapNi_core_followLate (s : State) (f : NetIf → NetIf) : (s.mapNi f).core.followLate = s.core.followLate := rfl
@[simp] theorem State.mapNi_core_lag (s : State) (f : NetIf → NetIf) : (s.mapNi f).core.lag = s.core.lag := rfl
@[simp] theorem State.mapNi_core_sig (s : State) (f : NetIf → NetIf) : (s.mapNi f).core.sig = s.core.sig := rfl
@[simp] theorem State.mapNi_others (s : State) (f : NetIf → NetIf) : (s.mapNi f).others = s.others := rfl
@[simp] theorem State.mapNi_unit (s : State) (f : NetIf → NetIf) : (s.mapNi f).unit = s.unit := rfl
@[simp] theorem State.mapNi_units (s : State) (f : NetIf → NetIf) : (s.mapNi f).units = s.units := rfl
@[simp] theorem State.mapNi_launches (s : State) (f : NetIf → NetIf) : (s.mapNi f).launches = s.launches := rfl
@[simp] theorem State.mapNi_fns (s : State) (f : NetIf → NetIf) : (s.mapNi f).fns = s.fns := rfl
@[simp] theorem State.mapNi_hbm (s : State) (f : NetIf → NetIf) : (s.mapNi f).hbm = s.hbm := rfl
@[simp] theorem State.mapNi_blocks (s : State) (f : NetIf → NetIf) : (s.mapNi f).blocks = s.blocks := rfl
@[simp] theorem State.mapNi_commit (s : State) (f : NetIf → NetIf) : (s.mapNi f).commit = s.commit := rfl
@[simp] theorem State.mapNi_sliceJrn (s : State) (f : NetIf → NetIf) : (s.mapNi f).sliceJrn = s.sliceJrn := rfl
@[simp] theorem State.mapNi_syncTab (s : State) (f : NetIf → NetIf) : (s.mapNi f).syncTab = s.syncTab := rfl
@[simp] theorem State.mapNi_atc (s : State) (f : NetIf → NetIf) : (s.mapNi f).atc = s.atc := rfl
@[simp] theorem State.mapNi_walks (s : State) (f : NetIf → NetIf) : (s.mapNi f).walks = s.walks := rfl
@[simp] theorem State.mapNi_fabric (s : State) (f : NetIf → NetIf) : (s.mapNi f).fabric = s.fabric := rfl
@[simp] theorem State.mapNi_lightOut (s : State) (f : NetIf → NetIf) : (s.mapNi f).lightOut = s.lightOut := rfl
@[simp] theorem State.mapNi_lightIn (s : State) (f : NetIf → NetIf) : (s.mapNi f).lightIn = s.lightIn := rfl
@[simp] theorem State.mapNi_away (s : State) (f : NetIf → NetIf) : (s.mapNi f).away = s.away := rfl
@[simp] theorem State.mapNi_lease (s : State) (f : NetIf → NetIf) : (s.mapNi f).lease = s.lease := rfl
@[simp] theorem State.mapNi_flint (s : State) (f : NetIf → NetIf) : (s.mapNi f).flint = s.flint := rfl
@[simp] theorem State.mapNi_quartz (s : State) (f : NetIf → NetIf) : (s.mapNi f).quartz = s.quartz := rfl
@[simp] theorem State.mapNi_cycle (s : State) (f : NetIf → NetIf) : (s.mapNi f).cycle = s.cycle := rfl
@[simp] theorem State.mapNi_inputs (s : State) (f : NetIf → NetIf) : (s.mapNi f).inputs = s.inputs := rfl
@[simp] theorem State.mapNi_schedule (s : State) (f : NetIf → NetIf) : (s.mapNi f).schedule = s.schedule := rfl
@[simp] theorem State.mapNi_free (s : State) (f : NetIf → NetIf) : (s.mapNi f).free = s.free := rfl

/-! ## The cluster unit in focus changed -/

@[simp] theorem State.mapUnit_unit (s : State) (f : Cluster → Cluster) : (s.mapUnit f).unit = f s.unit := rfl
@[simp] theorem State.mapUnit_core (s : State) (f : Cluster → Cluster) : (s.mapUnit f).core = s.core := rfl
@[simp] theorem State.mapUnit_others (s : State) (f : Cluster → Cluster) : (s.mapUnit f).others = s.others := rfl
@[simp] theorem State.mapUnit_units (s : State) (f : Cluster → Cluster) : (s.mapUnit f).units = s.units := rfl
@[simp] theorem State.mapUnit_launches (s : State) (f : Cluster → Cluster) : (s.mapUnit f).launches = s.launches := rfl
@[simp] theorem State.mapUnit_fns (s : State) (f : Cluster → Cluster) : (s.mapUnit f).fns = s.fns := rfl
@[simp] theorem State.mapUnit_hbm (s : State) (f : Cluster → Cluster) : (s.mapUnit f).hbm = s.hbm := rfl
@[simp] theorem State.mapUnit_blocks (s : State) (f : Cluster → Cluster) : (s.mapUnit f).blocks = s.blocks := rfl
@[simp] theorem State.mapUnit_commit (s : State) (f : Cluster → Cluster) : (s.mapUnit f).commit = s.commit := rfl
@[simp] theorem State.mapUnit_sliceJrn (s : State) (f : Cluster → Cluster) : (s.mapUnit f).sliceJrn = s.sliceJrn := rfl
@[simp] theorem State.mapUnit_syncTab (s : State) (f : Cluster → Cluster) : (s.mapUnit f).syncTab = s.syncTab := rfl
@[simp] theorem State.mapUnit_atc (s : State) (f : Cluster → Cluster) : (s.mapUnit f).atc = s.atc := rfl
@[simp] theorem State.mapUnit_walks (s : State) (f : Cluster → Cluster) : (s.mapUnit f).walks = s.walks := rfl
@[simp] theorem State.mapUnit_fabric (s : State) (f : Cluster → Cluster) : (s.mapUnit f).fabric = s.fabric := rfl
@[simp] theorem State.mapUnit_lightOut (s : State) (f : Cluster → Cluster) : (s.mapUnit f).lightOut = s.lightOut := rfl
@[simp] theorem State.mapUnit_lightIn (s : State) (f : Cluster → Cluster) : (s.mapUnit f).lightIn = s.lightIn := rfl
@[simp] theorem State.mapUnit_away (s : State) (f : Cluster → Cluster) : (s.mapUnit f).away = s.away := rfl
@[simp] theorem State.mapUnit_lease (s : State) (f : Cluster → Cluster) : (s.mapUnit f).lease = s.lease := rfl
@[simp] theorem State.mapUnit_flint (s : State) (f : Cluster → Cluster) : (s.mapUnit f).flint = s.flint := rfl
@[simp] theorem State.mapUnit_quartz (s : State) (f : Cluster → Cluster) : (s.mapUnit f).quartz = s.quartz := rfl
@[simp] theorem State.mapUnit_cycle (s : State) (f : Cluster → Cluster) : (s.mapUnit f).cycle = s.cycle := rfl
@[simp] theorem State.mapUnit_inputs (s : State) (f : Cluster → Cluster) : (s.mapUnit f).inputs = s.inputs := rfl
@[simp] theorem State.mapUnit_schedule (s : State) (f : Cluster → Cluster) : (s.mapUnit f).schedule = s.schedule := rfl
@[simp] theorem State.mapUnit_free (s : State) (f : Cluster → Cluster) : (s.mapUnit f).free = s.free := rfl

/-! ## An x register written -/

@[simp] theorem State.setX_core_id (s : State) (d : Reg) (v : Word) : (s.setX d v).core.id = s.core.id := by unfold State.setX; split <;> rfl
@[simp] theorem State.setX_core_mode (s : State) (d : Reg) (v : Word) : (s.setX d v).core.mode = s.core.mode := by unfold State.setX; split <;> rfl
@[simp] theorem State.setX_core_halt (s : State) (d : Reg) (v : Word) : (s.setX d v).core.halt = s.core.halt := by unfold State.setX; split <;> rfl
@[simp] theorem State.setX_core_stalled (s : State) (d : Reg) (v : Word) : (s.setX d v).core.stalled = s.core.stalled := by unfold State.setX; split <;> rfl
@[simp] theorem State.setX_core_point (s : State) (d : Reg) (v : Word) : (s.setX d v).core.point = s.core.point := by unfold State.setX; split <;> rfl
@[simp] theorem State.setX_core_f (s : State) (d : Reg) (v : Word) : (s.setX d v).core.f = s.core.f := by unfold State.setX; split <;> rfl
@[simp] theorem State.setX_core_shadow (s : State) (d : Reg) (v : Word) : (s.setX d v).core.shadow = s.core.shadow := by unfold State.setX; split <;> rfl
@[simp] theorem State.setX_core_pc (s : State) (d : Reg) (v : Word) : (s.setX d v).core.pc = s.core.pc := by unfold State.setX; split <;> rfl
@[simp] theorem State.setX_core_loop (s : State) (d : Reg) (v : Word) : (s.setX d v).core.loop = s.core.loop := by unfold State.setX; split <;> rfl
@[simp] theorem State.setX_core_loopUser (s : State) (d : Reg) (v : Word) : (s.setX d v).core.loopUser = s.core.loopUser := by unfold State.setX; split <;> rfl
@[simp] theorem State.setX_core_loopSup (s : State) (d : Reg) (v : Word) : (s.setX d v).core.loopSup = s.core.loopSup := by unfold State.setX; split <;> rfl
@[simp] theorem State.setX_core_csr (s : State) (d : Reg) (v : Word) : (s.setX d v).core.csr = s.core.csr := by unfold State.setX; split <;> rfl
@[simp] theorem State.setX_core_dpc (s : State) (d : Reg) (v : Word) : (s.setX d v).core.dpc = s.core.dpc := by unfold State.setX; split <;> rfl
@[simp] theorem State.setX_core_ecause (s : State) (d : Reg) (v : Word) : (s.setX d v).core.ecause = s.core.ecause := by unfold State.setX; split <;> rfl
@[simp] theorem State.setX_core_eval (s : State) (d : Reg) (v : Word) : (s.setX d v).core.eval = s.core.eval := by unfold State.setX; split <;> rfl
@[simp] theorem State.setX_core_decl (s : State) (d : Reg) (v : Word) : (s.setX d v).core.decl = s.core.decl := by unfold State.setX; split <;> rfl
@[simp] theorem State.setX_core_escWaits (s : State) (d : Reg) (v : Word) : (s.setX d v).core.escWaits = s.core.escWaits := by unfold State.setX; split <;> rfl
@[simp] theorem State.setX_core_escServing (s : State) (d : Reg) (v : Word) : (s.setX d v).core.escServing = s.core.escServing := by unfold State.setX; split <;> rfl
@[simp] theorem State.setX_core_stepDue (s : State) (d : Reg) (v : Word) : (s.setX d v).core.stepDue = s.core.stepDue := by unfold State.setX; split <;> rfl
@[simp] theorem State.setX_core_stepCmd (s : State) (d : Reg) (v : Word) : (s.setX d v).core.stepCmd = s.core.stepCmd := by unfold State.setX; split <;> rfl
@[simp] theorem State.setX_core_waitMark (s : State) (d : Reg) (v : Word) : (s.setX d v).core.waitMark = s.core.waitMark := by unfold State.setX; split <;> rfl
@[simp] theorem State.setX_core_mcheck (s : State) (d : Reg) (v : Word) : (s.setX d v).core.mcheck = s.core.mcheck := by unfold State.setX; split <;> rfl
@[simp] theorem State.setX_core_reports (s : State) (d : Reg) (v : Word) : (s.setX d v).core.reports = s.core.reports := by unfold State.setX; split <;> rfl
@[simp] theorem State.setX_core_refusals (s : State) (d : Reg) (v : Word) : (s.setX d v).core.refusals = s.core.refusals := by unfold State.setX; split <;> rfl
@[simp] theorem State.setX_core_env (s : State) (d : Reg) (v : Word) : (s.setX d v).core.env = s.core.env := by unfold State.setX; split <;> rfl
@[simp] theorem State.setX_core_hnd (s : State) (d : Reg) (v : Word) : (s.setX d v).core.hnd = s.core.hnd := by unfold State.setX; split <;> rfl
@[simp] theorem State.setX_core_slots (s : State) (d : Reg) (v : Word) : (s.setX d v).core.slots = s.core.slots := by unfold State.setX; split <;> rfl
@[simp] theorem State.setX_core_pdesc (s : State) (d : Reg) (v : Word) : (s.setX d v).core.pdesc = s.core.pdesc := by unfold State.setX; split <;> rfl
@[simp] theorem State.setX_core_pseq (s : State) (d : Reg) (v : Word) : (s.setX d v).core.pseq = s.core.pseq := by unfold State.setX; split <;> rfl
@[simp] theorem State.setX_core_tags (s : State) (d : Reg) (v : Word) : (s.setX d v).core.tags = s.core.tags := by unfold State.setX; split <;> rfl
@[simp] theorem State.setX_core_sp (s : State) (d : Reg) (v : Word) : (s.setX d v).core.sp = s.core.sp := by unfold State.setX; split <;> rfl
@[simp] theorem State.setX_core_empty (s : State) (d : Reg) (v : Word) : (s.setX d v).core.empty = s.core.empty := by unfold State.setX; split <;> rfl
@[simp] theorem State.setX_core_remap (s : State) (d : Reg) (v : Word) : (s.setX d v).core.remap = s.core.remap := by unfold State.setX; split <;> rfl
@[simp] theorem State.setX_core_pool (s : State) (d : Reg) (v : Word) : (s.setX d v).core.pool = s.core.pool := by unfold State.setX; split <;> rfl
@[simp] theorem State.setX_core_imem (s : State) (d : Reg) (v : Word) : (s.setX d v).core.imem = s.core.imem := by unfold State.setX; split <;> rfl
@[simp] theorem State.setX_core_locks (s : State) (d : Reg) (v : Word) : (s.setX d v).core.locks = s.core.locks := by unfold State.setX; split <;> rfl
@[simp] theorem State.setX_core_deferred (s : State) (d : Reg) (v : Word) : (s.setX d v).core.deferred = s.core.deferred := by unfold State.setX; split <;> rfl
@[simp] theorem State.setX_core_handed (s : State) (d : Reg) (v : Word) : (s.setX d v).core.handed = s.core.handed := by unfold State.setX; split <;> rfl
@[simp] theorem State.setX_core_streams (s : State) (d : Reg) (v : Word) : (s.setX d v).core.streams = s.core.streams := by unfold State.setX; split <;> rfl
@[simp] theorem State.setX_core_sseq (s : State) (d : Reg) (v : Word) : (s.setX d v).core.sseq = s.core.sseq := by unfold State.setX; split <;> rfl
@[simp] theorem State.setX_core_siter (s : State) (d : Reg) (v : Word) : (s.setX d v).core.siter = s.core.siter := by unfold State.setX; split <;> rfl
@[simp] theorem State.setX_core_seqs (s : State) (d : Reg) (v : Word) : (s.setX d v).core.seqs = s.core.seqs := by unfold State.setX; split <;> rfl
@[simp] theorem State.setX_core_mx (s : State) (d : Reg) (v : Word) : (s.setX d v).core.mx = s.core.mx := by unfold State.setX; split <;> rfl
@[simp] theorem State.setX_core_cp (s : State) (d : Reg) (v : Word) : (s.setX d v).core.cp = s.core.cp := by unfold State.setX; split <;> rfl
@[simp] theorem State.setX_core_ni (s : State) (d : Reg) (v : Word) : (s.setX d v).core.ni = s.core.ni := by unfold State.setX; split <;> rfl
@[simp] theorem State.setX_core_layouts (s : State) (d : Reg) (v : Word) : (s.setX d v).core.layouts = s.core.layouts := by unfold State.setX; split <;> rfl
@[simp] theorem State.setX_core_jrn (s : State) (d : Reg) (v : Word) : (s.setX d v).core.jrn = s.core.jrn := by unfold State.setX; split <;> rfl
@[simp] theorem State.setX_core_handlerEnded (s : State) (d : Reg) (v : Word) : (s.setX d v).core.handlerEnded = s.core.handlerEnded := by unfold State.setX; split <;> rfl
@[simp] theorem State.setX_core_blockSaved (s : State) (d : Reg) (v : Word) : (s.setX d v).core.blockSaved = s.core.blockSaved := by unfold State.setX; split <;> rfl
@[simp] theorem State.setX_core_follow (s : State) (d : Reg) (v : Word) : (s.setX d v).core.follow = s.core.follow := by unfold State.setX; split <;> rfl
@[simp] theorem State.setX_core_followLate (s : State) (d : Reg) (v : Word) : (s.setX d v).core.followLate = s.core.followLate := by unfold State.setX; split <;> rfl
@[simp] theorem State.setX_core_lag (s : State) (d : Reg) (v : Word) : (s.setX d v).core.lag = s.core.lag := by unfold State.setX; split <;> rfl
@[simp] theorem State.setX_core_sig (s : State) (d : Reg) (v : Word) : (s.setX d v).core.sig = s.core.sig := by unfold State.setX; split <;> rfl
@[simp] theorem State.setX_others (s : State) (d : Reg) (v : Word) : (s.setX d v).others = s.others := by unfold State.setX; split <;> rfl
@[simp] theorem State.setX_unit (s : State) (d : Reg) (v : Word) : (s.setX d v).unit = s.unit := by unfold State.setX; split <;> rfl
@[simp] theorem State.setX_units (s : State) (d : Reg) (v : Word) : (s.setX d v).units = s.units := by unfold State.setX; split <;> rfl
@[simp] theorem State.setX_launches (s : State) (d : Reg) (v : Word) : (s.setX d v).launches = s.launches := by unfold State.setX; split <;> rfl
@[simp] theorem State.setX_fns (s : State) (d : Reg) (v : Word) : (s.setX d v).fns = s.fns := by unfold State.setX; split <;> rfl
@[simp] theorem State.setX_hbm (s : State) (d : Reg) (v : Word) : (s.setX d v).hbm = s.hbm := by unfold State.setX; split <;> rfl
@[simp] theorem State.setX_blocks (s : State) (d : Reg) (v : Word) : (s.setX d v).blocks = s.blocks := by unfold State.setX; split <;> rfl
@[simp] theorem State.setX_commit (s : State) (d : Reg) (v : Word) : (s.setX d v).commit = s.commit := by unfold State.setX; split <;> rfl
@[simp] theorem State.setX_sliceJrn (s : State) (d : Reg) (v : Word) : (s.setX d v).sliceJrn = s.sliceJrn := by unfold State.setX; split <;> rfl
@[simp] theorem State.setX_syncTab (s : State) (d : Reg) (v : Word) : (s.setX d v).syncTab = s.syncTab := by unfold State.setX; split <;> rfl
@[simp] theorem State.setX_atc (s : State) (d : Reg) (v : Word) : (s.setX d v).atc = s.atc := by unfold State.setX; split <;> rfl
@[simp] theorem State.setX_walks (s : State) (d : Reg) (v : Word) : (s.setX d v).walks = s.walks := by unfold State.setX; split <;> rfl
@[simp] theorem State.setX_fabric (s : State) (d : Reg) (v : Word) : (s.setX d v).fabric = s.fabric := by unfold State.setX; split <;> rfl
@[simp] theorem State.setX_lightOut (s : State) (d : Reg) (v : Word) : (s.setX d v).lightOut = s.lightOut := by unfold State.setX; split <;> rfl
@[simp] theorem State.setX_lightIn (s : State) (d : Reg) (v : Word) : (s.setX d v).lightIn = s.lightIn := by unfold State.setX; split <;> rfl
@[simp] theorem State.setX_away (s : State) (d : Reg) (v : Word) : (s.setX d v).away = s.away := by unfold State.setX; split <;> rfl
@[simp] theorem State.setX_lease (s : State) (d : Reg) (v : Word) : (s.setX d v).lease = s.lease := by unfold State.setX; split <;> rfl
@[simp] theorem State.setX_flint (s : State) (d : Reg) (v : Word) : (s.setX d v).flint = s.flint := by unfold State.setX; split <;> rfl
@[simp] theorem State.setX_quartz (s : State) (d : Reg) (v : Word) : (s.setX d v).quartz = s.quartz := by unfold State.setX; split <;> rfl
@[simp] theorem State.setX_cycle (s : State) (d : Reg) (v : Word) : (s.setX d v).cycle = s.cycle := by unfold State.setX; split <;> rfl
@[simp] theorem State.setX_inputs (s : State) (d : Reg) (v : Word) : (s.setX d v).inputs = s.inputs := by unfold State.setX; split <;> rfl
@[simp] theorem State.setX_schedule (s : State) (d : Reg) (v : Word) : (s.setX d v).schedule = s.schedule := by unfold State.setX; split <;> rfl
@[simp] theorem State.setX_free (s : State) (d : Reg) (v : Word) : (s.setX d v).free = s.free := by unfold State.setX; split <;> rfl

/-- A write to x0 is discarded (R27). -/
@[simp] theorem State.setX_zero (s : State) (v : Word) : s.setX 0 v = s := rfl

/-- x0 reads zero (R27). -/
@[simp] theorem State.x_zero (s : State) : s.x 0 = 0 := rfl

/-- A register reads what was last written to it. -/
theorem State.x_setX (s : State) (d r : Reg) (v : Word) :
    (s.setX d v).x r = if r = d ∧ d ≠ 0 then v else s.x r := by
  unfold State.x State.setX
  by_cases hr : r = 0
  · subst hr
    by_cases hd : (0 : Reg) = d
    · subst hd; simp
    · simp only [hd, if_true, false_and, if_false]
  · by_cases hd : d = 0
    · subst hd; simp
    · simp only [hr, hd, if_false]
      by_cases h : r = d
      · subst h; simp only [ne_eq, hd, not_false_eq_true, and_self, if_true, Vector.getElem_set_self]
      · have : d.toNat ≠ r.toNat := fun e => h (BitVec.eq_of_toNat_eq e.symm)
        simp [h, Vector.getElem_set_ne, this]

/-! ## An f register written -/

@[simp] theorem State.setF_core_id (s : State) (d : Reg) (v : Word) : (s.setF d v).core.id = s.core.id := rfl
@[simp] theorem State.setF_core_mode (s : State) (d : Reg) (v : Word) : (s.setF d v).core.mode = s.core.mode := rfl
@[simp] theorem State.setF_core_halt (s : State) (d : Reg) (v : Word) : (s.setF d v).core.halt = s.core.halt := rfl
@[simp] theorem State.setF_core_stalled (s : State) (d : Reg) (v : Word) : (s.setF d v).core.stalled = s.core.stalled := rfl
@[simp] theorem State.setF_core_point (s : State) (d : Reg) (v : Word) : (s.setF d v).core.point = s.core.point := rfl
@[simp] theorem State.setF_core_x (s : State) (d : Reg) (v : Word) : (s.setF d v).core.x = s.core.x := rfl
@[simp] theorem State.setF_core_shadow (s : State) (d : Reg) (v : Word) : (s.setF d v).core.shadow = s.core.shadow := rfl
@[simp] theorem State.setF_core_pc (s : State) (d : Reg) (v : Word) : (s.setF d v).core.pc = s.core.pc := rfl
@[simp] theorem State.setF_core_loop (s : State) (d : Reg) (v : Word) : (s.setF d v).core.loop = s.core.loop := rfl
@[simp] theorem State.setF_core_loopUser (s : State) (d : Reg) (v : Word) : (s.setF d v).core.loopUser = s.core.loopUser := rfl
@[simp] theorem State.setF_core_loopSup (s : State) (d : Reg) (v : Word) : (s.setF d v).core.loopSup = s.core.loopSup := rfl
@[simp] theorem State.setF_core_csr (s : State) (d : Reg) (v : Word) : (s.setF d v).core.csr = s.core.csr := rfl
@[simp] theorem State.setF_core_dpc (s : State) (d : Reg) (v : Word) : (s.setF d v).core.dpc = s.core.dpc := rfl
@[simp] theorem State.setF_core_ecause (s : State) (d : Reg) (v : Word) : (s.setF d v).core.ecause = s.core.ecause := rfl
@[simp] theorem State.setF_core_eval (s : State) (d : Reg) (v : Word) : (s.setF d v).core.eval = s.core.eval := rfl
@[simp] theorem State.setF_core_decl (s : State) (d : Reg) (v : Word) : (s.setF d v).core.decl = s.core.decl := rfl
@[simp] theorem State.setF_core_escWaits (s : State) (d : Reg) (v : Word) : (s.setF d v).core.escWaits = s.core.escWaits := rfl
@[simp] theorem State.setF_core_escServing (s : State) (d : Reg) (v : Word) : (s.setF d v).core.escServing = s.core.escServing := rfl
@[simp] theorem State.setF_core_stepDue (s : State) (d : Reg) (v : Word) : (s.setF d v).core.stepDue = s.core.stepDue := rfl
@[simp] theorem State.setF_core_stepCmd (s : State) (d : Reg) (v : Word) : (s.setF d v).core.stepCmd = s.core.stepCmd := rfl
@[simp] theorem State.setF_core_waitMark (s : State) (d : Reg) (v : Word) : (s.setF d v).core.waitMark = s.core.waitMark := rfl
@[simp] theorem State.setF_core_mcheck (s : State) (d : Reg) (v : Word) : (s.setF d v).core.mcheck = s.core.mcheck := rfl
@[simp] theorem State.setF_core_reports (s : State) (d : Reg) (v : Word) : (s.setF d v).core.reports = s.core.reports := rfl
@[simp] theorem State.setF_core_refusals (s : State) (d : Reg) (v : Word) : (s.setF d v).core.refusals = s.core.refusals := rfl
@[simp] theorem State.setF_core_env (s : State) (d : Reg) (v : Word) : (s.setF d v).core.env = s.core.env := rfl
@[simp] theorem State.setF_core_hnd (s : State) (d : Reg) (v : Word) : (s.setF d v).core.hnd = s.core.hnd := rfl
@[simp] theorem State.setF_core_slots (s : State) (d : Reg) (v : Word) : (s.setF d v).core.slots = s.core.slots := rfl
@[simp] theorem State.setF_core_pdesc (s : State) (d : Reg) (v : Word) : (s.setF d v).core.pdesc = s.core.pdesc := rfl
@[simp] theorem State.setF_core_pseq (s : State) (d : Reg) (v : Word) : (s.setF d v).core.pseq = s.core.pseq := rfl
@[simp] theorem State.setF_core_tags (s : State) (d : Reg) (v : Word) : (s.setF d v).core.tags = s.core.tags := rfl
@[simp] theorem State.setF_core_sp (s : State) (d : Reg) (v : Word) : (s.setF d v).core.sp = s.core.sp := rfl
@[simp] theorem State.setF_core_empty (s : State) (d : Reg) (v : Word) : (s.setF d v).core.empty = s.core.empty := rfl
@[simp] theorem State.setF_core_remap (s : State) (d : Reg) (v : Word) : (s.setF d v).core.remap = s.core.remap := rfl
@[simp] theorem State.setF_core_pool (s : State) (d : Reg) (v : Word) : (s.setF d v).core.pool = s.core.pool := rfl
@[simp] theorem State.setF_core_imem (s : State) (d : Reg) (v : Word) : (s.setF d v).core.imem = s.core.imem := rfl
@[simp] theorem State.setF_core_locks (s : State) (d : Reg) (v : Word) : (s.setF d v).core.locks = s.core.locks := rfl
@[simp] theorem State.setF_core_deferred (s : State) (d : Reg) (v : Word) : (s.setF d v).core.deferred = s.core.deferred := rfl
@[simp] theorem State.setF_core_handed (s : State) (d : Reg) (v : Word) : (s.setF d v).core.handed = s.core.handed := rfl
@[simp] theorem State.setF_core_streams (s : State) (d : Reg) (v : Word) : (s.setF d v).core.streams = s.core.streams := rfl
@[simp] theorem State.setF_core_sseq (s : State) (d : Reg) (v : Word) : (s.setF d v).core.sseq = s.core.sseq := rfl
@[simp] theorem State.setF_core_siter (s : State) (d : Reg) (v : Word) : (s.setF d v).core.siter = s.core.siter := rfl
@[simp] theorem State.setF_core_seqs (s : State) (d : Reg) (v : Word) : (s.setF d v).core.seqs = s.core.seqs := rfl
@[simp] theorem State.setF_core_mx (s : State) (d : Reg) (v : Word) : (s.setF d v).core.mx = s.core.mx := rfl
@[simp] theorem State.setF_core_cp (s : State) (d : Reg) (v : Word) : (s.setF d v).core.cp = s.core.cp := rfl
@[simp] theorem State.setF_core_ni (s : State) (d : Reg) (v : Word) : (s.setF d v).core.ni = s.core.ni := rfl
@[simp] theorem State.setF_core_layouts (s : State) (d : Reg) (v : Word) : (s.setF d v).core.layouts = s.core.layouts := rfl
@[simp] theorem State.setF_core_jrn (s : State) (d : Reg) (v : Word) : (s.setF d v).core.jrn = s.core.jrn := rfl
@[simp] theorem State.setF_core_handlerEnded (s : State) (d : Reg) (v : Word) : (s.setF d v).core.handlerEnded = s.core.handlerEnded := rfl
@[simp] theorem State.setF_core_blockSaved (s : State) (d : Reg) (v : Word) : (s.setF d v).core.blockSaved = s.core.blockSaved := rfl
@[simp] theorem State.setF_core_follow (s : State) (d : Reg) (v : Word) : (s.setF d v).core.follow = s.core.follow := rfl
@[simp] theorem State.setF_core_followLate (s : State) (d : Reg) (v : Word) : (s.setF d v).core.followLate = s.core.followLate := rfl
@[simp] theorem State.setF_core_lag (s : State) (d : Reg) (v : Word) : (s.setF d v).core.lag = s.core.lag := rfl
@[simp] theorem State.setF_core_sig (s : State) (d : Reg) (v : Word) : (s.setF d v).core.sig = s.core.sig := rfl
@[simp] theorem State.setF_others (s : State) (d : Reg) (v : Word) : (s.setF d v).others = s.others := rfl
@[simp] theorem State.setF_unit (s : State) (d : Reg) (v : Word) : (s.setF d v).unit = s.unit := rfl
@[simp] theorem State.setF_units (s : State) (d : Reg) (v : Word) : (s.setF d v).units = s.units := rfl
@[simp] theorem State.setF_launches (s : State) (d : Reg) (v : Word) : (s.setF d v).launches = s.launches := rfl
@[simp] theorem State.setF_fns (s : State) (d : Reg) (v : Word) : (s.setF d v).fns = s.fns := rfl
@[simp] theorem State.setF_hbm (s : State) (d : Reg) (v : Word) : (s.setF d v).hbm = s.hbm := rfl
@[simp] theorem State.setF_blocks (s : State) (d : Reg) (v : Word) : (s.setF d v).blocks = s.blocks := rfl
@[simp] theorem State.setF_commit (s : State) (d : Reg) (v : Word) : (s.setF d v).commit = s.commit := rfl
@[simp] theorem State.setF_sliceJrn (s : State) (d : Reg) (v : Word) : (s.setF d v).sliceJrn = s.sliceJrn := rfl
@[simp] theorem State.setF_syncTab (s : State) (d : Reg) (v : Word) : (s.setF d v).syncTab = s.syncTab := rfl
@[simp] theorem State.setF_atc (s : State) (d : Reg) (v : Word) : (s.setF d v).atc = s.atc := rfl
@[simp] theorem State.setF_walks (s : State) (d : Reg) (v : Word) : (s.setF d v).walks = s.walks := rfl
@[simp] theorem State.setF_fabric (s : State) (d : Reg) (v : Word) : (s.setF d v).fabric = s.fabric := rfl
@[simp] theorem State.setF_lightOut (s : State) (d : Reg) (v : Word) : (s.setF d v).lightOut = s.lightOut := rfl
@[simp] theorem State.setF_lightIn (s : State) (d : Reg) (v : Word) : (s.setF d v).lightIn = s.lightIn := rfl
@[simp] theorem State.setF_away (s : State) (d : Reg) (v : Word) : (s.setF d v).away = s.away := rfl
@[simp] theorem State.setF_lease (s : State) (d : Reg) (v : Word) : (s.setF d v).lease = s.lease := rfl
@[simp] theorem State.setF_flint (s : State) (d : Reg) (v : Word) : (s.setF d v).flint = s.flint := rfl
@[simp] theorem State.setF_quartz (s : State) (d : Reg) (v : Word) : (s.setF d v).quartz = s.quartz := rfl
@[simp] theorem State.setF_cycle (s : State) (d : Reg) (v : Word) : (s.setF d v).cycle = s.cycle := rfl
@[simp] theorem State.setF_inputs (s : State) (d : Reg) (v : Word) : (s.setF d v).inputs = s.inputs := rfl
@[simp] theorem State.setF_schedule (s : State) (d : Reg) (v : Word) : (s.setF d v).schedule = s.schedule := rfl
@[simp] theorem State.setF_free (s : State) (d : Reg) (v : Word) : (s.setF d v).free = s.free := rfl

/-- A register reads what was last written to it. -/
theorem State.f_setF (s : State) (d r : Reg) (v : Word) : (s.setF d v).f r = if r = d then v else s.f r := by
  unfold State.f State.setF
  by_cases h : r = d
  · subst h; simp
  · have : d.toNat ≠ r.toNat := fun e => h (BitVec.eq_of_toNat_eq e.symm)
    simp [h, Vector.getElem_set_ne, this]

/-! ## FCSR.flags or-ed -/

@[simp] theorem State.addFlags_csr_pthresh (s : State) (fl : BitVec 5) : (s.addFlags fl).core.csr.pthresh = s.core.csr.pthresh := rfl
@[simp] theorem State.addFlags_csr_etol (s : State) (fl : BitVec 5) : (s.addFlags fl).core.csr.etol = s.core.csr.etol := rfl
@[simp] theorem State.addFlags_csr_ectl (s : State) (fl : BitVec 5) : (s.addFlags fl).core.csr.ectl = s.core.csr.ectl := rfl
@[simp] theorem State.addFlags_csr_estat (s : State) (fl : BitVec 5) : (s.addFlags fl).core.csr.estat = s.core.csr.estat := rfl
@[simp] theorem State.addFlags_csr_mrcfg (s : State) (fl : BitVec 5) : (s.addFlags fl).core.csr.mrcfg = s.core.csr.mrcfg := rfl
@[simp] theorem State.addFlags_csr_cfgerr (s : State) (fl : BitVec 5) : (s.addFlags fl).core.csr.cfgerr = s.core.csr.cfgerr := rfl
@[simp] theorem State.addFlags_csr_cycleh (s : State) (fl : BitVec 5) : (s.addFlags fl).core.csr.cycleh = s.core.csr.cycleh := rfl
@[simp] theorem State.addFlags_csr_instret (s : State) (fl : BitVec 5) : (s.addFlags fl).core.csr.instret = s.core.csr.instret := rfl
@[simp] theorem State.addFlags_csr_phase (s : State) (fl : BitVec 5) : (s.addFlags fl).core.csr.phase = s.core.csr.phase := rfl
@[simp] theorem State.addFlags_csr_ganginfo (s : State) (fl : BitVec 5) : (s.addFlags fl).core.csr.ganginfo = s.core.csr.ganginfo := rfl
@[simp] theorem State.addFlags_csr_utvec (s : State) (fl : BitVec 5) : (s.addFlags fl).core.csr.utvec = s.core.csr.utvec := rfl
@[simp] theorem State.addFlags_csr_ucause (s : State) (fl : BitVec 5) : (s.addFlags fl).core.csr.ucause = s.core.csr.ucause := rfl
@[simp] theorem State.addFlags_csr_uval (s : State) (fl : BitVec 5) : (s.addFlags fl).core.csr.uval = s.core.csr.uval := rfl
@[simp] theorem State.addFlags_csr_uepc (s : State) (fl : BitVec 5) : (s.addFlags fl).core.csr.uepc = s.core.csr.uepc := rfl
@[simp] theorem State.addFlags_csr_ustatus (s : State) (fl : BitVec 5) : (s.addFlags fl).core.csr.ustatus = s.core.csr.ustatus := rfl
@[simp] theorem State.addFlags_csr_uie (s : State) (fl : BitVec 5) : (s.addFlags fl).core.csr.uie = s.core.csr.uie := rfl
@[simp] theorem State.addFlags_csr_uip (s : State) (fl : BitVec 5) : (s.addFlags fl).core.csr.uip = s.core.csr.uip := rfl
@[simp] theorem State.addFlags_csr_sstatus (s : State) (fl : BitVec 5) : (s.addFlags fl).core.csr.sstatus = s.core.csr.sstatus := rfl
@[simp] theorem State.addFlags_csr_stvec (s : State) (fl : BitVec 5) : (s.addFlags fl).core.csr.stvec = s.core.csr.stvec := rfl
@[simp] theorem State.addFlags_csr_scause (s : State) (fl : BitVec 5) : (s.addFlags fl).core.csr.scause = s.core.csr.scause := rfl
@[simp] theorem State.addFlags_csr_sval (s : State) (fl : BitVec 5) : (s.addFlags fl).core.csr.sval = s.core.csr.sval := rfl
@[simp] theorem State.addFlags_csr_sepc (s : State) (fl : BitVec 5) : (s.addFlags fl).core.csr.sepc = s.core.csr.sepc := rfl
@[simp] theorem State.addFlags_csr_sie (s : State) (fl : BitVec 5) : (s.addFlags fl).core.csr.sie = s.core.csr.sie := rfl
@[simp] theorem State.addFlags_csr_sip (s : State) (fl : BitVec 5) : (s.addFlags fl).core.csr.sip = s.core.csr.sip := rfl
@[simp] theorem State.addFlags_csr_sctx (s : State) (fl : BitVec 5) : (s.addFlags fl).core.csr.sctx = s.core.csr.sctx := rfl
@[simp] theorem State.addFlags_csr_sscratch (s : State) (fl : BitVec 5) : (s.addFlags fl).core.csr.sscratch = s.core.csr.sscratch := rfl
@[simp] theorem State.addFlags_csr_spshare (s : State) (fl : BitVec 5) : (s.addFlags fl).core.csr.spshare = s.core.csr.spshare := rfl
@[simp] theorem State.addFlags_csr_svweight (s : State) (fl : BitVec 5) : (s.addFlags fl).core.csr.svweight = s.core.csr.svweight := rfl
@[simp] theorem State.addFlags_csr_sjournal (s : State) (fl : BitVec 5) : (s.addFlags fl).core.csr.sjournal = s.core.csr.sjournal := rfl
@[simp] theorem State.addFlags_csr_ctxsaved (s : State) (fl : BitVec 5) : (s.addFlags fl).core.csr.ctxsaved = s.core.csr.ctxsaved := rfl
@[simp] theorem State.addFlags_csr_sdbg (s : State) (fl : BitVec 5) : (s.addFlags fl).core.csr.sdbg = s.core.csr.sdbg := rfl
@[simp] theorem State.addFlags_csr_mcstat (s : State) (fl : BitVec 5) : (s.addFlags fl).core.csr.mcstat = s.core.csr.mcstat := rfl
@[simp] theorem State.addFlags_csr_mcbank (s : State) (fl : BitVec 5) : (s.addFlags fl).core.csr.mcbank = s.core.csr.mcbank := rfl
@[simp] theorem State.addFlags_csr_mcsynd (s : State) (fl : BitVec 5) : (s.addFlags fl).core.csr.mcsynd = s.core.csr.mcsynd := rfl
@[simp] theorem State.addFlags_csr_mcaddr (s : State) (fl : BitVec 5) : (s.addFlags fl).core.csr.mcaddr = s.core.csr.mcaddr := rfl
@[simp] theorem State.addFlags_core_id (s : State) (fl : BitVec 5) : (s.addFlags fl).core.id = s.core.id := rfl
@[simp] theorem State.addFlags_core_mode (s : State) (fl : BitVec 5) : (s.addFlags fl).core.mode = s.core.mode := rfl
@[simp] theorem State.addFlags_core_halt (s : State) (fl : BitVec 5) : (s.addFlags fl).core.halt = s.core.halt := rfl
@[simp] theorem State.addFlags_core_stalled (s : State) (fl : BitVec 5) : (s.addFlags fl).core.stalled = s.core.stalled := rfl
@[simp] theorem State.addFlags_core_point (s : State) (fl : BitVec 5) : (s.addFlags fl).core.point = s.core.point := rfl
@[simp] theorem State.addFlags_core_x (s : State) (fl : BitVec 5) : (s.addFlags fl).core.x = s.core.x := rfl
@[simp] theorem State.addFlags_core_f (s : State) (fl : BitVec 5) : (s.addFlags fl).core.f = s.core.f := rfl
@[simp] theorem State.addFlags_core_shadow (s : State) (fl : BitVec 5) : (s.addFlags fl).core.shadow = s.core.shadow := rfl
@[simp] theorem State.addFlags_core_pc (s : State) (fl : BitVec 5) : (s.addFlags fl).core.pc = s.core.pc := rfl
@[simp] theorem State.addFlags_core_loop (s : State) (fl : BitVec 5) : (s.addFlags fl).core.loop = s.core.loop := rfl
@[simp] theorem State.addFlags_core_loopUser (s : State) (fl : BitVec 5) : (s.addFlags fl).core.loopUser = s.core.loopUser := rfl
@[simp] theorem State.addFlags_core_loopSup (s : State) (fl : BitVec 5) : (s.addFlags fl).core.loopSup = s.core.loopSup := rfl
@[simp] theorem State.addFlags_core_dpc (s : State) (fl : BitVec 5) : (s.addFlags fl).core.dpc = s.core.dpc := rfl
@[simp] theorem State.addFlags_core_ecause (s : State) (fl : BitVec 5) : (s.addFlags fl).core.ecause = s.core.ecause := rfl
@[simp] theorem State.addFlags_core_eval (s : State) (fl : BitVec 5) : (s.addFlags fl).core.eval = s.core.eval := rfl
@[simp] theorem State.addFlags_core_decl (s : State) (fl : BitVec 5) : (s.addFlags fl).core.decl = s.core.decl := rfl
@[simp] theorem State.addFlags_core_escWaits (s : State) (fl : BitVec 5) : (s.addFlags fl).core.escWaits = s.core.escWaits := rfl
@[simp] theorem State.addFlags_core_escServing (s : State) (fl : BitVec 5) : (s.addFlags fl).core.escServing = s.core.escServing := rfl
@[simp] theorem State.addFlags_core_stepDue (s : State) (fl : BitVec 5) : (s.addFlags fl).core.stepDue = s.core.stepDue := rfl
@[simp] theorem State.addFlags_core_stepCmd (s : State) (fl : BitVec 5) : (s.addFlags fl).core.stepCmd = s.core.stepCmd := rfl
@[simp] theorem State.addFlags_core_waitMark (s : State) (fl : BitVec 5) : (s.addFlags fl).core.waitMark = s.core.waitMark := rfl
@[simp] theorem State.addFlags_core_mcheck (s : State) (fl : BitVec 5) : (s.addFlags fl).core.mcheck = s.core.mcheck := rfl
@[simp] theorem State.addFlags_core_reports (s : State) (fl : BitVec 5) : (s.addFlags fl).core.reports = s.core.reports := rfl
@[simp] theorem State.addFlags_core_refusals (s : State) (fl : BitVec 5) : (s.addFlags fl).core.refusals = s.core.refusals := rfl
@[simp] theorem State.addFlags_core_env (s : State) (fl : BitVec 5) : (s.addFlags fl).core.env = s.core.env := rfl
@[simp] theorem State.addFlags_core_hnd (s : State) (fl : BitVec 5) : (s.addFlags fl).core.hnd = s.core.hnd := rfl
@[simp] theorem State.addFlags_core_slots (s : State) (fl : BitVec 5) : (s.addFlags fl).core.slots = s.core.slots := rfl
@[simp] theorem State.addFlags_core_pdesc (s : State) (fl : BitVec 5) : (s.addFlags fl).core.pdesc = s.core.pdesc := rfl
@[simp] theorem State.addFlags_core_pseq (s : State) (fl : BitVec 5) : (s.addFlags fl).core.pseq = s.core.pseq := rfl
@[simp] theorem State.addFlags_core_tags (s : State) (fl : BitVec 5) : (s.addFlags fl).core.tags = s.core.tags := rfl
@[simp] theorem State.addFlags_core_sp (s : State) (fl : BitVec 5) : (s.addFlags fl).core.sp = s.core.sp := rfl
@[simp] theorem State.addFlags_core_empty (s : State) (fl : BitVec 5) : (s.addFlags fl).core.empty = s.core.empty := rfl
@[simp] theorem State.addFlags_core_remap (s : State) (fl : BitVec 5) : (s.addFlags fl).core.remap = s.core.remap := rfl
@[simp] theorem State.addFlags_core_pool (s : State) (fl : BitVec 5) : (s.addFlags fl).core.pool = s.core.pool := rfl
@[simp] theorem State.addFlags_core_imem (s : State) (fl : BitVec 5) : (s.addFlags fl).core.imem = s.core.imem := rfl
@[simp] theorem State.addFlags_core_locks (s : State) (fl : BitVec 5) : (s.addFlags fl).core.locks = s.core.locks := rfl
@[simp] theorem State.addFlags_core_deferred (s : State) (fl : BitVec 5) : (s.addFlags fl).core.deferred = s.core.deferred := rfl
@[simp] theorem State.addFlags_core_handed (s : State) (fl : BitVec 5) : (s.addFlags fl).core.handed = s.core.handed := rfl
@[simp] theorem State.addFlags_core_streams (s : State) (fl : BitVec 5) : (s.addFlags fl).core.streams = s.core.streams := rfl
@[simp] theorem State.addFlags_core_sseq (s : State) (fl : BitVec 5) : (s.addFlags fl).core.sseq = s.core.sseq := rfl
@[simp] theorem State.addFlags_core_siter (s : State) (fl : BitVec 5) : (s.addFlags fl).core.siter = s.core.siter := rfl
@[simp] theorem State.addFlags_core_seqs (s : State) (fl : BitVec 5) : (s.addFlags fl).core.seqs = s.core.seqs := rfl
@[simp] theorem State.addFlags_core_mx (s : State) (fl : BitVec 5) : (s.addFlags fl).core.mx = s.core.mx := rfl
@[simp] theorem State.addFlags_core_cp (s : State) (fl : BitVec 5) : (s.addFlags fl).core.cp = s.core.cp := rfl
@[simp] theorem State.addFlags_core_ni (s : State) (fl : BitVec 5) : (s.addFlags fl).core.ni = s.core.ni := rfl
@[simp] theorem State.addFlags_core_layouts (s : State) (fl : BitVec 5) : (s.addFlags fl).core.layouts = s.core.layouts := rfl
@[simp] theorem State.addFlags_core_jrn (s : State) (fl : BitVec 5) : (s.addFlags fl).core.jrn = s.core.jrn := rfl
@[simp] theorem State.addFlags_core_handlerEnded (s : State) (fl : BitVec 5) : (s.addFlags fl).core.handlerEnded = s.core.handlerEnded := rfl
@[simp] theorem State.addFlags_core_blockSaved (s : State) (fl : BitVec 5) : (s.addFlags fl).core.blockSaved = s.core.blockSaved := rfl
@[simp] theorem State.addFlags_core_follow (s : State) (fl : BitVec 5) : (s.addFlags fl).core.follow = s.core.follow := rfl
@[simp] theorem State.addFlags_core_followLate (s : State) (fl : BitVec 5) : (s.addFlags fl).core.followLate = s.core.followLate := rfl
@[simp] theorem State.addFlags_core_lag (s : State) (fl : BitVec 5) : (s.addFlags fl).core.lag = s.core.lag := rfl
@[simp] theorem State.addFlags_core_sig (s : State) (fl : BitVec 5) : (s.addFlags fl).core.sig = s.core.sig := rfl
@[simp] theorem State.addFlags_others (s : State) (fl : BitVec 5) : (s.addFlags fl).others = s.others := rfl
@[simp] theorem State.addFlags_unit (s : State) (fl : BitVec 5) : (s.addFlags fl).unit = s.unit := rfl
@[simp] theorem State.addFlags_units (s : State) (fl : BitVec 5) : (s.addFlags fl).units = s.units := rfl
@[simp] theorem State.addFlags_launches (s : State) (fl : BitVec 5) : (s.addFlags fl).launches = s.launches := rfl
@[simp] theorem State.addFlags_fns (s : State) (fl : BitVec 5) : (s.addFlags fl).fns = s.fns := rfl
@[simp] theorem State.addFlags_hbm (s : State) (fl : BitVec 5) : (s.addFlags fl).hbm = s.hbm := rfl
@[simp] theorem State.addFlags_blocks (s : State) (fl : BitVec 5) : (s.addFlags fl).blocks = s.blocks := rfl
@[simp] theorem State.addFlags_commit (s : State) (fl : BitVec 5) : (s.addFlags fl).commit = s.commit := rfl
@[simp] theorem State.addFlags_sliceJrn (s : State) (fl : BitVec 5) : (s.addFlags fl).sliceJrn = s.sliceJrn := rfl
@[simp] theorem State.addFlags_syncTab (s : State) (fl : BitVec 5) : (s.addFlags fl).syncTab = s.syncTab := rfl
@[simp] theorem State.addFlags_atc (s : State) (fl : BitVec 5) : (s.addFlags fl).atc = s.atc := rfl
@[simp] theorem State.addFlags_walks (s : State) (fl : BitVec 5) : (s.addFlags fl).walks = s.walks := rfl
@[simp] theorem State.addFlags_fabric (s : State) (fl : BitVec 5) : (s.addFlags fl).fabric = s.fabric := rfl
@[simp] theorem State.addFlags_lightOut (s : State) (fl : BitVec 5) : (s.addFlags fl).lightOut = s.lightOut := rfl
@[simp] theorem State.addFlags_lightIn (s : State) (fl : BitVec 5) : (s.addFlags fl).lightIn = s.lightIn := rfl
@[simp] theorem State.addFlags_away (s : State) (fl : BitVec 5) : (s.addFlags fl).away = s.away := rfl
@[simp] theorem State.addFlags_lease (s : State) (fl : BitVec 5) : (s.addFlags fl).lease = s.lease := rfl
@[simp] theorem State.addFlags_flint (s : State) (fl : BitVec 5) : (s.addFlags fl).flint = s.flint := rfl
@[simp] theorem State.addFlags_quartz (s : State) (fl : BitVec 5) : (s.addFlags fl).quartz = s.quartz := rfl
@[simp] theorem State.addFlags_cycle (s : State) (fl : BitVec 5) : (s.addFlags fl).cycle = s.cycle := rfl
@[simp] theorem State.addFlags_inputs (s : State) (fl : BitVec 5) : (s.addFlags fl).inputs = s.inputs := rfl
@[simp] theorem State.addFlags_schedule (s : State) (fl : BitVec 5) : (s.addFlags fl).schedule = s.schedule := rfl
@[simp] theorem State.addFlags_free (s : State) (fl : BitVec 5) : (s.addFlags fl).free = s.free := rfl
@[simp] theorem State.addFlags_fcsr (s : State) (fl : BitVec 5) : (s.addFlags fl).core.csr.fcsr = s.core.csr.fcsr ||| (fl.setWidth 32 <<< 4) := rfl

/-! ## A draw from the free values -/

@[simp] theorem State.draw_core (s : State) : (s.draw).core = s.core := rfl
@[simp] theorem State.draw_others (s : State) : (s.draw).others = s.others := rfl
@[simp] theorem State.draw_unit (s : State) : (s.draw).unit = s.unit := rfl
@[simp] theorem State.draw_units (s : State) : (s.draw).units = s.units := rfl
@[simp] theorem State.draw_launches (s : State) : (s.draw).launches = s.launches := rfl
@[simp] theorem State.draw_fns (s : State) : (s.draw).fns = s.fns := rfl
@[simp] theorem State.draw_hbm (s : State) : (s.draw).hbm = s.hbm := rfl
@[simp] theorem State.draw_blocks (s : State) : (s.draw).blocks = s.blocks := rfl
@[simp] theorem State.draw_commit (s : State) : (s.draw).commit = s.commit := rfl
@[simp] theorem State.draw_sliceJrn (s : State) : (s.draw).sliceJrn = s.sliceJrn := rfl
@[simp] theorem State.draw_syncTab (s : State) : (s.draw).syncTab = s.syncTab := rfl
@[simp] theorem State.draw_atc (s : State) : (s.draw).atc = s.atc := rfl
@[simp] theorem State.draw_walks (s : State) : (s.draw).walks = s.walks := rfl
@[simp] theorem State.draw_fabric (s : State) : (s.draw).fabric = s.fabric := rfl
@[simp] theorem State.draw_lightOut (s : State) : (s.draw).lightOut = s.lightOut := rfl
@[simp] theorem State.draw_lightIn (s : State) : (s.draw).lightIn = s.lightIn := rfl
@[simp] theorem State.draw_away (s : State) : (s.draw).away = s.away := rfl
@[simp] theorem State.draw_lease (s : State) : (s.draw).lease = s.lease := rfl
@[simp] theorem State.draw_flint (s : State) : (s.draw).flint = s.flint := rfl
@[simp] theorem State.draw_quartz (s : State) : (s.draw).quartz = s.quartz := rfl
@[simp] theorem State.draw_cycle (s : State) : (s.draw).cycle = s.cycle := rfl
@[simp] theorem State.draw_inputs (s : State) : (s.draw).inputs = s.inputs := rfl
@[simp] theorem State.draw_schedule (s : State) : (s.draw).schedule = s.schedule := rfl
@[simp] theorem State.draw_free (s : State) : s.draw.free = s.free + 1 := rfl

/-! ## The pc of an instruction -/

@[simp] theorem stepPc_id (c : Core) : (stepPc c).id = c.id := by unfold stepPc; split; (dsimp only; split <;> rfl); rfl
@[simp] theorem stepPc_mode (c : Core) : (stepPc c).mode = c.mode := by unfold stepPc; split; (dsimp only; split <;> rfl); rfl
@[simp] theorem stepPc_halt (c : Core) : (stepPc c).halt = c.halt := by unfold stepPc; split; (dsimp only; split <;> rfl); rfl
@[simp] theorem stepPc_stalled (c : Core) : (stepPc c).stalled = c.stalled := by unfold stepPc; split; (dsimp only; split <;> rfl); rfl
@[simp] theorem stepPc_point (c : Core) : (stepPc c).point = c.point := by unfold stepPc; split; (dsimp only; split <;> rfl); rfl
@[simp] theorem stepPc_x (c : Core) : (stepPc c).x = c.x := by unfold stepPc; split; (dsimp only; split <;> rfl); rfl
@[simp] theorem stepPc_f (c : Core) : (stepPc c).f = c.f := by unfold stepPc; split; (dsimp only; split <;> rfl); rfl
@[simp] theorem stepPc_shadow (c : Core) : (stepPc c).shadow = c.shadow := by unfold stepPc; split; (dsimp only; split <;> rfl); rfl
@[simp] theorem stepPc_loopUser (c : Core) : (stepPc c).loopUser = c.loopUser := by unfold stepPc; split; (dsimp only; split <;> rfl); rfl
@[simp] theorem stepPc_loopSup (c : Core) : (stepPc c).loopSup = c.loopSup := by unfold stepPc; split; (dsimp only; split <;> rfl); rfl
@[simp] theorem stepPc_csr (c : Core) : (stepPc c).csr = c.csr := by unfold stepPc; split; (dsimp only; split <;> rfl); rfl
@[simp] theorem stepPc_dpc (c : Core) : (stepPc c).dpc = c.dpc := by unfold stepPc; split; (dsimp only; split <;> rfl); rfl
@[simp] theorem stepPc_ecause (c : Core) : (stepPc c).ecause = c.ecause := by unfold stepPc; split; (dsimp only; split <;> rfl); rfl
@[simp] theorem stepPc_eval (c : Core) : (stepPc c).eval = c.eval := by unfold stepPc; split; (dsimp only; split <;> rfl); rfl
@[simp] theorem stepPc_decl (c : Core) : (stepPc c).decl = c.decl := by unfold stepPc; split; (dsimp only; split <;> rfl); rfl
@[simp] theorem stepPc_escWaits (c : Core) : (stepPc c).escWaits = c.escWaits := by unfold stepPc; split; (dsimp only; split <;> rfl); rfl
@[simp] theorem stepPc_escServing (c : Core) : (stepPc c).escServing = c.escServing := by unfold stepPc; split; (dsimp only; split <;> rfl); rfl
@[simp] theorem stepPc_stepDue (c : Core) : (stepPc c).stepDue = c.stepDue := by unfold stepPc; split; (dsimp only; split <;> rfl); rfl
@[simp] theorem stepPc_stepCmd (c : Core) : (stepPc c).stepCmd = c.stepCmd := by unfold stepPc; split; (dsimp only; split <;> rfl); rfl
@[simp] theorem stepPc_waitMark (c : Core) : (stepPc c).waitMark = c.waitMark := by unfold stepPc; split; (dsimp only; split <;> rfl); rfl
@[simp] theorem stepPc_mcheck (c : Core) : (stepPc c).mcheck = c.mcheck := by unfold stepPc; split; (dsimp only; split <;> rfl); rfl
@[simp] theorem stepPc_reports (c : Core) : (stepPc c).reports = c.reports := by unfold stepPc; split; (dsimp only; split <;> rfl); rfl
@[simp] theorem stepPc_refusals (c : Core) : (stepPc c).refusals = c.refusals := by unfold stepPc; split; (dsimp only; split <;> rfl); rfl
@[simp] theorem stepPc_env (c : Core) : (stepPc c).env = c.env := by unfold stepPc; split; (dsimp only; split <;> rfl); rfl
@[simp] theorem stepPc_hnd (c : Core) : (stepPc c).hnd = c.hnd := by unfold stepPc; split; (dsimp only; split <;> rfl); rfl
@[simp] theorem stepPc_slots (c : Core) : (stepPc c).slots = c.slots := by unfold stepPc; split; (dsimp only; split <;> rfl); rfl
@[simp] theorem stepPc_pdesc (c : Core) : (stepPc c).pdesc = c.pdesc := by unfold stepPc; split; (dsimp only; split <;> rfl); rfl
@[simp] theorem stepPc_pseq (c : Core) : (stepPc c).pseq = c.pseq := by unfold stepPc; split; (dsimp only; split <;> rfl); rfl
@[simp] theorem stepPc_tags (c : Core) : (stepPc c).tags = c.tags := by unfold stepPc; split; (dsimp only; split <;> rfl); rfl
@[simp] theorem stepPc_sp (c : Core) : (stepPc c).sp = c.sp := by unfold stepPc; split; (dsimp only; split <;> rfl); rfl
@[simp] theorem stepPc_empty (c : Core) : (stepPc c).empty = c.empty := by unfold stepPc; split; (dsimp only; split <;> rfl); rfl
@[simp] theorem stepPc_remap (c : Core) : (stepPc c).remap = c.remap := by unfold stepPc; split; (dsimp only; split <;> rfl); rfl
@[simp] theorem stepPc_pool (c : Core) : (stepPc c).pool = c.pool := by unfold stepPc; split; (dsimp only; split <;> rfl); rfl
@[simp] theorem stepPc_imem (c : Core) : (stepPc c).imem = c.imem := by unfold stepPc; split; (dsimp only; split <;> rfl); rfl
@[simp] theorem stepPc_locks (c : Core) : (stepPc c).locks = c.locks := by unfold stepPc; split; (dsimp only; split <;> rfl); rfl
@[simp] theorem stepPc_deferred (c : Core) : (stepPc c).deferred = c.deferred := by unfold stepPc; split; (dsimp only; split <;> rfl); rfl
@[simp] theorem stepPc_handed (c : Core) : (stepPc c).handed = c.handed := by unfold stepPc; split; (dsimp only; split <;> rfl); rfl
@[simp] theorem stepPc_streams (c : Core) : (stepPc c).streams = c.streams := by unfold stepPc; split; (dsimp only; split <;> rfl); rfl
@[simp] theorem stepPc_sseq (c : Core) : (stepPc c).sseq = c.sseq := by unfold stepPc; split; (dsimp only; split <;> rfl); rfl
@[simp] theorem stepPc_siter (c : Core) : (stepPc c).siter = c.siter := by unfold stepPc; split; (dsimp only; split <;> rfl); rfl
@[simp] theorem stepPc_seqs (c : Core) : (stepPc c).seqs = c.seqs := by unfold stepPc; split; (dsimp only; split <;> rfl); rfl
@[simp] theorem stepPc_mx (c : Core) : (stepPc c).mx = c.mx := by unfold stepPc; split; (dsimp only; split <;> rfl); rfl
@[simp] theorem stepPc_cp (c : Core) : (stepPc c).cp = c.cp := by unfold stepPc; split; (dsimp only; split <;> rfl); rfl
@[simp] theorem stepPc_ni (c : Core) : (stepPc c).ni = c.ni := by unfold stepPc; split; (dsimp only; split <;> rfl); rfl
@[simp] theorem stepPc_layouts (c : Core) : (stepPc c).layouts = c.layouts := by unfold stepPc; split; (dsimp only; split <;> rfl); rfl
@[simp] theorem stepPc_jrn (c : Core) : (stepPc c).jrn = c.jrn := by unfold stepPc; split; (dsimp only; split <;> rfl); rfl
@[simp] theorem stepPc_handlerEnded (c : Core) : (stepPc c).handlerEnded = c.handlerEnded := by unfold stepPc; split; (dsimp only; split <;> rfl); rfl
@[simp] theorem stepPc_blockSaved (c : Core) : (stepPc c).blockSaved = c.blockSaved := by unfold stepPc; split; (dsimp only; split <;> rfl); rfl
@[simp] theorem stepPc_follow (c : Core) : (stepPc c).follow = c.follow := by unfold stepPc; split; (dsimp only; split <;> rfl); rfl
@[simp] theorem stepPc_followLate (c : Core) : (stepPc c).followLate = c.followLate := by unfold stepPc; split; (dsimp only; split <;> rfl); rfl
@[simp] theorem stepPc_lag (c : Core) : (stepPc c).lag = c.lag := by unfold stepPc; split; (dsimp only; split <;> rfl); rfl
@[simp] theorem stepPc_sig (c : Core) : (stepPc c).sig = c.sig := by unfold stepPc; split; (dsimp only; split <;> rfl); rfl
@[simp] theorem jumpPc_id (t : Word) (c : Core) : (jumpPc t c).id = c.id := by unfold jumpPc; split <;> rfl
@[simp] theorem jumpPc_mode (t : Word) (c : Core) : (jumpPc t c).mode = c.mode := by unfold jumpPc; split <;> rfl
@[simp] theorem jumpPc_halt (t : Word) (c : Core) : (jumpPc t c).halt = c.halt := by unfold jumpPc; split <;> rfl
@[simp] theorem jumpPc_stalled (t : Word) (c : Core) : (jumpPc t c).stalled = c.stalled := by unfold jumpPc; split <;> rfl
@[simp] theorem jumpPc_point (t : Word) (c : Core) : (jumpPc t c).point = c.point := by unfold jumpPc; split <;> rfl
@[simp] theorem jumpPc_x (t : Word) (c : Core) : (jumpPc t c).x = c.x := by unfold jumpPc; split <;> rfl
@[simp] theorem jumpPc_f (t : Word) (c : Core) : (jumpPc t c).f = c.f := by unfold jumpPc; split <;> rfl
@[simp] theorem jumpPc_shadow (t : Word) (c : Core) : (jumpPc t c).shadow = c.shadow := by unfold jumpPc; split <;> rfl
@[simp] theorem jumpPc_loopUser (t : Word) (c : Core) : (jumpPc t c).loopUser = c.loopUser := by unfold jumpPc; split <;> rfl
@[simp] theorem jumpPc_loopSup (t : Word) (c : Core) : (jumpPc t c).loopSup = c.loopSup := by unfold jumpPc; split <;> rfl
@[simp] theorem jumpPc_csr (t : Word) (c : Core) : (jumpPc t c).csr = c.csr := by unfold jumpPc; split <;> rfl
@[simp] theorem jumpPc_dpc (t : Word) (c : Core) : (jumpPc t c).dpc = c.dpc := by unfold jumpPc; split <;> rfl
@[simp] theorem jumpPc_ecause (t : Word) (c : Core) : (jumpPc t c).ecause = c.ecause := by unfold jumpPc; split <;> rfl
@[simp] theorem jumpPc_eval (t : Word) (c : Core) : (jumpPc t c).eval = c.eval := by unfold jumpPc; split <;> rfl
@[simp] theorem jumpPc_decl (t : Word) (c : Core) : (jumpPc t c).decl = c.decl := by unfold jumpPc; split <;> rfl
@[simp] theorem jumpPc_escWaits (t : Word) (c : Core) : (jumpPc t c).escWaits = c.escWaits := by unfold jumpPc; split <;> rfl
@[simp] theorem jumpPc_escServing (t : Word) (c : Core) : (jumpPc t c).escServing = c.escServing := by unfold jumpPc; split <;> rfl
@[simp] theorem jumpPc_stepDue (t : Word) (c : Core) : (jumpPc t c).stepDue = c.stepDue := by unfold jumpPc; split <;> rfl
@[simp] theorem jumpPc_stepCmd (t : Word) (c : Core) : (jumpPc t c).stepCmd = c.stepCmd := by unfold jumpPc; split <;> rfl
@[simp] theorem jumpPc_waitMark (t : Word) (c : Core) : (jumpPc t c).waitMark = c.waitMark := by unfold jumpPc; split <;> rfl
@[simp] theorem jumpPc_mcheck (t : Word) (c : Core) : (jumpPc t c).mcheck = c.mcheck := by unfold jumpPc; split <;> rfl
@[simp] theorem jumpPc_reports (t : Word) (c : Core) : (jumpPc t c).reports = c.reports := by unfold jumpPc; split <;> rfl
@[simp] theorem jumpPc_refusals (t : Word) (c : Core) : (jumpPc t c).refusals = c.refusals := by unfold jumpPc; split <;> rfl
@[simp] theorem jumpPc_env (t : Word) (c : Core) : (jumpPc t c).env = c.env := by unfold jumpPc; split <;> rfl
@[simp] theorem jumpPc_hnd (t : Word) (c : Core) : (jumpPc t c).hnd = c.hnd := by unfold jumpPc; split <;> rfl
@[simp] theorem jumpPc_slots (t : Word) (c : Core) : (jumpPc t c).slots = c.slots := by unfold jumpPc; split <;> rfl
@[simp] theorem jumpPc_pdesc (t : Word) (c : Core) : (jumpPc t c).pdesc = c.pdesc := by unfold jumpPc; split <;> rfl
@[simp] theorem jumpPc_pseq (t : Word) (c : Core) : (jumpPc t c).pseq = c.pseq := by unfold jumpPc; split <;> rfl
@[simp] theorem jumpPc_tags (t : Word) (c : Core) : (jumpPc t c).tags = c.tags := by unfold jumpPc; split <;> rfl
@[simp] theorem jumpPc_sp (t : Word) (c : Core) : (jumpPc t c).sp = c.sp := by unfold jumpPc; split <;> rfl
@[simp] theorem jumpPc_empty (t : Word) (c : Core) : (jumpPc t c).empty = c.empty := by unfold jumpPc; split <;> rfl
@[simp] theorem jumpPc_remap (t : Word) (c : Core) : (jumpPc t c).remap = c.remap := by unfold jumpPc; split <;> rfl
@[simp] theorem jumpPc_pool (t : Word) (c : Core) : (jumpPc t c).pool = c.pool := by unfold jumpPc; split <;> rfl
@[simp] theorem jumpPc_imem (t : Word) (c : Core) : (jumpPc t c).imem = c.imem := by unfold jumpPc; split <;> rfl
@[simp] theorem jumpPc_locks (t : Word) (c : Core) : (jumpPc t c).locks = c.locks := by unfold jumpPc; split <;> rfl
@[simp] theorem jumpPc_deferred (t : Word) (c : Core) : (jumpPc t c).deferred = c.deferred := by unfold jumpPc; split <;> rfl
@[simp] theorem jumpPc_handed (t : Word) (c : Core) : (jumpPc t c).handed = c.handed := by unfold jumpPc; split <;> rfl
@[simp] theorem jumpPc_streams (t : Word) (c : Core) : (jumpPc t c).streams = c.streams := by unfold jumpPc; split <;> rfl
@[simp] theorem jumpPc_sseq (t : Word) (c : Core) : (jumpPc t c).sseq = c.sseq := by unfold jumpPc; split <;> rfl
@[simp] theorem jumpPc_siter (t : Word) (c : Core) : (jumpPc t c).siter = c.siter := by unfold jumpPc; split <;> rfl
@[simp] theorem jumpPc_seqs (t : Word) (c : Core) : (jumpPc t c).seqs = c.seqs := by unfold jumpPc; split <;> rfl
@[simp] theorem jumpPc_mx (t : Word) (c : Core) : (jumpPc t c).mx = c.mx := by unfold jumpPc; split <;> rfl
@[simp] theorem jumpPc_cp (t : Word) (c : Core) : (jumpPc t c).cp = c.cp := by unfold jumpPc; split <;> rfl
@[simp] theorem jumpPc_ni (t : Word) (c : Core) : (jumpPc t c).ni = c.ni := by unfold jumpPc; split <;> rfl
@[simp] theorem jumpPc_layouts (t : Word) (c : Core) : (jumpPc t c).layouts = c.layouts := by unfold jumpPc; split <;> rfl
@[simp] theorem jumpPc_jrn (t : Word) (c : Core) : (jumpPc t c).jrn = c.jrn := by unfold jumpPc; split <;> rfl
@[simp] theorem jumpPc_handlerEnded (t : Word) (c : Core) : (jumpPc t c).handlerEnded = c.handlerEnded := by unfold jumpPc; split <;> rfl
@[simp] theorem jumpPc_blockSaved (t : Word) (c : Core) : (jumpPc t c).blockSaved = c.blockSaved := by unfold jumpPc; split <;> rfl
@[simp] theorem jumpPc_follow (t : Word) (c : Core) : (jumpPc t c).follow = c.follow := by unfold jumpPc; split <;> rfl
@[simp] theorem jumpPc_followLate (t : Word) (c : Core) : (jumpPc t c).followLate = c.followLate := by unfold jumpPc; split <;> rfl
@[simp] theorem jumpPc_lag (t : Word) (c : Core) : (jumpPc t c).lag = c.lag := by unfold jumpPc; split <;> rfl
@[simp] theorem jumpPc_sig (t : Word) (c : Core) : (jumpPc t c).sig = c.sig := by unfold jumpPc; split <;> rfl
@[simp] theorem jumpPc_pc (t : Word) (c : Core) : (jumpPc t c).pc = t := by unfold jumpPc; split <;> rfl

end Sys2Proof.Machine
end

