-- ==== Sys2Proof/Laws/Ops.lean ====
section
/-!
SUPPORT. What each shared operation of `Machine/Ops.lean` can do, said once.
-/

namespace Sys2Proof.Machine
open Sys2Proof

/-! ## Retirement -/

/-- Without a single step under way, nothing happens. -/
theorem settleStep_off (s : State) (h : s.core.csr.sdbg.getLsbD 0 = false) : settleStep s = s := by
  unfold settleStep; rw [h]; rfl

/-- The end of a single step changes nothing but the halt, the resume address, the drain mark and the wait mark. -/
theorem settleStep_spec (s : State) :
    settleStep s = s ∨ settleStep s = (s.mapCore fun c => { c with stepDue := true }) ∨
    settleStep s = haltAt 4 s.core.pc s := by
  unfold settleStep
  split
  · split
    · exact .inr (.inl rfl)
    · exact .inr (.inr rfl)
  · exact .inl rfl

/-- What retirement leaves, for any change `p` of the pc and the loop state alone. -/
theorem finish_ends (p : Core → Core) (s : State)
    (hp : p s.core = { s.core with pc := (p s.core).pc, loop := (p s.core).loop }) :
    Ends (p s.core) s (finish s.core.mode (s.mapCore p)) := by
  have key : ∀ c u : State, (c = u ∨ c = (u.mapCore fun k => { k with stepDue := true }) ∨ c = haltAt 4 u.core.pc u) →
      s.butEnd u = s → u.core.pc = (p s.core).pc → u.core.loop = (p s.core).loop → u.core.stalled = false →
      u.core.csr.instret = (if s.core.mode = .user then s.core.csr.instret + 1 else s.core.csr.instret) →
      (s.core.csr.sdbg.getLsbD 0 = false →
        c.core.halt = s.core.halt ∧ c.core.dpc = s.core.dpc ∧ c.core.stepDue = s.core.stepDue ∧ c.core.stepCmd = s.core.stepCmd) →
      Ends (p s.core) s c := by
    rintro c u (rfl | rfl | rfl) hb h1 h2 h3 h4 h5
    · exact ⟨hb, h1, h2, h3, h4, h5⟩
    · exact ⟨hb, h1, h2, h3, h4, h5⟩
    · exact ⟨hb, h1, h2, rfl, h4, h5⟩
  unfold finish countInstr
  by_cases hm : s.core.mode = .user
  · rw [if_pos hm]
    refine key _ _ (settleStep_spec _) ?_ rfl rfl rfl (by rw [if_pos hm, State.mapCore, State.mapCsr, State.mapCore, hp])
      fun hd => ?_
    · simp only [State.mapCore, State.mapCsr]; rw [hp]; rfl
    · rw [settleStep_off _ (by simp only [State.mapCore, State.mapCsr]; rw [hp]; exact hd)]
      simp only [State.mapCore, State.mapCsr]; rw [hp]; exact ⟨rfl, rfl, rfl, rfl⟩
  · rw [if_neg hm]
    refine key _ _ (settleStep_spec _) ?_ rfl rfl rfl (by rw [if_neg hm, State.mapCore, State.mapCore, hp]) fun hd => ?_
    · simp only [State.mapCore]; rw [hp]; rfl
    · rw [settleStep_off _ (by simp only [State.mapCore]; rw [hp]; exact hd)]
      simp only [State.mapCore]; rw [hp]; exact ⟨rfl, rfl, rfl, rfl⟩

/-- Retirement of an instruction that falls through. -/
theorem retire_ends (s : State) : Ends (stepPc s.core) s (retire s) :=
  finish_ends stepPc s (by unfold stepPc; split; (dsimp only; split <;> rfl); rfl)

/-- Retirement of a taken branch or jump. -/
theorem retireTo_ends (p : Word) (s : State) : Ends (jumpPc p s.core) s (retireTo p s) :=
  finish_ends (jumpPc p) s (by unfold jumpPc; split <;> rfl)

/-- An instruction that neither traps nor waits completes. -/
theorem performPure_falls (i : Instr) (f : State → State) (s : State) : Falls (performPure i true f s) (f s) :=
  ⟨_, rfl, retire_ends _⟩

/-- An instruction whose body answers a state completes. -/
theorem perform_falls {i : Instr} {legal : Bool} {body : State → Run State} {s u : State} (hl : legal = true)
    (h : body s = .ok u) : Falls (perform i legal body s) u :=
  ⟨retire u, by simp [perform, performWith, hl, h, conclude, Except.map], retire_ends _⟩

/-- The next pc does not rest on the CSRs. -/
theorem stepPc_anyCsr (c : Core) (k : Csrs) : stepPc { c with csr := k } = { stepPc c with csr := k } := by
  by_cases h : (c.loop.active && c.pc == c.loop.last) = true
  · by_cases hr : c.loop.remaining - 1 = 0 <;> simp only [stepPc, h, hr, if_true, if_false]
  · simp only [stepPc, h, Bool.false_eq_true, if_false]

/-- A CSR instruction completes with the write that it makes; a single step ends with it as SDBG stood at its issue (R149). -/
theorem performCsr_falls (i : Instr) (f : State → State) (s : State) :
    FallsAs (s.core.csr.sdbg.getLsbD 0) (performCsr i true f s) (f s) := by
  obtain ⟨hb, hp, hl, hs, hi, hd⟩ := retire_ends ((f s).mapCsr fun c => { c with sdbg := s.core.csr.sdbg })
  refine ⟨_, rfl, ?_, ?_, ?_, hs, hi, hd⟩
  · exact congrArg (fun u : State => u.mapCsr fun c => { c with sdbg := (f s).core.csr.sdbg }) hb
  · exact hp.trans (by rw [show ((f s).mapCsr fun c => { c with sdbg := s.core.csr.sdbg }).core =
      { (f s).core with csr := { (f s).core.csr with sdbg := s.core.csr.sdbg } } from rfl, stepPc_anyCsr])
  · exact hl.trans (by rw [show ((f s).mapCsr fun c => { c with sdbg := s.core.csr.sdbg }).core =
      { (f s).core with csr := { (f s).core.csr with sdbg := s.core.csr.sdbg } } from rfl, stepPc_anyCsr])

/-- An instruction that is illegal here raises cause 0x02 with its word. -/
theorem perform_illegal (i : Instr) (body : State → Run State) (s : State) :
    perform i false body s = .next (raise 2 (wordOf i) s) := rfl

/-- A body that traps raises its cause in the state as it stands. -/
theorem perform_trap {i : Instr} {body : State → Run State} {s : State} {c : Nat} {v : Word}
    (h : body s = .error (.trap c v)) : perform i true body s = .next (raise c v s) := by
  simp [perform, performWith, h, conclude, Except.map]

end Sys2Proof.Machine
end

