-- ==== Sys2Proof/Tests/Slice0.lean ====
section
/-!
SUPPORT. The model's own tests: ill-formed terms that `wellFormed` refuses, words written out from the spec's encoding,
small steps with results taken from the spec, and for every statement states that meet its hypotheses.
-/

namespace Sys2Proof.Machine
open Sys2Proof

/-! ## Terms that the encoding does not admit -/

/-- R46, R47, R49 to R51: one ill-formed term for each check of `wellFormed`. -/
theorem test_ill_formed : ∀ i ∈ ([.loop 1 2 0, .lwp 1 2 0, .swp 3 2 0, .fence 0 false false true true, .fence 0 true true false false,
    .amoadd 1 2 3 0 0 true, .amoadd 0 3 4 2 0 true, .amoand 1 2 3 0 0 true, .amoor 1 2 3 0 0 true, .amoxor 1 2 3 0 0 true,
    .amomin 1 2 3 0 0 true, .amomax 1 2 3 0 0 true, .amominu 1 2 3 0 0 true, .amomaxu 1 2 3 0 0 true, .amoswap 1 2 3 0 0 true,
    .amocas 1 3 4 3 0, .amoincb 5 9 6 2 3 false, .amofadd 1 2 3 0 0 true, .rload 1 3 false, .rwait 1 2 true, .rstore 3 4 false,
    .rstore 2 3 true, .hdrPack 1 2 0, .hdrParse 2 1 0, .arrive 1 true 16, .bwait 1 true 31, .bgroup 1 true 16] : List Instr),
    i.wellFormed = false := by decide

/-- R49, R50: rounding codes 5 and 6. -/
theorem test_ill_rounding : ∀ i ∈ ([.fadd 1 2 3 5, .fsub 1 2 3 6, .fmul 1 2 3 5, .fdiv 1 2 3 6, .fsqrt 1 2 5, .fcvtWS 1 2 6,
    .fcvtWuS 1 2 5, .fcvtSW 1 2 6, .fcvtSWu 1 2 5, .fcvtBhS 1 2 6, .fcvtHhS 1 2 5, .fexp2 1 2 6, .flog2 1 2 5, .frcp 1 2 6,
    .frsq 1 2 5, .ftanh 1 2 6, .fsigm 1 2 5, .fma 1 2 3 4 6, .fms 1 2 3 4 5, .fnma 1 2 3 4 6, .fnms 1 2 3 4 5, .hadd2 1 2 3 6,
    .hmul2 1 2 3 5, .hfma2 1 2 3 6] : List Instr), i.wellFormed = false := by decide

/-- R197 to R200, R213, R229, R233, R247, R267: the checks of the engine groups. -/
theorem test_ill_engines : ∀ i ∈ ([.scfg 6 1 2 0, .scfg 1 1 2 6, .smap 6, .sunmap 31, .sstat 1 6 2, .sstat 1 1 3, .sstat 1 0 5,
    .mstrmH 1 8 2 false, .mcmd 1 3 2, .mstat 1 5, .ccopy 1 2 0 false false false 3, .ccopy 1 2 0 false true false 1,
    .ccopy 1 2 0 false false true 2, .ccopy 1 8 0 false false true 0, .ccopy 1 2 8 false true false 0, .ccopy 1 2 3 false false false 1,
    .cgath 1 8 2 false true false, .cbCfg 8 1 2, .cbWaitf 1 8 2, .cbWaite 1 8 2, .cbAdvp 8 1, .cbAdvc 8 1, .pfetch 8 1 2,
    .confirm 8 1 false, .cancel 8, .pwait 8, .pread 1 8 false, .eclr 8, .eins 1 3 2, .eins 8 2 2, .eld 8 1, .est 8 1, .emax 1 2 8,
    .esum 1 8 2, .eicv 8 1 2, .ecnj 1 8, .eeval 1 2 3 3, .eeval 1 8 2 0, .eshf 8 1 2, .ecnt 1 8, .edomClip 8 1 2, .edomLo 1 8,
    .edomHi 1 8] : List Instr), i.wellFormed = false := by decide

/-! ## Words written out from the encoding (chapter 3) -/

/-- The worked encodings of chapter 3, and those of chapters 6 and 11 to 16. -/
theorem test_decode_worked : ∀ e ∈ ([(0x296A1007, .srai 11 10 7), (0x4540FFFC, .bne 10 0 0xFFFC), (0x8CA83558, .amoincb 5 8 6 2 3 false),
    (0xA822190E, .fma 1 2 3 4 7), (0x84000100, .swp 0 0 0x100), (0x058A5801, .sub 12 10 11), (0x3CA00005, .loop 5 0 5),
    (0xA4611300, .fadd 3 1 2 3), (0xB0063801, .scfg 0 6 7 1), (0xB0400040, .sunmap 2), (0xB0060060, .vloop 0 6 0),
    (0xB4072020, .mldw 0 7 4 false), (0xB4084860, .mstrm 0 8 9 false), (0xB4124880, .mdrn 0 18 9 false false false),
    (0xB8042800, .ccfg 4 5 0), (0xBC063801, .pcfg 6 7 true), (0xBC4A2820, .pfetch 2 10 5), (0xBC4B0050, .confirm 2 11 true),
    (0xC0448820, .eins 2 4 17), (0xC06110A0, .esum 3 1 2), (0xC1415902, .eeval 10 1 11 2), (0xC5442801, .lease 10 4 5 true),
    (0xC56A0041, .lqry 11 10 true)] : List (Nat × Instr)), decodeTableWord 32 e.1 = some e.2 := by decide

/-- R53: words that are refused: major opcode 0 is its own row, reserved opcodes, selectors past the list, must-be-zero fields, odd
pairs, registers past 7, LOOP with no body. -/
theorem test_decode_refused : ∀ w ∈ ([0xFFFFFFFF, 0xC8000000, 0x04000010, 0x8CA93558, 0x3C000000, 0xBC4A2830, 0xC0458820, 0x0C600802,
    0xB0C60000] : List Nat), decodeTableWord 32 w = none := by decide

/-- R45, R48, R49: ALU, op 0x01, fn 10:0. -/
theorem test_decode_alu : ∀ e ∈ ([
    (0x054C7000, .add 10 12 14), (0x054C7001, .sub 10 12 14), (0x054C7002, .and 10 12 14), (0x054C7003, .or 10 12 14),
    (0x054C7004, .xor 10 12 14), (0x054C7005, .andn 10 12 14), (0x054C7006, .sll 10 12 14), (0x054C7007, .srl 10 12 14),
    (0x054C7008, .sra 10 12 14), (0x054C7009, .ror 10 12 14), (0x054C700A, .slt 10 12 14), (0x054C700B, .sltu 10 12 14),
    (0x054C700C, .min 10 12 14), (0x054C700D, .max 10 12 14), (0x054C700E, .minu 10 12 14),
    (0x054C700F, .maxu 10 12 14)] : List (Nat × Instr)), decodeTableWord 32 e.1 = some e.2 := by decide

/-- R45, R48, R49: MULDIV, op 0x02, fn 10:0. -/
theorem test_decode_muldiv : ∀ e ∈ ([
    (0x094C7000, .mul 10 12 14), (0x094C7001, .mulh 10 12 14), (0x094C7002, .mulhu 10 12 14), (0x094C7003, .mulhsu 10 12 14),
    (0x094C7004, .div 10 12 14), (0x094C7005, .divu 10 12 14), (0x094C7006, .rem 10 12 14),
    (0x094C7007, .remu 10 12 14)] : List (Nat × Instr)), decodeTableWord 32 e.1 = some e.2 := by decide

/-- R45, R48, R49: BITS, op 0x03, fn 10:0. -/
theorem test_decode_bits : ∀ e ∈ ([
    (0x0D4C0000, .clz 10 12), (0x0D4C0001, .ctz 10 12), (0x0D4C0002, .popc 10 12), (0x0D4C0003, .brev 10 12),
    (0x0D4C0004, .bswap 10 12), (0x0D4C7005, .bfx 10 12 14), (0x0D4C7006, .bfxu 10 12 14), (0x0D4C7007, .bfi 10 12 14),
    (0x0D4C0008, .okeyH 10 12),
    (0x0D4C0009, .okeyW 10 12)] : List (Nat × Instr)), decodeTableWord 32 e.1 = some e.2 := by decide

/-- R45, R48, R49: op 0x04 to 0x0A. -/
theorem test_decode_immediate : ∀ e ∈ ([
    (0x114C8001, .addi 10 12 0x8001), (0x154C8001, .andi 10 12 0x8001), (0x194C8001, .ori 10 12 0x8001),
    (0x1D4C8001, .xori 10 12 0x8001), (0x214C8001, .slti 10 12 0x8001), (0x254C8001, .sltiu 10 12 0x8001),
    (0x294C001F, .slli 10 12 31), (0x294C081F, .srli 10 12 31), (0x294C101F, .srai 10 12 31),
    (0x294C181F, .rori 10 12 31)] : List (Nat × Instr)), decodeTableWord 32 e.1 = some e.2 := by decide

/-- R45, R48, R49: op 0x0B to 0x15. -/
theorem test_decode_upper_jump : ∀ e ∈ ([
    (0x2D500001, .lui 10 0x100001), (0x315FFFFF, .auipc 10 0x1FFFFF), (0x35500002, .jal 10 0x100002),
    (0x394CFFFC, .jalr 10 12 0xFFFC), (0x3D4C0001, .loop 10 12 1), (0x414C8003, .beq 10 12 0x8003),
    (0x454C8003, .bne 10 12 0x8003), (0x494C8003, .blt 10 12 0x8003), (0x4D4C8003, .bge 10 12 0x8003),
    (0x514C8003, .bltu 10 12 0x8003),
    (0x554C8003, .bgeu 10 12 0x8003)] : List (Nat × Instr)), decodeTableWord 32 e.1 = some e.2 := by decide

/-- R45, R48, R49: op 0x16 to 0x21. -/
theorem test_decode_load_store : ∀ e ∈ ([
    (0x594C8004, .lb 10 12 0x8004), (0x5D4C8004, .lbu 10 12 0x8004), (0x614C8004, .lh 10 12 0x8004),
    (0x654C8004, .lhu 10 12 0x8004), (0x694C8004, .lw 10 12 0x8004), (0x6D4C8004, .flw 10 12 0x8004),
    (0x714C8004, .sb 10 12 0x8004), (0x754C8004, .sh 10 12 0x8004), (0x794C8004, .sw 10 12 0x8004),
    (0x7D4C8004, .fsw 10 12 0x8004), (0x814C8004, .lwp 10 12 0x8004),
    (0x854C8004, .swp 10 12 0x8004)] : List (Nat × Instr)), decodeTableWord 32 e.1 = some e.2 := by decide

/-- R45, R48, R49: MEMX, op 0x22, fn 10:7. -/
theorem test_decode_memx : ∀ e ∈ ([
    (0x894C0000, .tlook 10 12), (0x894C7080, .tset 10 12 14), (0x894C0100, .tinv 10 12), (0x894C0180, .take 10 12),
    (0x894C7200, .ttake 10 12 14), (0x880C7280, .put 12 14), (0x880C7300, .feset 12 14),
    (0x880003D2, .fence 2 true false false true), (0x88000400, .fenceI),
    (0x88000480, .fenceE)] : List (Nat × Instr)), decodeTableWord 32 e.1 = some e.2 := by decide

/-- R45, R48, R49: AMO, op 0x23, fn 10:7. -/
theorem test_decode_amo : ∀ e ∈ ([
    (0x8C0C7004, .amoadd 0 12 14 0 0 true), (0x8D4C70A0, .amoand 10 12 14 1 0 false), (0x8C0C714C, .amoor 0 12 14 2 1 true),
    (0x8D4C71E8, .amoxor 10 12 14 3 1 false), (0x8C0C7214, .amomin 0 12 14 0 2 true), (0x8D4C72B0, .amomax 10 12 14 1 2 false),
    (0x8C0C735C, .amominu 0 12 14 2 3 true), (0x8D4C73F8, .amomaxu 10 12 14 3 3 false),
    (0x8C0C7404, .amoswap 0 12 14 0 0 true), (0x8D4C74A0, .amocas 10 12 14 1 0), (0x8C0C754C, .amoincb 0 12 14 2 1 true),
    (0x8D4C75E8, .amofadd 10 12 14 3 1 false)] : List (Nat × Instr)), decodeTableWord 32 e.1 = some e.2 := by decide

/-- R45, R48, R49: MSG, op 0x24, fn 10:7. -/
theorem test_decode_msg : ∀ e ∈ ([
    (0x914C0001, .rload 10 12 true), (0x914C0080, .rwait 10 12 false), (0x900C7101, .rstore 12 14 true), (0x90000180, .msend),
    (0x91400200, .mrecv 10), (0x90000280, .mpop), (0x914C0307, .hdrPack 10 12 7), (0x914C0385, .hdrParse 10 12 5),
    (0x900C0403, .hdrLay 12 3)] : List (Nat × Instr)), decodeTableWord 32 e.1 = some e.2 := by decide

/-- R45, R48, R49: SYNC, op 0x25, fn 10:7. -/
theorem test_decode_sync : ∀ e ∈ ([
    (0x9540001F, .arrive 10 false 31), (0x940C00AF, .bwait 12 true 15), (0x940C0107, .bgroup 12 false 7),
    (0x95400189, .evwait 10 9), (0x940C021F, .evsig 12 31), (0x94000281, .evlock 1),
    (0x94000302, .evunlock 2)] : List (Nat × Instr)), decodeTableWord 32 e.1 = some e.2 := by decide

/-- R45, R48, R49: POINT and SYS, op 0x26 and 0x27, fn 10:7. -/
theorem test_decode_point_sys : ∀ e ∈ ([
    (0x98000000, .pdone), (0x98000080, .pphase), (0x994C0100, .follow 10 12), (0x98000180, .detach), (0x9C00007F, .sysc 127),
    (0x9C000081, .brk 1), (0x9C000100, .uret), (0x9C000180, .sret), (0x9C000200, .udecline), (0x9C000280, .wfi),
    (0x9D4C0300, .mcap 10 12)] : List (Nat × Instr)), decodeTableWord 32 e.1 = some e.2 := by decide

/-- R45, R48, R49: CSR, op 0x28, imm 15:12. -/
theorem test_decode_csr : ∀ e ∈ ([
    (0xA14C0801, .csrrw 10 12 0x801), (0xA14C1801, .csrrs 10 12 0x801),
    (0xA14C2801, .csrrc 10 12 0x801)] : List (Nat × Instr)), decodeTableWord 32 e.1 = some e.2 := by decide

/-- R45, R48, R49: FP, op 0x29, fn 4:0, the first half. -/
theorem test_decode_fp_low : ∀ e ∈ ([
    (0xA54C7300, .fadd 10 12 14 3), (0xA54C7301, .fsub 10 12 14 3), (0xA54C7302, .fmul 10 12 14 3),
    (0xA54C7303, .fdiv 10 12 14 3), (0xA54C0304, .fsqrt 10 12 3), (0xA54C7005, .fmin 10 12 14), (0xA54C7006, .fmax 10 12 14),
    (0xA54C7007, .fminp 10 12 14), (0xA54C7008, .fmaxp 10 12 14), (0xA54C7009, .fsgnj 10 12 14),
    (0xA54C700A, .fsgnjn 10 12 14), (0xA54C700B, .fsgnjx 10 12 14), (0xA54C700C, .feq 10 12 14), (0xA54C700D, .flt 10 12 14),
    (0xA54C700E, .fle 10 12 14),
    (0xA54C000F, .fclass 10 12)] : List (Nat × Instr)), decodeTableWord 32 e.1 = some e.2 := by decide

/-- R45, R48, R49: FP, op 0x29, fn 4:0, the second half. -/
theorem test_decode_fp_high : ∀ e ∈ ([
    (0xA54C0310, .fcvtWS 10 12 3), (0xA54C0311, .fcvtWuS 10 12 3), (0xA54C0312, .fcvtSW 10 12 3),
    (0xA54C0313, .fcvtSWu 10 12 3), (0xA54C0014, .fcvtSBh 10 12), (0xA54C0315, .fcvtBhS 10 12 3), (0xA54C0016, .fcvtSHh 10 12),
    (0xA54C0317, .fcvtHhS 10 12 3), (0xA54C0018, .fmvXS 10 12), (0xA54C0019, .fmvSX 10 12), (0xA54C031A, .fexp2 10 12 3),
    (0xA54C031B, .flog2 10 12 3), (0xA54C031C, .frcp 10 12 3), (0xA54C031D, .frsq 10 12 3), (0xA54C031E, .ftanh 10 12 3),
    (0xA54C031F, .fsigm 10 12 3)] : List (Nat × Instr)), decodeTableWord 32 e.1 = some e.2 := by decide

/-- R45, R48, R49: FMA, op 0x2A, fn 5:4. -/
theorem test_decode_fma : ∀ e ∈ ([
    (0xA94C744E, .fma 10 12 14 17 7), (0xA94C745E, .fms 10 12 14 17 7), (0xA94C746E, .fnma 10 12 14 17 7),
    (0xA94C747E, .fnms 10 12 14 17 7)] : List (Nat × Instr)), decodeTableWord 32 e.1 = some e.2 := by decide

/-- R45, R48, R49: packed, op 0x2B, fn 3:0. -/
theorem test_decode_packed : ∀ e ∈ ([
    (0xAD4C7100, .hadd2 10 12 14 1), (0xAD4C7101, .hmul2 10 12 14 1), (0xAD4C7102, .hfma2 10 12 14 1),
    (0xAD4C7003, .hmax2 10 12 14), (0xAD4C7004, .iaddF 10 12 14), (0xAD4C7005, .isubF 10 12 14), (0xAD4C7006, .iandF 10 12 14),
    (0xAD4C7007, .iorF 10 12 14), (0xAD4C7008, .ixorF 10 12 14), (0xAD4C7009, .isllF 10 12 14), (0xAD4C700A, .isrlF 10 12 14),
    (0xAD4C700B, .iselF 10 12 14), (0xAD4C700C, .icmpltF 10 12 14),
    (0xAD4C700D, .icmpeqF 10 12 14)] : List (Nat × Instr)), decodeTableWord 32 e.1 = some e.2 := by decide

/-- R45, R48, R49: STREAM, op 0x2C, eop 10:5. -/
theorem test_decode_stream : ∀ e ∈ ([
    (0xB0AC7004, .scfg 5 12 14 4), (0xB0600020, .smap 3), (0xB0800040, .sunmap 4), (0xB14C006F, .vloop 10 12 15),
    (0xB0000080, .vwait), (0xB14500A2, .sstat 10 5 2)] : List (Nat × Instr)), decodeTableWord 32 e.1 = some e.2 := by decide

/-- R45, R48, R49: MATRIX, op 0x2D, eop 10:5. -/
theorem test_decode_matrix : ∀ e ∈ ([
    (0xB54C7010, .mcfgStr 10 12 14 true), (0xB54C7001, .mcfgScl 10 12 14 false), (0xB54C7020, .mldw 10 12 14 false),
    (0xB5400050, .mswap 10 true), (0xB54C7060, .mstrm 10 12 14 false), (0xB5477061, .mstrmH 10 7 14 false),
    (0xB54C7092, .mdrn 10 12 14 true true false), (0xB54070A0, .mzero 10 14 false), (0xB40000C0, .mwait),
    (0xB54C70E0, .mcmd 10 12 14),
    (0xB5400104, .mstat 10 4)] : List (Nat × Instr)), decodeTableWord 32 e.1 = some e.2 := by decide

/-- R45, R48, R49: COPY, op 0x2E, eop 10:5. -/
theorem test_decode_copy : ∀ e ∈ ([
    (0xB80C7002, .ccfg 12 14 2), (0xB94C0031, .ccopy 10 12 0 true false false 1),
    (0xB94C7041, .cgath 10 12 14 false false true), (0xB8000060, .cwait), (0xB82C7080, .cbCfg 1 12 14),
    (0xB94770A0, .cbWaitf 10 7 14), (0xB94770C0, .cbWaite 10 7 14), (0xB80770E0, .cbAdvp 7 14), (0xB8077100, .cbAdvc 7 14),
    (0xB80C7120, .cbRadv 12 14)] : List (Nat × Instr)), decodeTableWord 32 e.1 = some e.2 := by decide

/-- R45, R48, R49: PRED, op 0x2F, eop 10:5. -/
theorem test_decode_pred : ∀ e ∈ ([
    (0xBC0C7000, .pcfg 12 14 false), (0xBC0C7001, .pcfg 12 14 true), (0xBCEC7020, .pfetch 7 12 14),
    (0xBC4B0050, .confirm 2 11 true), (0xBC400060, .cancel 2), (0xBC400080, .pwait 2), (0xBD4700A1, .pread 10 7 true),
    (0xBD4C00A2, .preadEnt 10 12), (0xBC0C70C0, .ptrainSet 12 14),
    (0xBC0C00C1, .ptrainInv 12)] : List (Nat × Instr)), decodeTableWord 32 e.1 = some e.2 := by decide

/-- R45, R48, R49: ENV, op 0x30, eop 10:5. -/
theorem test_decode_env : ∀ e ∈ ([
    (0xC0200000, .eclr 1), (0xC02C7020, .eins 1 12 14), (0xC02C0040, .eld 1 12), (0xC02C0060, .est 1 12),
    (0xC0221880, .emax 1 2 3), (0xC02218A0, .esum 1 2 3), (0xC02218C0, .eicv 1 2 3), (0xC02200E0, .ecnj 1 2),
    (0xC1427102, .eeval 10 2 14 2), (0xC02C7120, .eshf 1 12 14), (0xC1420140, .ecnt 10 2), (0xC02C7160, .edomClip 1 12 14),
    (0xC1420161, .edomLo 10 2),
    (0xC1420162, .edomHi 10 2)] : List (Nat × Instr)), decodeTableWord 32 e.1 = some e.2 := by decide

/-- R45, R48, R49: LEASE, op 0x31, eop 10:5. -/
theorem test_decode_lease : ∀ e ∈ ([
    (0xC54C7001, .lease 10 12 14 true), (0xC40C7020, .lrel 12 14), (0xC54C0041, .lqry 10 12 true),
    (0xC40C7060, .lfloor 12 14)] : List (Nat × Instr)), decodeTableWord 32 e.1 = some e.2 := by decide

/-! ## Small states -/

/-- A compute core in user mode that runs a point. -/
def tCore (f : Core → Core) : State := { State.reset with core := f { Core.reset 0 with point := some ⟨0, 0, 0, 0, 0⟩ } }

/-- The same with its CSRs changed. -/
def tCsr (f : Csrs → Csrs) : State := tCore fun c => { c with csr := f c.csr }

/-- The same with some x registers. -/
def tX (l : List (Nat × Word)) : State := tCore fun c => { c with x := l.foldl (fun v e => v.setIfInBounds e.1 e.2) c.x }

/-- The same with some f registers. -/
def tF (l : List (Nat × Word)) : State := tCore fun c => { c with f := l.foldl (fun v e => v.setIfInBounds e.1 e.2) c.f }

/-- A core in supervisor mode. -/
def tSup : State := tCore fun c => { c with mode := .supervisor }

/-- A steward of cluster 0, and a memory core. -/
def tSteward : State := { State.reset with core := .reset 0x4000 }
def tMemory : State := { State.reset with core := .reset 0x4800 }

/-- What a step answers, where it answers a next state. -/
def tNext (o : Result) (p : State → Bool) : Bool :=
  match o with
  | .next t => p t
  | .fault _ => false
  | .refused _ => false

/-! ## Integer instructions -/

/-- R97, R100, R102: the spec's own examples and corners. -/
theorem test_alu : tNext (exec (.sub 3 1 2) (tX [(1, 3), (2, 5)])) (fun t => t.x 3 == 0xFFFFFFFE && t.core.pc == 4) = true ∧
    tNext (exec (.sra 3 1 2) (tX [(1, 0x80000000), (2, 33)])) (fun t => t.x 3 == 0xC0000000) = true ∧
    tNext (exec (.div 3 1 2) (tX [(1, 0xFFFFFFF9), (2, 2)])) (fun t => t.x 3 == 0xFFFFFFFD) = true ∧
    tNext (exec (.rem 3 1 2) (tX [(1, 0xFFFFFFF9), (2, 2)])) (fun t => t.x 3 == 0xFFFFFFFF) = true ∧
    tNext (exec (.divu 3 1 2) (tX [(1, 7)])) (fun t => t.x 3 == 0xFFFFFFFF) = true ∧
    tNext (exec (.mulh 3 1 2) (tX [(1, 0xFFFFFFFF), (2, 2)])) (fun t => t.x 3 == 0xFFFFFFFF) = true := by decide

theorem test_bits : tNext (exec (.bfxu 3 1 2) (tX [(1, 0xF00), (2, 0x68)])) (fun t => t.x 3 == 15) = true ∧
    tNext (exec (.bfx 3 1 2) (tX [(1, 0xF00), (2, 0x68)])) (fun t => t.x 3 == 0xFFFFFFFF) = true ∧
    tNext (exec (.bfi 3 1 2) (tX [(1, 5), (2, 0x68), (3, 0xAAAAAAAA)])) (fun t => t.x 3 == 0xAAAAA5AA) = true ∧
    tNext (exec (.okeyH 3 1) (tF [(1, 0xBE003E00)])) (fun t => t.x 3 == 0x41FFBE00) = true ∧
    tNext (exec (.add 0 1 2) (tX [(1, 3), (2, 5)])) (fun t => t.x 0 == 0) = true := by decide

theorem witness_BitOperations : ((∀ j, j < 32 → (State.reset.x 1).getLsbD (31 - j) = false) ∧ (∀ j, j < 32 → (State.reset.x 1).getLsbD j = false)) ∧
    (0 ≤ 32 ∧ (0x80000001 : Word).getLsbD (31 - 0) = true ∧ (0x80000001 : Word).getLsbD 0 = true) ∧
    (∀ j, j < 32 → (0x80000000 : Word).getLsbD j = (1 : Word).getLsbD (31 - j)) ∧
    (∀ j, j < 32 → (0x01000000 : Word).getLsbD j = (1 : Word).getLsbD (8 * (3 - j / 8) + j % 8)) := by decide

theorem witness_JumpsAndBranches : BitVec.toNat (BitVec.ofInt 32 ((State.reset.x 1).toInt + (4 : BitVec 16).toInt)) % 4 = 0 ∧
    BitVec.toNat (BitVec.ofInt 32 ((State.reset.x 1).toInt + (2 : BitVec 16).toInt)) % 4 ≠ 0 := by decide

theorem witness_HardwareLoop : ∃ c d e : Core, c.loop.active = false ∧
    (d.loop.active = true ∧ d.pc = d.loop.last ∧ d.loop.remaining ≠ 1) ∧
    (e.loop.active = true ∧ e.pc = e.loop.last ∧ e.loop.remaining = 1) ∧
    (d.loop.start ≤ (4 : Word) ∧ (4 : Word) ≤ d.loop.last) ∧ d.loop.last < (12 : Word) ∧
    (State.reset.x 1).toInt - (State.reset.x 2).toInt ≤ 0 ∧ 0 < ((tX [(1, 1)]).x 1).toInt - ((tX [(1, 1)]).x 2).toInt :=
  ⟨.reset 0, { Core.reset 0 with pc := 8, loop := ⟨true, 4, 8, 2⟩ }, { Core.reset 0 with pc := 8, loop := ⟨true, 4, 8, 1⟩ }, by decide⟩

/-! ## Traps, returns and system instructions -/

/-- R145: BREAK in user mode with hen = 1 enters the user handler with cause 3. -/
theorem test_break : tNext (exec (.brk 5) (tCsr fun c => { c with ustatus := 0x11, utvec := 0x100 }))
    (fun t => t.core.csr.ucause == 3 && t.core.csr.uval == 5 && t.core.pc == 0x100 && t.core.csr.ustatus == 0x16) = true := by decide

theorem witness_UserModeTraps : ((tCsr fun c => { c with ustatus := 0x10 }).core.mode = .user ∧ 2 ≠ 8 ∧
      (tCsr fun c => { c with ustatus := 0x10 }).core.csr.ustatus.getLsbD 4 = true ∧
      (tCsr fun c => { c with ustatus := 0x10 }).core.csr.ustatus.getLsbD 2 = false) ∧
    (tCsr id).core.csr.ustatus.getLsbD 4 = false ∧ (tCsr fun c => { c with ustatus := 0x14 }).core.csr.ustatus.getLsbD 2 = true := by
  decide

theorem witness_TrapEntersSupervisor : tSup.core.mode = .supervisor := by decide

theorem witness_InstructionEnd : (tCsr id).core.csr.sdbg.getLsbD 0 = false ∧
    (tCore fun c => { c with halt := some 1 }).core.halt ≠ none ∧
    ((tCsr fun c => { c with sdbg := 1 }).core.csr.sdbg.getLsbD 0 = true ∧ (tCsr fun c => { c with sdbg := 1 }).core.halt = none ∧
      (tCsr fun c => { c with sdbg := 1 }).core.stepCmd = none) ∧
    (∀ k ∈ ([0, 1, 3] : List (BitVec 2)), (tCore fun c => { c with stepCmd := some (k, 5), csr := { c.csr with sdbg := 3 } }).core.stepCmd =
      some (k, 5)) := by decide

theorem witness_SystemInstructions : (tCsr id).core.mode = .user ∧ tSup.core.mode = .supervisor ∧
    (tCsr id).core.csr.sdbg.getLsbD 2 = false ∧ (tCsr fun c => { c with sdbg := 4 }).core.csr.sdbg.getLsbD 2 = true ∧
    ((tCsr fun c => { c with ustatus := 4 }).compute = true ∧ (tCsr fun c => { c with ustatus := 4 }).core.mode = .user ∧
      (tCsr fun c => { c with ustatus := 4 }).core.csr.ustatus.getLsbD 2 = true) ∧
    tSteward.compute = false ∧ (tCsr id).core.csr.ustatus.getLsbD 2 = false ∧
    ((tCsr id).entered = false ∨ (tCsr id).core.csr.ctxsaved = false) ∧ uipOf (tCsr fun c => { c with uip := 4 }) ≠ 0 ∧ sipOf (tCsr fun c => { c with sip := 2 }) ≠ 0 ∧
    (uipOf (tCsr id) = 0 ∧ sipOf (tCsr id) = 0) := by decide

theorem witness_Returns : ((tCsr fun c => { c with ustatus := 0xE }).compute = true ∧ (tCsr fun c => { c with ustatus := 0xE }).core.mode = .user ∧
      (tCsr fun c => { c with ustatus := 0xE }).core.csr.ustatus.getLsbD 2 = true) ∧ tSteward.core.mode = .supervisor ∧
    (tX []).core.mode = .user := by decide

/-- R144: SRET of a compute core goes back to user mode at SEPC, with sie restored. -/
theorem test_sret : tNext (exec .sret (tCore fun c => { c with mode := .supervisor, csr := { c.csr with sstatus := 2, sepc := 0x80 } }))
    (fun t => t.core.mode == .user && t.core.pc == 0x80 && t.core.csr.sstatus == 3) = true := by decide

theorem witness_CapabilitiesAndIllegalWords :
    (tSteward.mapUnit fun u => { u with launch := some 7, key := some 1 }).unit.launch = some 7 ∧
    (tSteward.mapUnit fun u => { u with launch := some 7, key := some 1 }).unit.key = some 1 ∧
    (tSteward.mapUnit fun u => { u with launch := some 7, key := some 1 }).kind = .steward ∧
    (tSteward.kind = .steward ∧ tSteward.unit.launch = none) ∧ (tCsr id).kind ≠ .steward ∧
    fetchWord (placeWord 0x04000010 (tCsr id)) = some 0x04000010 ∧ decodeTableWord 32 0x04000010 = none ∧
    (tCore fun c => { c with pc := 0x40000 }).kind = .compute ∧
    0x40000 ≤ (tCore fun c => { c with pc := 0x40000 }).core.pc.toNat := by decide

theorem witness_CsrInstructions : ((0x001 : BitVec 12) < 0x100 ∧ (tX [(1, 0)]).x 1 = 0 ∧ (tX [(1, 3)]).x 1 ≠ 0) ∧
    (tSup.core.mode = .supervisor ∧ ¬ (0x130 : BitVec 12) ≤ 0x026) ∧ ((0x026 : BitVec 12) < 0x100 ∧ (tCsr id).kind = .compute) ∧
    ((0x100 : BitVec 12) ≤ 0x100 ∧ (tCsr id).core.mode = .user) ∧ csrValue tSup 0x0FF = none := by decide

/-! ## Floating point -/

/-- R76, R77: 1 + 2^-24 rounds to 1 by nearest and to the next number up. -/
theorem test_fadd : tNext (exec (.fadd 3 1 2 0) (tF [(1, 0x3F800000), (2, 0x33800000)])) (fun t => t.f 3 == 0x3F800000) = true ∧
    tNext (exec (.fadd 3 1 2 3) (tF [(1, 0x3F800000), (2, 0x33800000)]))
      (fun t => t.f 3 == 0x3F800001 && t.core.csr.fcsr == 0x10) = true ∧
    tNext (exec (.fdiv 3 1 2 0) (tF [(1, 0x3F800000)])) (fun t => t.f 3 == 0x7F800000 && t.core.csr.fcsr == 0x80) = true ∧
    tNext (exec (.fcvtWS 3 1 1) (tF [(1, 0xC0200000)])) (fun t => t.x 3 == 0xFFFFFFFE) = true := by decide

theorem witness_FpTwoOperandForms : takeF false 1 (tF [(1, 1)]) = .ok (1, tF [(1, 1)]) ∧ takeF false 2 (tF [(1, 1)]) = .ok (0, tF [(1, 1)]) ∧
    putF false 3 5 (tF [(1, 1)]) = .ok ((tF [(1, 1)]).setF 3 5) ∧ (tF [(1, 1)]).fBusy [3, 1, 2] = false ∧
    (tF [(1, 1)]).core.csr.fcsr.toNat % 8 ≤ 4 := ⟨rfl, rfl, rfl, by decide, by decide⟩

theorem witness_FpOneOperandForms : takeF false 31 (tF [(31, 9)]) = .ok (9, tF [(31, 9)]) ∧
    putF false 0 5 (tF [(31, 9)]) = .ok ((tF [(31, 9)]).setF 0 5) ∧ (tF [(31, 9)]).fBusy [0, 31] = false ∧
    (tF [(31, 9)]).fBusy [0] = false ∧ (tCsr fun c => { c with fcsr := 4 }).core.csr.fcsr.toNat % 8 ≤ 4 :=
  ⟨rfl, rfl, by decide, by decide, by decide⟩

theorem witness_FpToIntegerForms : takeF false 1 (tF [(1, 1), (2, 8)]) = .ok (1, tF [(1, 1), (2, 8)]) ∧
    takeF false 2 (tF [(1, 1), (2, 8)]) = .ok (8, tF [(1, 1), (2, 8)]) ∧ (tF [(1, 1), (2, 8)]).fBusy [1] = false ∧
    (tF [(1, 1), (2, 8)]).fBusy [1, 2] = false := ⟨rfl, rfl, by decide, by decide⟩

theorem witness_FpFusedForms : takeF false 3 (tF [(3, 1)]) = .ok (1, tF [(3, 1)]) ∧ takeF false 4 (tF [(3, 1)]) = .ok (0, tF [(3, 1)]) ∧
    putF false 31 7 (tF [(3, 1)]) = .ok ((tF [(3, 1)]).setF 31 7) ∧ (tF [(3, 1)]).fBusy [31, 3, 4, 3] = false ∧
    (tF [(3, 1)]).fBusy [31, 3, 4] = false := ⟨rfl, rfl, rfl, by decide, by decide⟩

/-- A core on which f1 is mapped to a stream of two words from W0 address 16; `w` makes it a write stream. -/
def tStream (w : Bool) (pos : Nat) : State :=
  let d : StreamDesc :=
    { StreamDesc.reset with base := 16, ctl := if w then 1 else 0, count := ⟨#[2, 0, 0, 0], rfl⟩, stride := ⟨#[4, 0, 0, 0], rfl⟩ }
  tCore fun c => { c with streams := c.streams.set 1 ⟨d, d, pos, true, 0, 0, 0⟩ }

theorem witness_FpOperandForms : (tStream false 0).streamOn 2 = false ∧ (tStream false 0).streamOn 1 = true ∧
    (tCore fun c => { c with csr := { c.csr with ustatus := 4 } }).core.csr.ustatus.getLsbD 2 = true ∧ 6 ≤ (6 : Reg).toNat ∧
    5 % 8 > 4 ∧
    (((tStream false 0).stream 1).snap.write = false ∧ ((tStream false 0).stream 1).snap.indirect = false ∧
      ((tStream false 1).stream 1).pos < ((tStream false 1).stream 1).snap.total ∧
      ((tStream false 2).stream 1).snap.total ≤ ((tStream false 2).stream 1).pos ∧
      ((tStream false 0).stream 1).snap.base.toNat < 0x40000 ∧ (((tStream false 1).stream 1).snap.affine 1).toNat = 20 ∧
      checkAccess (tStream false 0) 20 ⟨4, false, false⟩ = none) ∧
    ((tStream true 0).streamOn 1 = true ∧ ((tStream true 0).stream 1).snap.write = true ∧
      checkAccess (tStream true 0) 16 ⟨4, true, false⟩ = none) := by decide

theorem witness_FpArithmeticRules : 0x7F800000 < (0x7F800001 : Word).toNat % 2 ^ 31 ∧ ¬ 0x7FC00000 ≤ (0x7F800001 : Word).toNat % 2 ^ 31 ∧
    (0 < (0xBF800000 : Word).toNat % 2 ^ 31 ∧ (0xBF800000 : Word).toNat % 2 ^ 31 < 0x7F800000 ∧ 2 ^ 31 ≤ (0xBF800000 : Word).toNat) := by
  decide

/-! ## Local memory -/

/-- R175, R183, R184: little-endian, sign extension, and a store that leaves its neighbour. -/
theorem test_memory : tNext (exec (.sw 1 2 0) (tX [(1, 0x80FF7F01), (2, 0x100)])) (fun t => t.core.w0 0x100 == 1 && t.core.w0 0x103 == 0x80 &&
      t.core.w0 0x104 == 0) = true ∧
    tNext (exec (.lb 3 0 0x103) ((tX []).w0Write 0x103 1 0x80)) (fun t => t.x 3 == 0xFFFFFF80) = true ∧
    tNext (exec (.lhu 3 0 0x102) ((tX []).w0Write 0x103 1 0x80)) (fun t => t.x 3 == 0x8000) = true ∧
    tNext (exec (.sw 1 2 0) (tX [(2, 0x3A000)])) (fun t => t.core.halt == some 1 && t.core.ecause == 7 && t.core.eval == 0x3A000) = true := by
  decide

theorem witness_AccessChecks : ((tX []).kind = .compute ∧ 0x3FFFF < 0x40000) ∧ tSteward.kind ≠ .compute ∧
    ((0x100000 ≤ 0x17FFFF ∧ 0x17FFFF < 0x180000) ∧ 2 ≠ 4 ∧ 2 ≠ 8) ∧ (0x100000 ≤ 0x17FFF9 ∧ 0x17FFF9 + 4 ≤ 0x180000 ∧ 0x17FFF9 % 4 ≠ 0) ∧
    (0x40000 ≤ 0xFFFFF ∧ 0xFFFFF < 0x100000) := by decide

theorem witness_ScratchpadLoads : (∀ e ∈ [(1, 0x39FFF), (2, 0x39FFE), (4, 0x39FFC), (8, 0x39FF8)], e.2 < 0x40000 ∧
      checkAccess (tX []) e.2 ⟨e.1, false, false⟩ = none) ∧
    (checkAccess (tX []) 0 ⟨4, false, true⟩ = none ∧ (tX []).fBusy [1] = false ∧ (tX []).streamOn 1 = false) ∧
    (∀ e ∈ [(1, 0x3A000), (2, 0x39FFF), (4, 0x39FFD), (8, 0x39FF9)], checkAccess (tX []) e.2 ⟨e.1, false, false⟩ = some 5) ∧
    checkAccess (tX []) 0x3A000 ⟨4, false, true⟩ = some 5 := by decide

theorem witness_ScratchpadStores : (∀ e ∈ [(1, 0x39FFF), (2, 0x39FFE), (4, 0x39FFC), (8, 0x39FF8)],
      checkAccess (tX []) e.2 ⟨e.1, true, false⟩ = none) ∧ (tX []).replays = false ∧ (tX []).paired = false ∧
    checkAccess (tX []) 0 ⟨4, true, true⟩ = none ∧
    (∀ e ∈ [(1, 0x3A000), (2, 0x39FFF), (4, 0x39FFD), (8, 0x39FF9)], checkAccess (tX []) e.2 ⟨e.1, true, false⟩ = some 7) ∧
    checkAccess (tX []) 0x3A000 ⟨4, true, true⟩ = some 7 := by decide

theorem witness_remapDistinct : (tX []).core.remapDistinct := by
  have h : (List.range 64).all (fun i => (List.range 64).all fun j =>
      decide ((remapReset[i]?).getD 0 = (remapReset[j]?).getD 0 → i = j)) = true := by decide
  intro i j e
  simp only [List.all_eq_true, List.mem_range, decide_eq_true_eq] at h
  refine Fin.ext (h i.val i.isLt j.val j.isLt ?_)
  have e' : remapReset[i.val] = remapReset[j.val] := e
  simp [e']

theorem witness_ElementWindows : ∀ k ∈ [1, 2, 3, 4, 5], 4 * 0 < areaEnd (.elem k) - elemBase k ∧
    checkAccess (tX []) (elemBase k) ⟨4, false, false⟩ = none ∧ checkAccess (tX []) (elemBase k) ⟨4, false, true⟩ = none ∧
    (tX []).fBusy [3] = false ∧ (tX []).streamOn 3 = false := by decide

/-- R180, R82: W1 widens BF16, W3 saturates. -/
theorem test_windows : tNext (exec (.lw 3 1 0) ((tX [(1, 0x100000)]).w0Write 0 2 0x3F80)) (fun t => t.x 3 == 0x3F800000) = true ∧
    tNext (exec (.flw 3 1 0) ((tX [(1, 0x300000)]).w0Write 0 1 0xFE)) (fun t => t.f 3 == 0xFFFFFFFE) = true ∧
    elemOut 3 300 = 127 ∧ elemOut 5 0xFFFFFFFF = 0 ∧ elemOut 4 0xFFFFFFF0 = 8 := by decide

/-- A core whose tag table holds one key. -/
def tTag (k : Core → List TagWay) : State := tCore fun c => { c with tags := k c }

theorem witness_TagTable : (tX [(1, 5)]).kind = .compute ∧ tagFind (tX []).core.tags 5 = none ∧
    tagFind (tTag fun _ => [⟨5, 0, 0, 9, 0⟩]).core.tags 5 = some ⟨5, 0, 0, 9, 0⟩ ∧ tagHole (tX []).core.tags (5 % 64) = some 0 ∧
    tSteward.kind ≠ .compute := by decide

theorem test_tags : tNext (exec (.tset 3 1 2) (tX [(1, 5), (2, 9)])) (fun t => t.x 3 == 0xFFFFFFFF &&
      tNext (exec (.tlook 4 1) t) (fun u => u.x 4 == 9) && tNext (exec (.tset 4 1 2) t) (fun u => u.x 4 == 0x40000009)) = true := by
  decide

/-- A word that is empty. -/
def tEmpty : State := tCore fun c => { c with empty := [4] }

theorem witness_FullEmptyWords : (checkAccess tEmpty 16 ⟨4, false, false⟩ = none ∧ 16 % 4 = 0 ∧ 16 + 4 ≤ 0x40000 ∧ tEmpty.core.handed = none ∧
      tEmpty.core.full 16 = false ∧ tEmpty.core.deferred.length < 64 ∧ ⟨16, none⟩ ∉ tEmpty.core.deferred) ∧
    tEmpty.core.full 20 = true ∧ checkAccess tEmpty 0x39FFC ⟨4, true, false⟩ = none ∧ tEmpty.paired = false ∧ released tEmpty 2 = true ∧
    (∀ w ∈ tEmpty.core.deferred, w.addr ≠ 16 ∧ w.src ≠ none) ∧ (1 : Word).toNat / 16 % 256 = 0 ∧
    (tCore fun c => { c with handed := some 5 }).core.handed = some 5 ∧
    (let s := tCore fun c => { c with locks := c.locks.set 0 (some ⟨false, 1, 16, 19, 0, 0⟩) };
      s.core.stalled = false ∧ s.core.lockHit 16 4 true = true ∧ checkAccess s 16 ⟨4, false, false⟩ = none) := by decide

/-- R192: a TAKE leaves the word empty, and a PUT of an empty word fills it. -/
theorem test_take_put : tNext (exec (.take 3 1) ((tX [(1, 16)]).w0Write 16 4 7)) (fun t => t.x 3 == 7 && !t.core.full 16) = true ∧
    tNext (exec (.put 1 2) ({ tX [(1, 16), (2, 8)] with core := { (tX [(1, 16), (2, 8)]).core with empty := [4] } }))
      (fun t => t.core.full 16 && t.core.w0Word 16 == 8) = true := by decide

/-- A core with one remote request outstanding. -/
def tSlot (k : ReqKind) (b : Body) (r : Option Reply) : State :=
  tCore fun c => { c with ni := { c.ni with slots := c.ni.slots.set 3 (some ⟨k, ⟨0, 1, 0, 3, b⟩, r, true⟩) } }

theorem witness_Fences : outstanding (tX []) 3 true true = false ∧ outstanding (tSlot .rstore (.store 0x400000000 4 0) none) 3 true true = true ∧
    outstanding (tX []) 3 false true = false ∧ (∀ o ∈ (tX []).core.ni.slots.toList, o = none) ∧
    ((tX []).core.cp.queue = [] ∧ (tX []).core.mx.queue = [] ∧ (tX []).core.seqs = []) ∧
    (∀ x ∈ (tX []).core.slots.toList, x.state ≠ .exposing) := by decide

theorem witness_LocalAtomics : (tX []).paired = false ∧ (tX []).pairFollower = false ∧ (∀ x ∈ (tX []).core.ni.slots.toList, x = none) ∧
    (0x39FFC + 4 ≤ 0x40000 ∧ checkAccess (tX []) 0x39FFC ⟨4, true, false⟩ = none) ∧ (0xFFC + 4 ≤ 0x1000 ∧ (tX []).kind ≠ .memory) := by
  decide

/-- R301, R302: AMOINCB stays where its bound is reached; AMOCAS takes its comparand from rd. -/
theorem test_atomics : tNext (exec (.amoincb 3 1 2 0 0 false) ((tX [(1, 16), (2, 5)]).w0Write 16 4 5))
      (fun t => t.x 3 == 5 && t.core.w0Word 16 == 5) = true ∧
    tNext (exec (.amocas 3 1 2 1 0) (tX [(1, 16), (2, 5)])) (fun t => t.x 3 == 0 && t.unit.sync.word 16 == 5) = true ∧
    tNext (exec (.amocas 3 1 2 1 0) (tX [(1, 16), (2, 5), (3, 1)])) (fun t => t.unit.sync.word 16 == 0) = true := by decide

/-! ## Remote requests, messages and events -/

/-- A local scratchpad address of core 1 of the package as a fabric address in x4 and x5. -/
def tFar : State := tX [(4, 0x01000100), (5, 0x00800000)]

theorem witness_RemoteRequests : tFar.pairFollower = false ∧
    (faRegion (tFar.xp 4) ≠ 0 ∧ (tFar.xp 4).toNat % 8 = 0 ∧ faAllowed tFar (tFar.xp 4) = true ∧ faPkg (tFar.xp 4) = tFar.pkg ∧
      tFar.reachable (faEndpoint (tFar.xp 4)) = true ∧ tFar.core.ni.ownSlot = some 0 ∧
      (tCore fun c => { c with ni := { c.ni with reserved := some 31 } }).core.ni.ownSlot = some 31) ∧
    faRegion ((tX []).xp 4) = 0 ∧
    ((tSlot .rload (.load 0 4) (some (.data 9))).core.ni.slot 3 = some ⟨.rload, ⟨0, 1, 0, 3, .load 0 4⟩, some (.data 9), true⟩) ∧
    ((tSlot .rload (.load 0 8) none).core.ni.slot 3 = some ⟨.rload, ⟨0, 1, 0, 3, .load 0 8⟩, none, true⟩) ∧
    ((tSlot .rload (.load 0 4) (some (.nack 3))).core.ni.slot 3 =
      some ⟨.rload, ⟨0, 1, 0, 3, .load 0 4⟩, some (.nack 3), true⟩) ∧ (tX []).core.ni.slot 31 = none := by decide

/-- A core whose receive ring of one frame holds one unread message of `n` units. -/
def tRing (wr : Nat) : State := tCore fun c => { c with csr := { c.csr with mrcfg := 0x80000000 }, ni := { c.ni with wr := wr } }

theorem witness_MessageInstructions : ((tX []).pairFollower = false ∧ (∀ k, k < 4 → released (tX []) k = true) ∧ (tX []).core.ni.ownSlot = some 0 ∧
      (∀ o ∈ (tX []).core.ni.slots.toList, o = none) ∧ (tX []).reachable (hdrEp (nibufHeader (tX []))) = true ∧ pkgOf (hdrEp (nibufHeader (tX []))) = (tX []).pkg) ∧
    (tX []).core.csr.mrcfg.getLsbD 31 = false ∧ ((tRing 0).core.csr.mrcfg.getLsbD 31 = true ∧ (tRing 0).core.ni.wr = (tRing 0).core.ni.rd) ∧
    ((tRing 127).core.ni.wr ≠ (tRing 127).core.ni.rd ∧ hdrBit (headHeader (tRing 127)) = false ∧
      (tRing 127).core.ni.overflow = [] ∧ (tRing 127).core.ni.held = []) := by decide

/-- A core with the layout 1 of two fields of 32 bits. -/
def tLayout : State := tCore fun c => { c with layouts := c.layouts.set 1 0x2020 }

theorem witness_HeaderLayouts : (((tX []).x 1).toNat % 8 = 0 ∧ ((tX []).x 1).toNat + 8 ≤ 0x40000 ∧
      checkAccess (tX []) ((tX []).x 1).toNat ⟨8, false, false⟩ = none) ∧
    validLayout (BitVec.ofNat 64 ((tX []).core.w0Read 0 8)) = true ∧
    validLayout (BitVec.ofNat 64 (((tX []).w0Write 0 1 0xFF).core.w0Read 0 8)) = false ∧
    ((30 : Reg).toNat + layoutRegs (layoutOf tLayout 1) ≤ 32 ∧ 32 < (31 : Reg).toNat + layoutRegs (layoutOf tLayout 1)) ∧
    (0 < 32 ∧ 0 < 1 ∧ 1 ≤ 32 ∧ (30 : Reg).toNat + 2 ≤ 32) := by decide

/-- A core at a cluster barrier with the member set `m`, of whom `a` have arrived. -/
def tBarrier (m a : BitVec 17) : State :=
  (tX [(1, 0xFFFFFFFF)]).mapUnit fun u => { u with bars := u.bars.set 31 ⟨0, m, a⟩ }

theorem witness_Barriers : (tBarrier 1 0).kind ≠ .memory ∧ (tBarrier 1 0).pairFollower = false ∧ released (tBarrier 1 0) 1 = true ∧
    ((tBarrier 1 0).unit.bars[31].members.getLsbD (memberNo (tBarrier 1 0)) = true ∧
      (tBarrier 1 0).unit.bars[31].arrived.getLsbD (memberNo (tBarrier 1 0)) = false) ∧
    (tBarrier 2 0).unit.bars[31].members.getLsbD (memberNo (tBarrier 2 0)) = false ∧
    (tBarrier 3 1).unit.bars[31].arrived.getLsbD (memberNo (tBarrier 3 1)) = true ∧
    0 < ((tBarrier 1 0).unit.bars[31].gen - (tBarrier 1 0).x 1).toInt ∧
    ((tBarrier 1 0).unit.bars[31].gen - (tBarrier 1 0).x 2).toInt ≤ 0 := by decide

/-- R313: the last member starts the next generation, and another waits for it. -/
theorem test_arrive : tNext (exec (.arrive 3 false 31) (tBarrier 3 2)) (fun t => t.x 3 == 0 && t.unit.bars[31] == ⟨1, 3, 0⟩) = true ∧
    tNext (exec (.arrive 3 false 31) (tBarrier 3 0)) (fun t => t.unit.bars[31] == ⟨0, 3, 1⟩) = true := by decide

/-- A core at event line 31 in the state `e`. -/
def tLine (e : EvLine) : State := (tX []).mapUnit fun u => { u with evs := u.evs.set 31 e }

theorem witness_EventLines : memberNo (tLine .reset) = 0 ∧ (tLine .reset).kind ≠ .memory ∧ (tLine .reset).pairFollower = false ∧
    released (tLine .reset) 1 = true ∧ 0 < (tLine { EvLine.reset with count := 255 }).unit.evs[31].count ∧
    (tLine { EvLine.reset with count := 255 }).unit.evs[31].waiters = [] ∧ ((tLine .reset).unit.evs[31].count = 0 ∧ 0 ∉ (tLine .reset).unit.evs[31].waiters ∧ (tLine .reset).unit.evs[31].owner = none ∧
      (tLine .reset).unit.evs[31].lockers = []) ∧ (tLine { EvLine.reset with owner := some 0 }).unit.evs[31].owner = some 0 := by decide

/-- R314: a signal is counted, at 255 it sets ovf; an unlock gives the mutex to the oldest requester. -/
theorem test_events : tNext (exec (.evsig 0 31) (tLine { EvLine.reset with count := 255 }))
      (fun t => t.unit.evs[31].count == 255 && t.unit.evs[31].ovf) = true ∧
    tNext (exec (.evunlock 31) (tLine { EvLine.reset with owner := some 0, lockers := [5, 2] }))
      (fun t => t.unit.evs[31].owner == some 5) = true := by decide


/-! ## Points, streams, loops and envelopes -/

/-- A launch of one line of 4 points on the gang of cluster 0, without a signal. -/
def tPacket : Packet64 :=
  ⟨1, false, false, false, false, false, 1, 0, 0, 1, 3, 0, 1, 0, 0, [4], [], 0, 0, 0, [3]⟩
def tLaunch : Launch :=
  ⟨9, 0, 0, 0, tPacket, .running, [0], [0], 0, [], .replicate 16 .reset, .replicate 16 .reset, 0, 0, 0, 0, 0, 0, 0, false, 0, false,
    true, false, 0x40, 0, 0, 5, [], [], [], []⟩

/-- Core 0 idle, its cluster held by a launch. -/
def tGang (f : Launch → Launch) : State :=
  { State.reset with launches := [f tLaunch], unit := { Cluster.reset 0 with launch := some 9 } }

theorem witness_PointEntry : nextLine (tGang id) = some (tLaunch, 0) ∧ tLaunch.pkt.pair = false := by decide

/-- R31, R158: the dispatched point starts at the entry with its coordinates in x10 and the others zero. -/
theorem test_dispatch : tNext (exec .pointDispatch (tGang fun l => { l with lines := [⟨0, 2, 2, false⟩] }))
    (fun t => t.core.pc == 0x40 && t.x 10 == 2 && t.x 11 == 0 && t.x 2 == 0x3A000) = true := by decide

/-- A core of the quad whose neighbour 1 runs a point. -/
def tQuad : State := { tX [(1, 1), (2, 4)] with others := [(1, { Core.reset 1 with point := some ⟨0, 0, 0, 0, 1⟩ })] }

theorem witness_PointEnds : ((tX []).kind = .compute ∧ (tX []).core.point = some ⟨0, 0, 0, 0, 0⟩ ∧ (tX []).core.mode = .user ∧
      (tX []).core.csr.ustatus.getLsbD 2 = false ∧ (tX []).paired = false ∧ (∀ o ∈ (tX []).core.ni.slots.toList, o = none) ∧
      (tX []).core.seqs = []) ∧ (tCore fun c => { c with seqs := [⟨[], 1, 0, 0, false, 0, true⟩] }).core.seqs ≠ [] ∧
    (tCore fun c => { c with point := none }).core.point = none ∧
    ((tQuad.x 1).toNat ≤ 3 ∧ (tQuad.coreAt 1).follow = none ∧ (tQuad.coreAt 1).point ≠ none ∧ (tQuad.coreAt 1).mode = .user ∧
      tQuad.paired = false) ∧ ¬ (tQuad.x 2).toNat ≤ 3 ∧
    (tCsr fun c => { c with ganginfo := 0x80000000 }).paired = true := by decide

theorem witness_Streams : (5 : Reg).toNat < 6 ∧ (tX []).kind = .compute ∧ (1 ≤ (4 : BitVec 4).toNat ∧ (4 : BitVec 4).toNat ≤ 4) ∧
    (tX []).fBusy [5] = false ∧ (tCore fun c => { c with seqs := [⟨[0xA4611000], 1, 0, 0, false, 0, true⟩] }).fBusy [3] = true ∧ ((tStream false 0).stream 1).desc.valid = true ∧ ((tX []).stream 5).desc.valid = false ∧
    ((tX []).core.seqs = [] ∧ 0 < seqFree (tX []).core) ∧
    ((tCore fun c => { c with seqs := [⟨[], 1, 0, 0, false, 0, true⟩] }).core.seqs ≠ [] ∧ reportHeld (tX []) = false) := by decide

theorem witness_Streams_body : bodyWords ((tX []).mapUnit fun u => { u with istore := Memory.putWord [] 4 0xA4611000 }) 1 = [0xA4611000] ∧
    bodyOk (tX []) 0xA4611000 = true ∧ (bodyWords (tX []) 1).find? (fun w => !bodyOk (tX []) w) = some 0 := by decide

/-- A pushed loop of `n` iterations of one word. -/
def tLoop (w : Word) (n : Nat) : SeqEntry := ⟨[w], n, 0, 0, false, 0, true⟩

/-- The modes in which a loop pushed by the point runs. -/
def tPushed (s : State) : State := s.mapCore fun c => { c with
  mode := .user, csr := { c.csr with ustatus := setBit c.csr.ustatus 2 false } }

theorem witness_VectorLoops : ((tX []).entered = false ∧ (tX []).quartz.fatal = false) ∧ (tCore fun c => { c with seqs := [tLoop 0 1] }).core.seqs = [tLoop 0 1] ∧
    (match loopRun (tLoop 0xA4611000 2) 2 0 0 (tPushed (tStream false 0)) with | .done _ _ => true | .fault _ _ _ _ => false) = true ∧
    (match loopRun (tLoop 0xA4221000 3) 3 0 0 (tPushed (tStream true 1)) with | .done _ _ => false | .fault _ _ _ n => n == 1) = true := by
  decide

theorem witness_EnvelopeForm : ¬ (0 : Word).slt 0 ∧ ([⟨0, 0, 0⟩] : List EnvLine).length = 1 ∧ ([⟨0, 0, 0⟩] : List EnvLine) ≠ [] := by decide

/-- A core whose e0 and e1 hold one line each, e0 on 0..9 and e1 on `lo`..12, and whose e2 is empty on 3..2. -/
def tEnv (lo : Word) (ectl : Word) : State := tCore fun c => { c with
  env := (c.env.set 0 ⟨0, 9, [⟨0x10000, 4, 7⟩]⟩).set 1 ⟨lo, 12, [⟨0x20000, 0, 8⟩]⟩
  csr := { c.csr with ectl := ectl } }

theorem witness_EnvelopeInstructions : (tX []).kind ≠ .memory ∧
    ((canonical [⟨0, 0, 0⟩] 0x80000000 0x7FFFFFFF).length ≤ (tX []).core.csr.ectl.toNat % 256) ∧
    ((9 : Word).toInt ≤ (9 : Word).toInt) ∧ ((9 : Word).toInt < (10 : Word).toInt ∧ (tEnv 10 0x180).core.csr.ectl.getLsbD 8 = true ∧
      (tEnv 10 0x80).core.csr.ectl.getLsbD 8 = false) ∧
    (match envSum (tEnv 0 128).core.env[0] (tEnv 0 128).core.env[1] with | .ok r => decide (r.1.canon.lines.length ≤ 128) | .error _ => false) = true ∧
    (match envConvolve (tEnv 0 128).core.env[0] (tEnv 0 128).core.env[1] with
      | .ok r => decide (r.1.canon.lines.length ≤ 128) | .error _ => false) = true ∧
    (match conjugate (tEnv 0 128).core.env[0] with | .ok r => decide (r.1.canon.lines.length ≤ 128) | .error _ => false) = true ∧
    (inDomain (tEnv 0 128).core.env[0] 9 = true ∧ (winner (9, 1) (tEnv 0 128).core.env[0].lines).isSome = true) ∧
    inDomain (tEnv 0 128).core.env[0] 10 = false ∧
    (∀ l ∈ (tEnv 0 128).core.env[0].lines, -(2 ^ 31) ≤ l.s.toInt + 0 ∧ l.s.toInt + 0 < 2 ^ 31 ∧
      -(2 ^ 31) ≤ l.c.toInt + 0 ∧ l.c.toInt + 0 < 2 ^ 31) ∧
    ((tX []).x 1 ≠ 0x7FFFFFFF ∧ (tX []).x 1 ≠ 0x80000000 ∧ (0 : Word).toInt ≤ (0x7FFFFFFF : Word).toInt) := by decide

/-- R264, R269: the value at 9 of the line of slope 2^16 and constant 4 is 9 * 2^16 + 4 * 2^16. -/
theorem test_envelope : tNext (exec (.eeval 3 0 2 1) ((tEnv 0 128).setX 2 9)) (fun t => t.x 3 == 0xD0000) = true ∧
    tNext (exec (.ecnt 3 1) (tEnv 0 128)) (fun t => t.x 3 == 1) = true := by decide

theorem witness_EnvelopeImages : ((tEnv 0 128).kind ≠ .memory ∧ (0 : Nat) % 4 = 0 ∧ (tEnv 0 128).paired = false ∧ 0 + 28 ≤ 0x40000 ∧
      checkAccess (tEnv 0 128) 0 ⟨28, true, false⟩ = none) ∧
    (headerOk (tX []).core 0 = true ∧ imageLines (tX []).core 0 0 = some [] ∧ checkAccess (tX []) 0 ⟨16, false, false⟩ = none ∧
      (Envelope.canon ⟨0, 0, []⟩).lines.length ≤ (tX []).core.csr.ectl.toNat % 256) ∧
    headerOk ((tX []).w0Write 12 1 1).core 0 = false := by decide

/-! ## The copy engine, handles and the matrix engine -/

/-- A queued copy of one row of 4 bytes, from W0 0 to W0 16 (`ccopy x0, x0, x1` without flags). -/
def tCopy (d : CopyDesc) (v : Option (BitVec 8)) : CCmd := ⟨0xB8000820, 0, 16, 5, false, d, 0, true, v, true⟩

/-- A core whose copy queue holds one command and whose handle 1 is of two slots of 4 bytes. -/
def tCp (l : List CCmd) : State := tCore fun c => { c with
  cp := { c.cp with queue := l }
  hnd := c.hnd.set 1 ⟨true, 0x100, 4, 2, 1, 0⟩ }

theorem witness_CopyIssue : (tX []).paired = false ∧ (tX []).core.cp.queue.length < 2 ∧ released (tX []) 3 = true ∧ tSteward.compute = false ∧
    released (tSlot .rstore (.store 0x400000000 4 0) none) 3 = false ∧
    2 ≤ (tCp [tCopy .reset none, tCopy .reset none]).core.cp.queue.length ∧ (copyRanges .reset (copyOps (.ccopy 0 0 0 false false false 0)
      0 0 0)).length ≤ (tX []).core.freeLocks ∧ (tCp [tCopy .reset none]).core.cp.queue ≠ [] ∧ reportHeld (tX []) = false := by
  decide

theorem witness_CircularBuffers : newHandle (tX []) 0x100 0 = some ⟨true, 0x100, 4, 1, 0, 0⟩ ∧ newHandle (tX []) 0x102 0 = none ∧
    ((tCp []).core.cp.queue = [] ∧ (tCp []).core.mx.queue = [] ∧ released (tCp []) 3 = true) ∧
    ((tCp []).core.hnd[1].cfg = true ∧ 1 ≤ (tCp []).core.hnd[1].filled ∧ (tCp []).core.hnd[1].filled < 2 ∧
      1 ≤ (tCp []).core.hnd[1].count - (tCp []).core.hnd[1].filled ∧ 2 ≤ (tCp []).core.hnd[1].count) ∧ (tX []).core.hnd[1].cfg = false ∧
    ((slotOf (tSlot .radv (.radv 1 false 1) none) .radv).isSome = true ∧ (tSlot .radv (.radv 1 false 1) none).pairFollower = false) ∧
    (slotOf (tX []) .radv = none ∧ released (tX []) 2 = true ∧ (tX []).core.ni.ownSlot = some 0 ∧ (tX []).reachable 1 = true) ∧
    (let s := { tGang id with core := (tCp []).core }
     launchOfSource s 3 = some 9 ∧ s.unit.launch = some 9 ∧ s.core.hnd[1].cfg = true ∧ 1 ≤ s.core.hnd[1].filled) := by decide

/-- R233, R234: the slot address of a handle, and its advance. -/
theorem test_handles : tNext (exec (.cbWaite 3 1 2) ((tCp []).setX 2 1)) (fun t => t.x 3 == 0x104) = true ∧
    tNext (exec (.cbAdvp 1 2) ((tCp []).setX 2 1)) (fun t => t.core.hnd[1].p == 2) = true := by decide

theorem witness_CopyEngine : ((tCp [tCopy { CopyDesc.reset with rowlen := 4 } none]).entered = false ∧ (tCp []).quartz.fatal = false) ∧
    copyMayStart (tCp [{ tCopy { CopyDesc.reset with rowlen := 4 } none with started := false }]) = true ∧
    (match decode 0xB8000820 with
      | .ok i => (match checkCopy (tX []) (tCopy { CopyDesc.reset with rowlen := 4 } none) i with | .ok _ => true | .error _ => false)
      | .error _ => false) = true ∧
    (match moveRows true { CopyDesc.reset with rowlen := 4 } (some 0) (some 16) none [0] (tX []) with | .done _ => true | _ => false) = true ∧
    (match moveRows true { CopyDesc.reset with rowlen := 4 } (some 0x3A000) (some 16) none [0] (tX []) with
      | .fault c r _ => c == 1 && r == 0 | _ => false) = true ∧ (tX []).core.supFrame 0x39FFC 4 = false := by decide

/-- A queued matrix command. -/
def tMx (w a b : Word) (v : Option (BitVec 8)) : MCmd := ⟨w, a, b, 5, false, false, 0, true, v⟩
def tMatrix (l : List MCmd) : State := tCore fun c => { c with mx := { c.mx with queue := l } }

theorem witness_MatrixInstructions : ((tX []).kind = .compute ∧ (tX []).paired = false ∧ (tX []).pairFollower = false) ∧
    (tX []).core.mx.used false < 2 ∧ (matrixRanges (tX []) (.mstrm 0 0 0 false) 0 0x10).length ≤ (tX []).core.freeLocks ∧
    (released (tX []) 3 = true ∧ (tX []).core.stalled = false) ∧
    2 ≤ (tMatrix [tMx 0xB40008A0 0 0 none, tMx 0xB40008A0 0 0 none]).core.mx.used false ∧
    ((∀ q ∈ (tMatrix [tMx 0xB40008A0 0 0 none]).core.mx.queue, ((6 : BitVec 16) - 1 - q.seq).toNat < 4 ∧ 4 ≤ ((5 : BitVec 16) - 1 - q.seq).toNat) ∧
      reportHeld (tMatrix []) = false) ∧ checkBlock (tX []) 0x39FF0 = none ∧
    (slotOf (tSlot .mcmd (.mcmd 0 0 0 0) none) .mcmd).isSome = true ∧
    (slotOf (tX []) .mcmd = none ∧ released (tX []) 2 = true ∧ (tX []).core.ni.ownSlot = some 0 ∧ (tX []).reachable 0 = true) := by decide

/-- R214, R223: MSTAT.seq of an engine that has done nothing: next 0 and last done 2^16 - 1. -/
theorem test_mstat : tNext (exec (.mstat 3 1) (tX [])) (fun t => t.x 3 == 0xFFFF) = true := by decide

theorem witness_TrimodReconstruction : (-536870400 : Int) ≤ -536870400 ∧ (-536870400 : Int) ≤ 536870399 ∧ 0 < 1024 ∧ (126 : Nat) < 127 ∧
    1022 + 1 < 1024 ∧ 1024 < 1025 ∧ 1023 < 1024 ∧ 1022 < 1023 := by decide

/-- R85, R86: the ends of the range come back. -/
theorem test_trimod : crt (trimod 1 (((-536870400 : Int) % 127).toNat) ((-536870400 : Int) % 1025).toNat ((-536870400 : Int) % 1024).toNat
      ((-536870400 : Int) % 1023).toNat) = some (-536870400) ∧
    crt (trimod 1 (536870399 % 127) (536870399 % 1025) (536870399 % 1024) (536870399 % 1023)) = some 536870399 := by decide

theorem witness_MatrixEngine : ((tMatrix []).entered = false ∧ (tMatrix []).quartz.fatal = false) ∧ localTurn (tMatrix []) = false ∧
    ((tMatrix [{ tMx 0xB40008A0 0 0x10 none with started := false }]).core.lockWaits 0 5 = false) ∧
    (decodeTableWord 32 0xB40008A0 = some (.mzero 0 1 false) ∧ rowsOf 0x007F0080 = some (127, 128) ∧ rowsOf 0 = none) ∧
    remoteRight 0xB40008A0 = some (.mzero 0 1 false, 1, false) ∧ remoteRight 0 = none ∧
    matrixRoom (tMatrix []) true (matrixRanges (tMatrix []) (.mzero 0 1 false) 0 1) = true ∧
    capHolds (tMatrix []) ⟨0, 0, 0, 0, .queued⟩ 0 1 = false := by decide

/-! ## Predicted transfers -/

/-- A core with slot 7 in a state, its descriptor of one frame of stride 1. -/
def tPred (q : PredSlot) : State := tCore fun c => { c with slots := c.slots.set 7 q, pdesc := ⟨0x1000, 1, 1⟩ }

/-- A slot of one frame bound for frame 2, quarantine frame 0. -/
def tSl (st : PState) : PredSlot := { PredSlot.reset with state := st, len := 1, dframe := 2, pidx := 3, hit := true, frames := [0], filled := true }

theorem witness_PredictorInstructions : ((tPred .reset).kind = .compute ∧ (tPred .reset).paired = false ∧ (tPred .reset).pairFollower = false ∧
      (7 : Reg).toNat < 8) ∧ (tPred (tSl .exposing)).core.slots[7].state ≠ .free ∧
    ((tPred .reset).core.slots[7].state = .free ∧ 0 < (tPred .reset).core.pdesc.len ∧ (tPred .reset).core.pdesc.len ≤ 8 ∧
      (tPred .reset).core.pdesc.stride ≠ 0 ∧ (tPred .reset).core.pdesc.base.toNat % 4096 = 0 ∧
      faRegion (tPred .reset).core.pdesc.base = 0 ∧ 0x39000 / 4096 + 1 ≤ (tPred .reset).core.jbase ∧ 0x39000 % 4096 = 0 ∧
      (tPred .reset).core.jbase < 0x3A000 / 4096 + 1 ∧ 0 < (tPred .reset).core.freeLocks) ∧
    (predReady (tPred .reset) = true ∧ predReady (tSlot .rload (.load 0 4) none) = false ∧ predReady (tPred (tSl .predicted)) = true) ∧ (tX []).core.pdesc.len = 0 ∧
    (tCore fun c => { c with locks := .replicate 16 (some ⟨false, 0, 1, 0, 0, 0⟩) }).core.freeLocks = 0 ∧
    (tPred (tSl .predicted)).core.slots[7].state = .predicted ∧ (tPred (tSl .deciding)).core.slots[7].state = .deciding ∧
    ((tPred (tSl .exposing)).core.slots[7].state = .exposing ∧ (tPred (tSl .exposing)).core.reports = []) ∧
    (tPred (tSl .exposed)).core.slots[7].state = .exposed ∧ (tPred .reset).unit.predq = [] := by decide

/-- R243, R244: an entry written by PTRAIN.SET is read back. -/
theorem test_ptrain : tNext (exec (.ptrainSet 1 2) (tX [(1, 0x105), (2, 0x50007)]))
    (fun t => tNext (exec (.preadEnt 3 1) t) (fun u => u.x 3 == 0x80050007)) = true := by decide

theorem witness_TransferEvents :
    ((tPred (tSl .deciding)).mapUnit fun u => { u with predq := [.lookup 0 7] }).unit.predq = .lookup (tPred .reset).core.id 7 :: [] ∧
    (tPred (tSl .deciding)).core.slots[7].state = .deciding ∧
    ((tPred .reset).entered = false ∧ (tPred .reset).quartz.fatal = false ∧ (tPred .reset).paired = false ∧ (tPred .reset).pairFollower = false ∧ specPending (tPred { tSl .predicted with filled := false }) 7 = true) ∧
    (specPending (tPred .reset) 7 = false ∧ (({ tPred .reset with fabric := [⟨0x8000, 0x4800, 0, 0, .specRead 0x1000 64⟩] } : State).fabric.find?
      isSpec).isSome = true) ∧
    (match specRead (tPred .reset) 0x1000 0x0080000000000000 4096 with | .held c => c == 6 | _ => false) = true ∧
    ((tSl .exposing).held = none ∧ (tSl .exposing).len = 1 ∧ (tSl .exposing).dframe < 64 ∧ (tSl .exposing).frames = [0] ∧
      ({ tSl .exposing with held := some 6 } : PredSlot).held = some 6) ∧
    (exposable (tPred (tSl .exposing)) 7 = true ∧ (tSl .exposing).hit = true ∧ (tSl .exposing).drop = false ∧ (tSl .exposing).filled = true) ∧
    trueDue (tPred { tSl .exposing with hit := false }) 7 = true := by decide

set_option maxRecDepth 8000 in
/-- R250: the exposure by swap exchanges the frame with the quarantine frame. -/
theorem test_swap : tNext (exec (.exposureSwap 7) (tPred (tSl .exposing)))
    (fun t => t.core.remap[2] == 64 && t.core.pool[0] == 2 && t.core.slots[7].state == .exposed) = true := by decide

/-! ## Leases -/

/-- A core of tenant 0 with a budget of 4 in a domain of packages 0 and 1; `l` holds its tickets. -/
def tLease (l : List Ticket) : State := { tX [(1, 1), (2, 3), (3, 0x04000100)] with
  lease := { LeaseUnit.reset with domain := 3, lbud := [(0, 4)], tickets := l, ingress := [(32, 32)] } }

/-- A ticket of tenant 0 for package 1. -/
def tTicket (p : Bool) : Ticket := ⟨0, 0, 1, 1, 2, if p then [] else [5, 9], p, false, true, 0, 0⟩

/-- The lease unit with a request of package 1 for bundle 5 in service. -/
def tServe (k : BitVec 3) : State := { tLease [] with lease := { (tLease []).lease with
  bundles := [⟨5, k, 1, 0, 0, 0, 0, 0, 64, 64⟩], serving := some ⟨⟨1, 0, 0, 0, 1, false, 0⟩, 0, [5]⟩ } }

theorem witness_BandwidthLeases : ((tLease []).kind ≠ .memory ∧ (tLease []).pairFollower = false ∧ (tLease []).core.ni.ownSlot = some 0) ∧
    (1 < 64 ∧ 1 ≠ (tLease []).pkg ∧ (tLease []).lease.domain.getLsbD 1 = true) ∧ ¬ (tLease []).lease.domain.getLsbD 2 = true ∧
    (budgetOf (tLease []) 0 = 4 ∧ freeEntry (tLease []) 0 = some 0) ∧
    freeEntry (tLease ((List.range 64).map fun i => { tTicket false with idx := BitVec.ofNat 6 i, granted := [] })) 0 = none ∧
    heldTicket (tLease []) 0 0 = none ∧ heldTicket (tLease [tTicket false]) 0 0x04000100 = some (tTicket false) ∧
    heldTicket (tLease [tTicket true]) 0 0x04000100 = some (tTicket true) ∧ (tLease []).core.mode = .user ∧ tSup.core.mode = .supervisor ∧
    (floorSum (tLease []) - floorOf (tLease []) 1 + 256 ≤ 256) ∧
    ((tLease []).lease.pending = [] ∧ (tLease []).lease.serving = none ∧ ingressOf (tLease []) 1 0 = some 0 ∧ ingressOf (tLease []) 1 1 = none ∧
      budgetOf (tLease []) 0 - grantedTo (tLease []).lease 0 ≠ 0 ∧ budgetOf (tLease []) 1 = 0) ∧
    ((tLease []).fabric.find? isLeaseAnswer).isNone = true ∧ (∀ k ∈ (tLease [tTicket false]).lease.tickets, 7 ∉ k.granted) ∧
    (let u := { (tLease []).lease with bundles := [⟨5, 3, 1, 0, 0, 0, 0, 0, 64, 64⟩] };
      (bundleAt u 5).state = 3 ∧ chosen u 5 = false) ∧
    (floorOf (tLease []) 1 = 0 ∧ 0 ≤ (baseOf (tLease []).lease 1).length) ∧
    ((∀ k ∈ (tLease [tTicket false]).lease.tickets, 7 ∉ k.granted) ∧ ∀ q ∈ (tLease [tTicket false]).lease.paths, 7 ∉ q.2) ∧
    ((tLease []).fabric.find? isLeaseAnswer = none ∧ (tServe 2).lease.serving.isSome = true ∧ (bundleAt (tServe 2).lease 5).state ≠ 4) ∧
    (1 : BitVec 6).toNat ≠ (tLease []).pkg := by decide

/-- The lease unit with a request in service for bundle 5, which is in the state `k` and has 57 live receive lanes and 56 transmit lanes. -/
def tLit (k : BitVec 3) : State := { tLease [] with lease := { (tLease []).lease with bundles := [⟨5, k, 1, 0, 0, 0, 0, 0, 57, 56⟩] } }

/-- R384, R387, R389, R390: flits on lane 322, of bundle 5, and the loss of one of its lanes. -/
theorem witness_BandwidthLeases_lanes : (laneLit (tLit 4).lease 322 = false ∧ laneLit (tLit 2).lease 322 = true ∧ 128 * 2 + 66 = 322) ∧
    (nextFlight (tLit 2) 322 = none ∧
      (nextFlight { tLit 2 with lightIn := [⟨⟨0x8000, 0, 0, 0, .load 0 4⟩, none, 2⟩] } 322).isSome = true ∧
      (nextFlight { tLit 2 with lightIn := [⟨⟨0x8000, 0, 0, 0, .load 0 4⟩, some 322, 1⟩] } 322).isSome = true) ∧
    ((0 :: (laneAt (tLit 2).lease 2 66).resends).length ≤ 16 ∧ 16 < (0 :: List.replicate 16 0).length) ∧
    ((tLit 2).lease.deadRx = [] ∧ (tLit 2).lease.dead = [] ∧ 57 ≤ (bundleAt (tLit 2).lease 5).rxlive ∧
      (bundleAt (tLit 2).lease 5).txlive = 56 ∧ (bundleAt (tLit 2).lease 4).txlive ≠ 56 ∧ (bundleAt (tLease []).lease 5).rxlive ≤ 64) := by decide

/-- R384, R387: a flit on a lit lane takes one flit of its packet off; on a dark one nothing happens. -/
theorem test_flit : tNext (exec (.linkFlit 2 66 true) { tLit 2 with lightIn := [⟨⟨0x8000, 0, 0, 0, .load 0 4⟩, none, 2⟩] })
      (fun t => t.lightIn == [⟨⟨0x8000, 0, 0, 0, .load 0 4⟩, some 322, 1⟩]) = true ∧
    tNext (exec (.linkFlit 2 66 true) { tLit 4 with lightIn := [⟨⟨0x8000, 0, 0, 0, .load 0 4⟩, none, 2⟩] })
      (fun t => t.lightIn == [⟨⟨0x8000, 0, 0, 0, .load 0 4⟩, none, 2⟩]) = true := by decide

/-- R394 to R396: a lease of 3 is within a budget of 4, one more of 2 is not. -/
theorem test_lease : tNext (exec (.lease 4 1 2 false) (tLease [])) (fun t => t.x 4 == 0x04000100) = true ∧
    tNext (exec (.lease 4 1 2 false) (tLease [tTicket false])) (fun t => t.core.csr.ucause == 0x14 || t.core.ecause == 0x14) = true := by
  decide

/-! ## Boundaries, phases and requests -/

theorem witness_BoundaryEvents : takesEvent 2 (tCsr fun c => { c with sip := 16, sie := 16 }) = true ∧
    takesEvent 3 (tCsr fun c => { c with sip := 2, sie := 2 }) = true ∧
    (let s : State := { tSteward with core := { Core.reset 0x4000 with csr := { Csrs.reset with sstatus := 1, sie := 32 } },
                                      others := [(2, { Core.reset 2 with escWaits := true })] };
      takesEvent 4 s = true ∧ escalating s = [2]) ∧
    ((tCore fun c => { c with mcheck := some ⟨1, true, false, 0, 0, 0⟩ }).kind = .compute ∧
      (tCore fun c => { c with mcheck := some ⟨1, true, false, 0, 0, 0⟩ }).core.halt = none ∧ (tX []).unit.launch = none ∧
      (tX []).core.csr.sstatus.getLsbD 3 = false ∧ (8 : Word).getLsbD 3 = true) ∧
    ((tX []).core.mcheck = none ∧ (tX []).core.halt = none) ∧ takesEvent 5 (tCore fun c => { c with reports := [⟨0x0C, 0, none, none⟩] }) = true ∧
    takesEvent 6 (tCore fun c => { c with refusals := [1] }) = true ∧
    takesEvent 7 (tCsr fun c => { c with uip := 4, uie := 4, ustatus := 1 }) = true ∧
    takesEvent 8 ((tRing 1).mapCore fun c => { c with csr := { c.csr with uie := 32, ustatus := 1 } }) = true ∧
    (let s : State := { tSteward with others := [(2, { Core.reset 2 with halt := some 1 })] };
      s.unit.id < 1024 ∧ localOf (s.coreAt 2).id = 2 ∧ (s.coreAt 2).halt = some 1 ∧ s.unit.launch = none) ∧
    (let s : State := (tGang id).mapCore fun c => { c with halt := some 1 };
      s.unit.id < 1024 ∧ localOf (s.coreAt 0).id = 0 ∧ (s.coreAt 0).halt = some 1 ∧ s.unit.launch = some 9 ∧ s.launch? 9 = some tLaunch ∧
        tLaunch.stage ≠ .saved ∧ 0 ∈ tLaunch.members) ∧
    ((tGang id).kind = .compute ∧ tLaunch.stage = .running ∧ tLaunch.canRollBack = false ∧
      { tLaunch with pkt := { tPacket with replay := true } }.canRollBack = true) ∧
    (tSteward.kind = .steward ∧ tSteward.core.halt = none ∧ tSteward.core.csr.sstatus.getLsbD 3 = false ∧
      ({ State.reset with core := .reset 0x4800 } : State).kind = .memory) := by decide

set_option maxRecDepth 8000 in
/-- R137, R411: DCTL.kill of a halted core ends its launch, frees the cluster and ends the halt; R415: a machine check of a launch that cannot
roll back ends it. -/
theorem test_kill : tNext (exec (.dctlKill 0) ((tGang id).mapCore fun c => { c with halt := some 1 }))
      (fun t => t.launches == [] && t.unit.launch == none && t.core.halt == none && t.quartz.log == [(.nonFatal, 0)]) = true ∧
    tNext (exec .machineCheck ((tGang id).mapCore fun c => { c with mcheck := some ⟨3, true, false, 0, 0, 0⟩ }))
      (fun t => t.launches == [] && t.core.csr.scause == 0x80000006) = true := by decide

/-- R139, R137: a completion enters the handler with the shadow registers, and DCTL.go lets a halted core go on. -/
theorem test_completion : tNext (exec .completionInterrupt (tCore fun c => { c with
      shadow := c.shadow.set 0 77, csr := { c.csr with uip := 4, uie := 4, ustatus := 1, utvec := 0x200 } }))
    (fun t => t.core.pc == 0x200 && t.x 26 == 77 && t.core.csr.ucause == 0x80000002 && t.core.csr.ustatus == 0xE) = true := by decide

/-- Tenant 0 with its first GiB mapped on the first of HBM, and the words `l` there. -/
def tMap (l : List (Nat × Word)) (s : State) : State := { s with hbm := l.foldl (fun m e => m.putWord e.1 e.2) (Memory.putWord [] 0 7) }

theorem witness_PhaseEvents :
    ((tGang id).launch? 9 = some tLaunch ∧ tLaunch.stage = .running ∧ workDone (tGang id) tLaunch = false) ∧
    (match runPlan { tLaunch with loaded := false } 0 (2 ^ 36) 64 (tMap [(68, 0x80000000)] (tGang fun l => { l with loaded := false })) with
      | .ok _ => true | .error _ => false) = true ∧
    (let l := { tLaunch with lines := [⟨0, 4, 0, false⟩], stored := true };
      workDone (tGang fun _ => l) l = true ∧ l.finished = true) ∧
    ({ tLaunch with stage := .closed }.pkt.sig = 0 ∧ tLaunch.pkt.succ = [3]) ∧
    (let s := (tGang id).mapUnit fun u => { u with limit := 100, elapsed := 100 };
      s.launch = some tLaunch ∧ watchLimit s.unit ≤ s.unit.elapsed ∧ gangWaits s tLaunch = false) ∧
    ({ tLaunch with pkt := { tPacket with replay := true } }.canRollBack = true ∧ tLaunch.canRollBack = false) ∧
    (let l := { tLaunch with stage := .aborting };
      l.preempt = false ∧ l.members.all (abortStopped (tGang fun _ => l)) = true) := by decide

set_option maxRecDepth 8000 in
/-- R160, R162: the closure of a finished phase closes the launch, and its completion frees the cluster. -/
theorem test_closure : tNext (exec (.phaseClosure 9) (tGang fun l => { l with lines := [⟨0, 4, 0, false⟩], stored := true }))
      (fun t => (t.launch? 9).any fun g => g.stage == .closed && g.phase == 1) = true ∧
    tNext (exec (.launchCompletion 9) (tGang fun l => { l with stage := .closed })) (fun t => t.unit.launch == none && t.launches == []) = true := by
  decide

/-- A packet from core 1 to core 0 on the fabric, and the state that holds it. -/
def tMail (b : Body) : Packet := ⟨1, 0, 0, 3, b⟩
def tFab (b : Body) (s : State) : State := { s with fabric := [tMail b] }

/-- The same to the memory core or the home slice `l`. -/
def tTo (l : Nat) (b : Body) : State := { tX [] with fabric := [⟨1, BitVec.ofNat 21 l, 0, 3, b⟩] }

set_option maxRecDepth 8000 in
theorem witness_FabricRequests :
    (nextPacket (tFab (.load 0x3FFF0 8) (tX [])) isLoad = some (tMail (.load 0x3FFF0 8)) ∧ faLocal 0x38000 + 8 ≤ 0x40000 ∧
      ((tX []).unitAt 0).owner = (tMail .queued).tenant ∧ ((tX []).coreAt 0).supFrame 0x38000 8 = false ∧
      ((tX []).coreAt 0).lockHit 0x38000 8 true = false) ∧
    (((tX []).mapUnit fun u => { u with owner := 2 }).unitAt 0).owner ≠ (tMail .queued).tenant ∧
    (nextPacket (tFab (.store 0 4 5) (tX [])) isStore).isSome = true ∧
    (nextPacket (tTo 0x4800 (.amo 0 false 0x10 1 0)) (fun q => isVirtual q && canTranslate (tTo 0x4800 (.amo 0 false 0x10 1 0)) q)).isSome = true ∧
    (let s := tTo 0x4800 (.amo 0 false 0x10 1 0);
      atcFind s 0 0 0x10 = none ∧ forwardRoom s 0x4800 = true ∧
        (atcFind { s with atc := [⟨0, 0, 0, 30, 0, true, false⟩] } 0 0 0x10).isSome = true) ∧
    (nextPacket (tTo 0x7F05 (.read 0x10 8)) (fun q => isVirtual q && canTranslate (tTo 0x7F05 (.read 0x10 8)) q)).isSome = true ∧
    (nextPacket (tTo 0x7F05 (.write 0x10 [1])) (fun q => isVirtual q && canTranslate (tTo 0x7F05 (.write 0x10 [1])) q)).isSome = true ∧
    ((nextPacket (tTo 0x5000 (.readPhys 0 0 0x10 8)) isLoad).isSome = true ∧
      (nextPacket (tTo 0x5000 (.writePhys 0 0 0x10 [1])) isStore).isSome = true) ∧
    (let a : DWord := 0x0080000000038000;
      (nextPacket (tFab (.read a 8) (tX [])) isLoad).isSome = true ∧ (nextPacket (tFab (.write a [1]) (tX [])) isStore).isSome = true) := by decide

set_option maxRecDepth 8000 in
theorem witness_FabricRequests_service :
    (match walk (tMap [] (tX [])) 0 0x10 with | .leaf pa w _ _ => pa == 0x10 && w | _ => false) = true ∧
    (let s := tTo 0x5000 (.amoPhys 0 0 false 0x10 0x10 1 0);
      (nextPacket s isReadyAmo).isSome = true ∧ launchOfSource s 1 = none ∧ s.sliceJrn = [] ∧ (s.block 0).poison = false ∧
        s.errAt 0 = .clean) ∧
    (nextPacket (tFab (.msg 0 []) (tRing 0)) isMessage).isSome = true ∧ (tRing 0).entered = false ∧ (tRing 0).core.ringOn = true ∧
    (match place ⟨0, [], true⟩ (tRing 0) with | some t => t.core.ni.wr == 1 | none => false) = true ∧
    (nextPacket (tFab (.take 16) (tX [])) isTake).isSome = true ∧ wordTarget (tX []) (tMail (.take 16)) 16 = some 16 ∧
    ((tX []).core.full 16 = true ∧ tEmpty.core.full 16 = false ∧ tEmpty.core.deferred.length < 64) ∧
    (nextPacket (tFab (.ttake 16 9) (tX [])) isTtake).isSome = true ∧ (nextPacket (tFab (.put 16 9) (tX [])) isPut).isSome = true ∧
    (nextPacket (tFab (.evsig 0 31) (tX [])) isSignal).isSome = true ∧ clusterAt 0 = (tX []).unit.id ∧
    (let s := tFab (.mcmd 0 0 0 0) (tX []);
      (nextPacket s (matrixReady s)).isSome = true) ∧
    (let s := tFab (.radv 1 false 1) (tCp []);
      (nextPacket s (advanceReady s)).isSome = true) := by decide

set_option maxRecDepth 8000 in
theorem witness_FabricRequests_replies :
    ((nextPacket (tFab (.reply .ack) (tSlot .rload (.load 0 4) none)) isReply).isSome = true ∧ reported .rload = false ∧
      reported .rstore = true) ∧
    (let s := tFab (.reply (.nack 0)) (tSlot .rload (.load 0 4) none);
      (nextPacket s (retryFor s 3)).isSome = true) ∧
    (nextPacket (tFab .queued (tX [])) (fun q => q.body == .queued)).isSome = true ∧
    (match (tSlot .rload (.load 0 4) none).core.ni.slot 3 with | some x => x.timed && x.reply.isNone && x.kind != .lease | none => false) = true ∧
    (let s := placeWord 0xC56A0041 (tCore fun c => { c with stalled := true, ni := { c.ni with reserved := some 2 } });
      s.core.ni.slot 2 = none ∧ leaseWaits s 2 = true) := by decide

/-- Every unit of the state of a waiting slot, of a gang and of a gang that is placed stands where it is listed. -/
theorem witness_placed : (tSlot .rload (.load 0 4) none).placed ∧ (tGang id).placed ∧ (tX []).placed :=
  ⟨⟨by decide, by decide⟩, ⟨by decide, by decide⟩, ⟨by decide, by decide⟩⟩

/-- R290: a load of another core of the tenant is answered with its bytes. -/
theorem test_remote_load : tNext (exec .remoteLoadRequest (tFab (.load 0x100 4) ((tX []).w0Write 0x100 4 0x12345678)))
    (fun t => t.fabric == [⟨0, 1, 0, 3, .reply (.data 0x12345678)⟩]) = true := by decide

theorem witness_EventWindowRows : (tLine .reset).kind ≠ .memory ∧ (tBarrier 1 0).unit.bars[31].arrived.getLsbD (memberNo (tBarrier 1 0)) = false ∧
    (tBarrier 3 1).unit.bars[31].arrived.getLsbD (memberNo (tBarrier 3 1)) = true ∧
    (syncView (tX []) true 15).arrived.getLsbD (memberNo (tX [])) = false ∧
    (let s := tGang fun l => { l with groups := l.groups.set 15 ⟨0, [⟨0, 3, 1⟩]⟩ };
      (syncView s true 15).arrived.getLsbD (memberNo s) = true) ∧
    (tLine { EvLine.reset with count := 2 }).unit.evs[31].waiters = [] ∧ (slotOf (tSlot .take (.take 0) none) .take).isSome = true ∧
    (let s := (tX []).mapNi fun n => { n with rfaHi := 0x00800000, rfaLo := 0x01000100 };
      let far : DWord := s.core.ni.rfaHi ++ s.core.ni.rfaLo;
      slotOf s .take = none ∧ s.core.ni.ownSlot = some 0 ∧ faRegion far = 1 ∧ faValid far = true ∧ s.reachable (faEndpoint far) = true ∧
        faPkg far = s.pkg ∧ released s 2 = true) := by decide

/-! ## Queues, tenants, pre-emption -/

/-- Queue 15 of tenant 0 at 64 in the first mapped GiB, its index 1 written, holding the words `l` as its packet 0. -/
def tQueue (en : Bool) (l : List (Nat × Word)) : State := (tMap l (tX [])).mapQueue 0 15 fun x => { x with base := 64, en := en, wr := 1 }

/-- An eligible launch of tenant 0. -/
def tEligible (f : Launch → Launch) : State := (tGang fun l => f { l with stage := .eligible, gang := [] }).mapUnit fun u => { u with launch := none }

set_option maxRecDepth 8000 in
theorem witness_QueueEvents : hostServed (tX []) = true ∧ ((tX []).mapQuartz fun q => { q with ready := true }).quartz.ready = true ∧
    mayEnable (tX []) = true ∧ ((tQueue true []).queue 0 15).en = true ∧ ((tX []).queue 0 15).en = false ∧
    (mayRead (tQueue true []) 0 15 = true ∧ mayRead (tQueue false []) 0 15 = false) ∧
    (match readVirtual (processor (tQueue true []) 0 0 15) 64 64 (tQueue true []) with
      | .ok r => enqueueCode r.2 0 (wordsOf 16 r.1) (parsePacket (wordsOf 16 r.1)) == some 1
      | .error _ => false) = true ∧
    (match readVirtual (processor (tX []) 0 0 15) 64 64 (tX []) with
      | .error (.fault _ _) => true | _ => false) = true ∧
    (headOf (tX []) 0 = none ∧ (headOf (tEligible id) 0).isSome = true ∧ neededVictims (tEligible id) 0 { tLaunch with stage := .eligible, gang := [] } = []) ∧
    (let s := (tEligible id).mapFn 0 fun h => { h with victims := [9], head := some 9 };
      (s.fn 0).victims = [9] ∧ (selected s 0).isSome = true ∧ selected (tX []) 0 = none) ∧
    ((tX []).quartz.ready = false ∧ ((0x40 : Nat) % 4 = 0 ∧ 0x40 / 2 ^ 36 < 24 ∧ (tX []).errAt (0x40 / 64) = .clean)) := by decide

/-- Launch 9 with a kernel of one instruction at 64 and no data. -/
def tKernel (k : Stage) (gang : List Nat) : Launch :=
  { tLaunch with stage := k, gang := gang, cores := gang.map (16 * ·), pkt := { tPacket with kimg := 64, argsz := 0 } }

/-- The package with that launch, tenant 0 mapped. -/
def tKernelAt (k : Stage) (gang : List Nat) : State :=
  { tMap [(64, 4)] (tEligible fun _ => tKernel k gang) with unit := { Cluster.reset 0 with launch := if gang.isEmpty then none else some 9 } }

set_option maxRecDepth 40000 in
theorem witness_QueueEvents_placement :
    (let s := (tKernelAt .eligible []).mapFn 0 fun h => { h with head := some 9 };
      let l := tKernel .eligible [];
      selected s 0 = some l ∧ l.fn = 0 ∧ l.stage = .eligible ∧ s.flint.life = .provisioned ∧
      l.pkt.gang ≤ (ownClusters s 0).length ∧ l.pkt.gang ≤ (freeClustersOf s 0).length ∧
      (placedOn s l ((freeClustersOf s 0).take 1)).cores ≠ [] ∧
      homesOk (placedOn s l ((freeClustersOf s 0).take 1)) (placedOn s l ((freeClustersOf s 0).take 1)).cores [0] = true) := by decide

set_option maxRecDepth 40000 in
theorem witness_QueueEvents_image :
    (let s := tKernelAt .placed [0];
      s.launch? 9 = some (tKernel .placed [0]) ∧ (tKernel .placed [0]).gang.Nodup ∧ (∀ k ∈ (tKernel .placed [0]).gang, k < 1024) ∧
      (match loadImage (processor s 0 9 16) (tKernel .placed [0]) 58 s with
        | .ok (_, u) => u.launch? 9 == some (tKernel .placed [0]) && u.others.isEmpty && u.units.isEmpty
        | .error _ => false) = true) := by decide

set_option maxRecDepth 8000 in
/-- R348, R351: a packet of type 0 is rejected with code 1, and QRD moves on. -/
theorem test_enqueue : tNext (exec (.packetEnqueue 0 15) (tQueue true [])) (fun t =>
    (t.queue 0 15).rd == 1 && (t.queue 0 15).rej && (t.queue 0 15).code == 1 && t.launches == []) = true := by decide

/-- A launch that is being pre-empted from core 0. -/
def tPre (saved : Bool) : State := { tGang fun l => { l with stage := .preempting, parked := (List.range 16).map fun k => (k, .reset 0), span := 1 } with
  core := { Core.reset 0 with csr := { Csrs.reset with ctxsaved := saved } } }

/-- The same launch, as its cluster holds it. -/
def tPreLaunch : Launch := { tLaunch with stage := .preempting, parked := (List.range 16).map fun k => (k, .reset 0), span := 1 }

/-- The core of `tPre` at the WFI of its handler. -/
def tHandler : State := (tPre true).mapCore fun c => { c with mode := .supervisor, stalled := true, handlerEnded := true }

set_option maxRecDepth 8000 in
theorem witness_TenantsAndPreemption :
    ((tPre false).launch = some tPreLaunch ∧ tPreLaunch.stage = .preempting ∧ (assocGet tPreLaunch.parked 0).isSome = true) ∧
    ((tPre false).core.csr.ctxsaved = false ∧ (tPre true).core.csr.ctxsaved = true ∧ (∀ i : Fin 32, (tPre false).core.ni.slots[i] = none) ∧
      (tPre false).core.ni.held = [] ∧ (tPre false).core.mx.acc = [] ∧ (tPre false).core.mx.queue = [] ∧ (tPre false).core.cp.queue = [] ∧
      (tPre false).core.seqs = [] ∧ gangSettled (tPre false) tPreLaunch = true) ∧
    (let s := (tPre false).mapNi fun n => { n with slots := (tSlot .rload (.load 0 4) none).core.ni.slots };
      s.core.csr.ctxsaved = false ∧ gangSettled (spillArrivals (withdrawTakes s)) tPreLaunch = false) ∧
    (handlerEnds (tPre true) = false ∧ handlerEnds tHandler = true ∧ tHandler.core.csr.ctxsaved = true ∧
      tHandler.core.blockSaved = false ∧ (coreBlock tHandler tPreLaunch 0).isSome = true) := by decide

set_option maxRecDepth 8000 in
theorem witness_TenantsAndPreemption_owners :
    (hostServed (tX []) = true ∧ ((tX []).unitAt 0).ownBusy = false ∧ ((tX []).unitAt 0).owner ≠ 5 ∧ clusterHeld (tX []) 0 = false ∧
      clusterHeld (tGang id) 0 = true) ∧ (({ (tX []) with unit := { (tX []).unit with ownBusy := true } }).unitAt 0).ownBusy = true ∧
    (openRecord (tX []) 0 63 = none ∧
      (let s := ((tX []).mapQuartz fun q => { q with ready := true }).mapFn 0 fun h =>
        { h with records := [⟨63, 0, 0, 1, 0, 9, 0, 1, 0, false, [tMail (.amo 0 false 0 0 0)], []⟩] };
       hostServed s = true ∧ s.quartz.ready = true ∧ (openRecord s 0 63).isSome = true ∧ (s.fn 0).fqwait = [])) ∧
    ((((tX []).mapFn 0 fun h => { h with atcBusy := true }).fn 0).atcBusy = true ∧ (∀ p ∈ (tX []).fabric, forwarded 0 p = false) ∧
      (∃ p ∈ (tTo 0x5000 (.amoPhys 0x4800 0 false 0x10 0x10 1 0)).fabric, forwarded 0 p = true)) := by decide

/-- A launch of no cluster whose span begins at 4,096 of tenant 0. -/
def tSpan (k : Stage) : Launch := { tLaunch with stage := k, gang := [], cores := [], parked := [(0, .reset 0)], span := 4097 }

/-- The package with that launch and its frontier image in HBM, no cluster held. -/
def tSaved (k : Stage) : State := { tEligible fun _ => tSpan k with
  hbm := Memory.put (Memory.putWord [] 0 7) 4096 (frontierImage (tSpan k)) }

set_option maxRecDepth 40000 in
theorem witness_TenantsAndPreemption_save : (tSaved .preempting).launch? 9 = some (tSpan .preempting) ∧ (tSpan .preempting).span ≠ 0 ∧
    (∀ m ∈ (tSpan .preempting).members, ((tSaved .preempting).coreAt m).blockSaved = true) ∧
    (match writeGang (tSpan .preempting) (tSaved .preempting) with
      | .ok t => t.launch? 9 == some (tSpan .preempting) | .error _ => false) = true := by decide

set_option maxRecDepth 40000 in
theorem witness_TenantsAndPreemption_resume :
    (let s := (tSaved .saved).mapFn 0 fun h => { h with head := some 9 };
      s.launch? 9 = some (tSpan .saved) ∧ (selected s 0).map (fun h => h.id) = some 9 ∧ fitsOn (tSpan .saved) (freeClustersOf s 0) = true ∧
      coreLost s (tSpan .saved) = false ∧ (tSpan .saved).parked ≠ [] ∧
      (selected (tSaved .saved) 0).map (fun h => h.id) ≠ some 9 ∧
      coreLost (s.mapQuartz fun q => { q with retired := [0] }) { tSpan .saved with gang := [0], cores := [0] } = true) := by decide

set_option maxRecDepth 40000 in
theorem witness_TenantsAndPreemption_images :
    (match readSaved (tSpan .saved) (tSaved .saved) with
      | .ok (d, t) => (readFrontier (tSpan .saved) d.head d.runs).isSome &&
        (match readBlocks (tSpan .saved) t with
          | .ok (l, u) => l.isEmpty && u.launch? 9 == some (tSpan .saved)
          | .error _ => false)
      | .error _ => false) = true := by decide

/-- R366: an owner write to a free cluster starts its preparation. -/
theorem test_owner : tNext (exec (.clownOwnerWrite 0 5) (tX [])) (fun t => t.unit.owner == 5 && t.unit.ownBusy) = true ∧
    tNext (exec (.clownOwnerWrite 0 5) (tGang id)) (fun t => t.unit.owner == 0 && t.unit.ownErr) = true := by decide

/-! ## Security, resets, the step and the encoding -/

theorem witness_SecurityEvents : (tSteward.unit.id < 1024 ∧ tSteward.steward = true ∧ tSteward.unit.ftctl.getLsbD 31 = true ∧ tSteward.unit.ftctl.toNat % 256 ≠ 0 ∧
      testable 15 6 tSteward = true ∧ tSteward.quartz.records.length < 4096 ∧ tSteward.ftRec ⟨6, 0, 0, 15, 63⟩ = none) ∧ (tX []).steward = false ∧
    (let s := tSteward.mapQuartz fun q => { q with records := [⟨2, 1, 0, 0, 0, 0, 62, 1, 62, tSteward.now⟩] };
      (s.ftRec ⟨2, 0, 0, 0, 0⟩).isSome = true) ∧
    (tSteward.ftRec ⟨2, 0, 0, 0, 0⟩ = none ∧ tSteward.ftRec ⟨1, 0, 0, 0, 0⟩ = none ∧
      ((tSteward.mapQuartz fun q => { q with records := [⟨1, 3, 0, 0, 0, 0, 62, 1, 62, 0⟩] }).ftRec ⟨1, 0, 0, 0, 0⟩).any (·.state == 3) = true) ∧
    (ckReach (tX []) 0 = true ∧ ckReach (tX []) 0x20000000 = false) ∧
    (tX []).flint.level ≠ 3 ∧ hostServed (tX []) = true ∧ ((tX []).mapFlint fun f => { f with life := .manufacturing }).flint.life = .manufacturing ∧
    ((tX []).quartz.off = false ∧ (tX []).flint.nonce = .replicate 8 0 ∧ (tX []).flint.qbusy = false ∧ (tX []).flint.life ≠ .decommissioned ∧
      (tX []).flint.lastNonce = none) ∧ ((tX []).mapFlint fun f => { f with qbusy := true }).flint.qbusy = true ∧
    ((tX []).flint.rmbusy = false ∧ (tX []).flint.life = .provisioned ∧ (64 : Nat) ≤ 1048576 ∧ 64 % 64 = 0) ∧
    ((tX []).mapFlint fun f => { f with rmbusy := true, ckbusy := true }).flint.rmbusy = true ∧ ((tX []).flint.ckbusy = false ∧ anyGang (tX []) = false) ∧
    ((tX []).mapFlint fun f => { f with ckbusy := true, ckop := 0 }).flint.ckop.getLsbD 30 = false := by decide

theorem witness_SecurityEvents_day : tSteward.now - tSteward.now < 86400 := by simp

theorem witness_ResetState : hostServed State.reset = true ∧ (5 : BitVec 5) ≠ 0 ∧ (State.reset.quartz.ready = false ∧ State.reset.quartz.off = false) := by
  decide

theorem witness_ResetsAndHost : hostServed (tX []) = true ∧ ((tX []).flint.life ≠ .locked) ∧ (∀ l ∈ (tX []).launches, l.fn ≠ 1) ∧
    ((tX []).quartz.ready = false ∧ (tX []).quartz.off = false) ∧ ((tX []).flint.rmbusy = false ∧ (tX []).flint.life = .provisioned) ∧
    ((4 : BitVec 3).toNat ≤ 4 ∧ 64 ≤ 1048576 ∧ 1048576 % 64 = 0) ∧ ((tX []).flint.ckbusy = false ∧ anyGang (tX []) = false ∧
      anyGang (tGang id) = true) ∧
    (let s := (tX []).mapFlint fun f => { f with ckbusy := true, ckop := 0x40000000, ckImages := [⟨none, 0, [], [], .replicate 32 0, 1⟩] };
      s.flint.ckbusy = true ∧ s.flint.ckop.getLsbD 30 = true ∧ (ckImage s.flint).isSome = true) ∧
    ((tX []).mapQuartz fun q => { q with off := true }).quartz.off = true ∧
    (0x7FFFFFFFC / 2 ^ 36 < 24 ∧ ((tX []).block 0).poison = false) ∧
    (match walk (tMap [] (tX [])) 0 0x10 with | .leaf pa _ _ _ => pa == 0x10 | _ => false) = true := by decide

/-- R439: a checkpoint of another cold-reset count is refused with code 5. -/
theorem test_checkpoint : tNext (exec (.checkpointDone 0) ((tX []).mapFlint fun f => { f with
      ckbusy := true, ckgib := 1535, ckop := 0x40000000, ckImages := [⟨none, 0, [], [], .replicate 32 0, 0⟩] }))
    (fun t => t.flint.ckerr && t.flint.ckcode == 5 && !t.flint.ckbusy) = true := by decide

/-- A state that may issue the word `w` at its pc. -/
def tIssue (w : Word) : State := placeWord w (tX [(1, 3), (2, 4)])

theorem witness_StepRunsDecodedInstruction : ((tIssue 0).schedule = [] ∧ (tIssue 0).inputs = [] ∧ (tIssue 0).quartz.off = false ∧
      (tIssue 0).quartz.fatal = false ∧ stopped (tIssue 0) = false ∧ (tIssue 0).core.stepDue = false ∧ (tIssue 0).core.follow = none ∧
      (tIssue 0).core.stalled = false ∧ (boundary (tIssue 0)).isNone = true ∧ noPoint (tIssue 0) = false ∧ leaderHeld (tIssue 0) = false ∧
      ownHazard (tIssue 0) (issued (tIssue 0)) = false ∧ (tIssue 0).core.pc.toNat % 4 = 0) ∧ (tCore fun c => { c with pc := 2 }).core.pc.toNat % 4 ≠ 0 ∧
    fetchWord (tCore fun c => { c with pc := 0x40000 }) = none ∧ fetchWord (tIssue 0x04611000) = some 0x04611000 ∧
    decodeTableWord 32 0xFFFFFFFF = none := by decide

theorem witness_DecodeEncode : ((.mdrn 31 31 31 true true true : Instr).wellFormed = true ∧
      (encode (.mdrn 31 31 31 true true true)).isSome = true) ∧ (decodeTableWord 32 0x4540FFFC).isSome = true := by decide

/-- A step from a state whose memories are canonical answers a next state: the core runs `add x3, x1, x2` there. -/
theorem witness_MemoryStaysCanonical : (∀ m ∈ [State.reset.core.sp, State.reset.core.imem, State.reset.core.ni.buf, State.reset.unit.istore,
      State.reset.hbm], m.wf = true) ∧ tNext (step State.reset) (fun _ => true) = true := by decide

/-! ## Further witnesses: the clauses on waits, windows, remote forms and refusals -/

theorem witness_CsrInstructions_effects : ((tX [(1, 3)]).x 1 ≠ 0 ∧ (tX []).x 1 = 0) ∧
    ((tCsr fun c => { c with mrcfg := 0x80000000 }).core.csr.mrcfg.getLsbD 31 = true ∧ (tX []).core.csr.mrcfg.getLsbD 31 = false) ∧
    (tX []).kind = .compute ∧ tSup.core.mode = .supervisor ∧ tSup.unit.launch = none ∧ (tGang id).unit.launch ≠ none ∧
    ((tRing 0).core.csr.mrcfg.getLsbD 31 = true ∧ (tRing 0).core.ni.overflow = [] ∧ (tRing 0).core.ni.held = []) ∧
    (1 ≤ (128 : Word).toNat % 256 ∧ (128 : Word).toNat % 256 ≤ 128 ∧ ¬ (129 : Word).toNat % 256 ≤ 128) ∧
    (tCsr fun c => { c with sdbg := 1 }).core.csr.sdbg.getLsbD 0 = true := by decide

theorem witness_FpOperandForms_writes : ((tStream false 0).streamOn 1 = true ∧ ((tStream false 0).stream 1).snap.write = false) ∧
    ((tStream true 2).streamOn 1 = true ∧ ((tStream true 2).stream 1).snap.write = true ∧
      ((tStream true 2).stream 1).snap.total ≤ ((tStream true 2).stream 1).pos) ∧
    4 < (tCsr fun c => { c with fcsr := 5 }).core.csr.fcsr.toNat % 8 := by decide

theorem witness_AccessChecks_windows : (tX []).kind = .compute ∧
    (∀ k ∈ ([(0x100000, 0x180000), (0x200000, 0x280000), (0x300000, 0x400000), (0x400000, 0x600000), (0x600000, 0x700000)] :
      List (Nat × Nat)), k.1 ≤ k.2 - 4 ∧ k.2 - 4 < k.2 ∧ checkAccess (tX []) k.1 ⟨4, false, false⟩ = none ∧
      checkAccess tSup (k.2 - 4) ⟨8, true, false⟩ = some 7 ∧ checkAccess (tX []) (k.1 + 2) ⟨4, false, false⟩ = some 4) ∧
    checkAccess (tX []) 0x17FFFC ⟨4, true, false⟩ = some 7 ∧ checkAccess tSup 0x17FFFC ⟨4, true, false⟩ = none ∧
    (let s := tCore fun c => { c with locks := c.locks.set 0 (some ⟨true, 1, 2, 3, 0, 0⟩) };
      checkAccess s 0x100004 ⟨4, false, false⟩ = some 10 ∧ checkAccess s 0x100000 ⟨4, false, false⟩ = none) := by decide

theorem witness_ElementWindows_stores : (∀ k ∈ [1, 2, 3, 4, 5], checkAccess (tX []) (elemBase k) ⟨8, false, false⟩ = none ∧
      checkAccess (tX []) (elemBase k) ⟨4, true, false⟩ = none ∧ checkAccess (tX []) (elemBase k) ⟨8, true, false⟩ = none ∧
      checkAccess (tX []) (elemBase k) ⟨4, true, true⟩ = none) ∧
    (tX []).fBusy [1] = false ∧ (tX []).streamOn 1 = false ∧ (tX []).replays = false ∧ (tX []).paired = false := by decide

/-- R82, R180: W2 widens the smallest subnormal, W1 rounds to nearest even. -/
theorem test_window_halves : (((tX []).w0Write 0 2 1).core.elem 2 0 = 0x33800000) ∧ elemOut 1 0x3F808000 = 0x3F80 ∧
    elemOut 1 0x3F818000 = 0x3F82 ∧ elemOut 2 0x7F800000 = 0x7C00 := by decide

theorem witness_TagTable_eviction : (let l := (List.range 4).map fun i => (⟨5, i, BitVec.ofNat 26 (i + 1), 9, i⟩ : TagWay);
    tagFind l 5 = none ∧ tagHole l 5 = none ∧ l.find? (fun x => x.set == 5 && x.rank == 3) = some ⟨5, 3, 4, 9, 3⟩) := by decide

theorem witness_FullEmptyWords_write : (let s := tCore fun c => { c with locks := c.locks.set 0 (some ⟨true, 1, 16, 19, 0, 0⟩) };
    s.core.stalled = false ∧ s.core.lockHit 16 4 true = true ∧ checkAccess s 16 ⟨4, false, false⟩ = some 0x0A) := by decide

theorem witness_Fences_waits : outstanding (tSlot .rstore (.store 0x400000000 4 0) none) 3 false true = true ∧
    (reportHeld ((tCore fun c => { c with reports := [⟨0x0D, 0, none, none⟩], csr := { c.csr with ustatus := 4 } })) = true) ∧
    ((tCp [tCopy .reset none]).core.cp.queue ≠ [] ∧ reportHeld (tCp [tCopy .reset none]) = false) ∧
    ((tCore fun c => { c with seqs := [tLoop 0 1] }).kind = .compute ∧ (tCore fun c => { c with seqs := [tLoop 0 1] }).core.seqs ≠ []) := by
  decide

theorem witness_LocalAtomics_remote : (tX []).paired = false ∧ (tX []).pairFollower = false ∧ 2 ≤ (2 : BitVec 2).toNat ∧
    ((tX [(4, 2)]).xp 4).toNat % 4 ≠ 0 ∧ (faRegion (tFar.xp 4) ≠ 0 ∧ faRegion (tFar.xp 4) ≠ 2) ∧
    (let w := (tX [(4, 16)]).xp 4;
      faRegion w = 0 ∧ w.toNat % 4 = 0 ∧ faPkg w = (tX []).pkg ∧ faValid w = true ∧ (tX []).reachable (amoEndpoint (tX []) w false) = true) ∧
    (let w := (tX [(4, 0x20), (5, 0x01000000)]).xp 4;
      faRegion w = 2 ∧ faPkg w = (tX []).pkg ∧ faValid w = true ∧ (tX []).reachable (amoEndpoint (tX []) w true) = true) ∧
    slotOf (tX []) .amo = none ∧ (tX []).core.ni.ownSlot = some 0 ∧
    (tCore fun c => { c with ni := { c.ni with slots := .replicate 32 (some ⟨.radv, ⟨0, 1, 0, 0, .queued⟩, none, true⟩) } }).core.ni.ownSlot = none ∧
    released (tX []) 2 = true ∧ released (tSlot .rstore (.store 0x0080000001000000 4 0) none) 3 = false ∧
    (∀ r ∈ ([none, some (.data 5), some (.nack 1), some (.vfault 3)] : List (Option Reply)),
      (slotOf (tSlot .amo (.amo 0 false 16 1 0) r) .amo).isSome = true) := by decide

theorem witness_Barriers_waits : released (tSlot .rstore (.store 0x0080000001000000 4 0) none) 1 = false ∧
    (tBarrier 1 0).unit.bars[31].arrived = 0 ∧
    ((tBarrier 3 2).unit.bars[31].arrived ≠ 0 ∧ (tBarrier 3 2).unit.bars[31].members.getLsbD 0 = true ∧
      (tBarrier 3 2).unit.bars[31].arrived.getLsbD 0 = false) ∧
    ((tBarrier 2 2).unit.bars[31].members.getLsbD 0 = false ∧ (tBarrier 3 1).unit.bars[31].arrived.getLsbD 0 = true) := by decide

/-- A gang whose group 15 has the part `p` of rank 0. -/
def tGroup (p : GroupPart) : State := tGang fun l => { l with groups := l.groups.set 15 ⟨2, [p]⟩ }

theorem witness_Barriers_groups : (tGroup ⟨0, 1, 0⟩).launch.bind (fun l => l.groups[15]?) = some ⟨2, [⟨0, 1, 0⟩]⟩ ∧
    (tGroup ⟨0, 1, 0⟩).kind ≠ .memory ∧ (tGroup ⟨0, 1, 0⟩).pairFollower = false ∧ released (tGroup ⟨0, 1, 0⟩) 2 = true ∧
    (released ((tGroup ⟨0, 1, 0⟩).mapCore fun c => { c with
      ni := { c.ni with slots := (tSlot .rstore (.store 0x0080000001000000 4 0) none).core.ni.slots } }) 2 = false) ∧
    tLaunch.rankOf (tGroup ⟨0, 1, 0⟩).unit.id = 0 ∧ memberNo (tGroup ⟨0, 1, 0⟩) = 0 ∧
    ((1 : BitVec 17).getLsbD 0 = true ∧ (2 : BitVec 17).getLsbD 0 = false) ∧
    0 < ((2 : Word) - ((tGroup ⟨0, 1, 0⟩).x 1)).toInt ∧ ((2 : Word) - ((tGroup ⟨0, 1, 0⟩).setX 1 2).x 1).toInt ≤ 0 := by decide

/-- R313: the last arrival of a group of one part starts the next generation; another waits for it. -/
theorem test_group : tNext (exec (.arrive 3 true 15) (tGroup ⟨0, 1, 0⟩)) (fun t => t.x 3 == 2 &&
      (t.launch.bind fun l => l.groups[15]?) == some ⟨3, [⟨0, 1, 0⟩]⟩) = true ∧
    tNext (exec (.arrive 3 true 15) (tGroup ⟨0, 3, 0⟩)) (fun t => (t.launch.bind fun l => l.groups[15]?) == some ⟨2, [⟨0, 3, 1⟩]⟩) = true := by
  decide

theorem witness_PointEntry_runs : (tGang id).quartz.fatal = false ∧ (tX []).quartz.fatal = false := by decide

theorem witness_VectorLoops_held : (let s := (tStream false 0).mapNi fun n => { n with
      slots := n.slots.set 3 (some ⟨.rstore, ⟨0, 0, 0, 3, .store 16 4 0⟩, none, true⟩) };
    let q := tLoop 0xA4611000 2;
    s.core.ni.slots.toList.any (fun o => requestMeets s o (loopSpans s q true)) = true ∧
    (tStream false 0).core.ni.slots.toList.any (fun o => requestMeets (tStream false 0) o (loopSpans (tStream false 0) q true)) = false) := by
  decide

theorem witness_EnvelopeForm_greatest : ((0 : Word) ≠ 0x7FFFFFFF ∧ (12 : Word) ≠ 0x80000000 ∧ (0 : Word).toInt ≤ (12 : Word).toInt) ∧
    ((0 : Int) < 1 ∧ (0 : Word).toInt * 1 ≤ 12 ∧ (12 : Int) ≤ (12 : Word).toInt * 1) := by decide

/-- R264: of three lines on 0 to 12 the one that is nowhere the greatest is dropped. -/
theorem test_canonical : canonical [⟨0, 4, 1⟩, ⟨0, 3, 2⟩, ⟨0x10000, 0, 3⟩] 0 12 = [⟨0, 4, 1⟩, ⟨0x10000, 0, 3⟩] := by decide

theorem witness_CopyIssue_waits : settledFor (tX []) 0 = true ∧ settledFor (tX []) 3 = true ∧
    settledFor (tSlot .rstore (.store 0x400000000 4 0) none) 3 = false ∧
    settledFor ((tX []).mapNi fun n => { n with slots := n.slots.set 3 (some ⟨.rload, ⟨0, 0, 0, 3, .load 16 4⟩, none, true⟩) }) 0 = false ∧
    settledFor (tSlot .rload (.load 0x400000000 4) (some (.nack 1))) 3 = true ∧
    (let s := tCore fun c => { c with locks := .replicate 16 (some ⟨false, 0, 1, 0, 0, 0⟩) };
      s.compute = true ∧ s.core.freeLocks < (copyRanges { CopyDesc.reset with rowlen := 4 }
        (copyOps (.ccopy 0 0 0 false false false 0) 0 16 0)).length ∧
      s.core.freeLocks < (matrixRanges s (.mstrm 0 0 0 false) 0 0x10).length) := by decide

theorem witness_CircularBuffers_wait : (tCp []).core.hnd[1].cfg = true ∧ (tCp []).core.hnd[1].count - (tCp []).core.hnd[1].filled < 2 := by
  decide

/-- The copy of `tCopy` with a piece sent to another package that has ended as `e` says. -/
def tAway (e : Option RowEnd) : State := { tCp [tCopy { CopyDesc.reset with rowlen := 4 } none] with away := [⟨0, none, 0, 0, e⟩] }

theorem witness_CopyEngine_away : (∀ e ∈ ([none, some (.code 6)] : List (Option RowEnd)),
      (match moveRows true { CopyDesc.reset with rowlen := 4 } (some 0) (some 16) none [0] (tAway e) with
        | .done u => u.away == [⟨0, none, 0, 0, e⟩] && u.paired == false && u.core.id == 0 | _ => false) = true) ∧
    (match moveRows true { CopyDesc.reset with rowlen := 4 } (some 0) (some 16) none [0] (tCp []) with
      | .done u => u.away == [] | _ => false) = true ∧
    (tX []).paired = false ∧ (tX []).pairFollower = false ∧
    ({ tGang (fun l => { l with pkt := { tPacket with pair := true } }) with core := { Core.reset 1 with csr := { Csrs.reset with ganginfo := 0xC0000000 } } }).pairFollower = true := by
  decide

theorem witness_MatrixInstructions_waits : settledFor (tX []) 0 = true ∧
    settledFor ((tX []).mapNi fun n => { n with slots := n.slots.set 3 (some ⟨.rload, ⟨0, 0, 0, 3, .load 16 4⟩, none, true⟩) }) 0 = false ∧
    (tSlot .mcmd (.mcmd 0 0 0 0) (some (.nack 3))).core.ni.slot 3 = some ⟨.mcmd, ⟨0, 1, 0, 3, .mcmd 0 0 0 0⟩, some (.nack 3), true⟩ := by
  decide

set_option maxRecDepth 8000 in
theorem witness_TransferEvents_failing :
    (specHeld (tPred .reset) 0x1000 4096 = false ∧
      specHeld { tPred .reset with
        atc := [⟨0, 0, 0, 30, 0, true, false⟩]
        fabric := [⟨1, BitVec.ofNat 21 (0x5000 + sliceOf 0x1000), 0, 3, .readPhys 0 0 0x1000 8⟩] } 0x1000 4096 = true) ∧
    (match farRead 8 0x0080000001000000 0x0080000001040000 4096 (tPred .reset) with
      | .error (.code c u) => c == 2 && u.core.slots == (tPred .reset).core.slots && u.paired == false | _ => false) = true := by decide

/-- The lease unit of `tLease` with a flight on receive lane 322, of bundle 5, which is leased to package 1. -/
def tDraining : State := { tServe 3 with lightIn := [⟨⟨0x8000, 0, 0, 0, .load 0 4⟩, some 322, 1⟩] }

theorem witness_BandwidthLeases_answers :
    (tDraining.lightIn.any fun x => x.lane.map (· / 64) == some 5) = true ∧
    ((tLease []).lightIn.any fun x => x.lane.map (· / 64) == some 5) = false ∧
    (let s := { tLease [] with lease := { (tLease []).lease with pending := List.replicate 64 ⟨1, 0, 0, 0, 1, false, 0⟩ } };
      64 ≤ s.lease.pending.length) ∧
    (budgetOf (tLease []) 0 - grantedTo (tLease []).lease 0 = 4 ∧ budgetOf (tLease []) 1 - grantedTo (tLease []).lease 1 = 0) ∧
    (bundleAt { (tLit 2).lease with bundles := [⟨5, 2, 1, 0, 0, 0, 0, 0, 56, 56⟩] } 5).rxlive ≤ 56 ∧
    (bundleAt { (tLit 2).lease with bundles := [⟨5, 4, 1, 0, 0, 0, 0, 0, 56, 56⟩] } 5).state = 4 ∧
    ((tDraining.lease.raising.any fun q => q.2.contains 5) = false ∧ chosen (tLease []).lease 5 = false ∧
      ({ (tServe 3).lease with raising := [(1, [5])] }.raising.any fun q => q.2.contains 5) = true) := by decide

theorem witness_PhaseEvents_more : (launchesRun (tGang id) = true ∧ launchesRun ((tGang id).mapQuartz fun q => { q with fatal := true }) = false) ∧
    (planAway (tGang id) 9 = false ∧ planAway { tGang id with away := [⟨0x4800, some 9, 0, 0, none⟩] } 9 = true) ∧
    (tLaunch.pkt.rel = false ∧ { tPacket with rel := true }.rel = true) ∧
    ((tGang id).launch? 9).isSome = true ∧
    (tLaunch.members.all fun m => released ((tGang id).focus m) 3) = true ∧
    (let s := tGang (fun l => { l with stage := .closed, pkt := { tPacket with rel := true } });
      let u := s.mapNi fun n => { n with slots := (tSlot .rstore (.store 0x0480000001000000 4 0) none).core.ni.slots };
      (tLaunch.members.all fun m => released (u.focus m) 3) = false) := by decide

theorem witness_FabricRequests_queue : (let s := tFab (.reply .ack) (tSlot .rload (.load 0 4) none);
      (match s.core.ni.slot 3 with | some x => replyComes s x | none => false) = true) ∧
    (match (tSlot .rload (.load 0 4) none).core.ni.slot 3 with | some x => replyComes (tSlot .rload (.load 0 4) none) x | none => true) = false ∧
    ((tMail (.load 0 4)) ∈ (tFab (.load 0 4) (tX [])).fabric ∧
      ((tFab (.load 0 4) (tX [])).fabric.filter fun q => q.src == 1 && q.dst == 0).length ≤ 8) ∧
    ((tX []).blocks = [] ∧ (tX []).walks = []) := by decide

theorem witness_EventWindowRows_windows : (BitVec.ofInt 32 (((tX [(1, 0x800000)]).x 1).toInt + (0x10FC : BitVec 16).toInt) = 0x8010FC) ∧
    (tSteward.kind = .steward ∧ tSteward.unit.id < 1024 ∧ localOf tSteward.core.id = 0x4000 + tSteward.unit.id ∧
      localOf (tSteward.coreAt 5).id = 16 * tSteward.unit.id + 5 ∧ (tSteward.coreAt 5).halt = none) ∧
    (let s := { tSteward with others := [(5, { Core.reset 5 with halt := some 1 })] };
      (s.coreAt 5).halt = some 1 ∧ localOf (s.coreAt 5).id = 5 ∧
      BitVec.ofInt 32 (((s.setX 1 0xC05000).x 1).toInt + (0x104 : BitVec 16).toInt) = BitVec.ofNat 32 (0xC00000 + 0x1000 * 5 + 0x104)) ∧
    (tX []).kind = .compute ∧ (tX []).core.locks[15] = none ∧
    (tCore fun c => { c with locks := c.locks.set 15 (some ⟨true, 1, 2, 3, 0, 0⟩) }).core.locks[15] = some ⟨true, 1, 2, 3, 0, 0⟩ := by decide

theorem witness_QueueEvents_gates : (launchesRun (tX []) = true ∧ launchesRun ((tX []).mapFlint fun f => { f with life := .locked }) = false) ∧
    ((tX []).flint.ckrx.getLsbD 31 = false ∧ ((tX []).mapFlint fun f => { f with ckrx := 0x80000000 }).flint.ckrx.getLsbD 31 = true) ∧
    ((tX []).flint.life ≠ .awaiting ∧ ((tX []).mapFlint fun f => { f with life := .awaiting }).flint.life = .awaiting) := by decide

theorem witness_TenantsAndPreemption_spill : (tPre true).launch = some tPreLaunch ∧
    (assocGet tPreLaunch.parked (localOf (tPre true).core.id)).isSome = true ∧
    (covers 0 0x10 ⟨0, 0, 0, 30, 0, true, false⟩ = true ∧ covers 0 0x40000000 ⟨0, 0, 0, 30, 0, true, false⟩ = false) ∧
    (tPre true).core.csr.ganginfo.getLsbD 30 = false := by decide

/-- A submission in progress of an image that no word names. -/
def tSubmit : State := (tX []).mapFlint fun f => { f with rmbusy := true, rmsub := (4, ⟨64, []⟩) }

theorem witness_SecurityEvents_units : (let s := tSteward.mapQuartz fun q => { q with records := [⟨1, 1, 0, 0, 0, 0, 62, 1, 62, tSteward.now⟩] };
      (s.ftRec ⟨1, 0, 0, 0, 0⟩).isSome = true) ∧ tSubmit.flint.rmbusy = true ∧
    ((tX []).mapFlint fun f => { f with qbusy := true }).flint.life ≠ .decommissioned ∧ (tX []).flint.ckgib.toNat ≤ 1536 := by decide

/-- R427: an image passes or fails by what its words are, so one of the two hypotheses on it holds. -/
theorem witness_SecurityEvents_image : imageFault tSubmit.flint 4 ⟨64, []⟩ = none ∨ ∃ e, imageFault tSubmit.flint 4 ⟨64, []⟩ = some e := by
  cases h : imageFault tSubmit.flint 4 ⟨64, []⟩ with
  | none => exact .inl rfl
  | some e => exact .inr ⟨e, rfl⟩

theorem witness_ResetsAndHost_more : (tX []).quartz.recov = false ∧ ((tX []).mapQuartz fun q => { q with recov := true }).quartz.recov = true ∧
    imagesRefused true (tX []) = false ∧ imagesRefused false (tX []) = true ∧ ¬ 0 ∈ bootSlots ((tX []).mapQuartz fun q => { q with boot := 1 }) ∧
    bootSlots (tX []) ≠ [] ∧ hostServed tSubmit = true ∧
    (let f := { (tX []).flint with ckbusy := true, ckop := 0x40000000 };
      ckImage f = none ∧ f.ckop.getLsbD 30 = true ∧ f.ckop.getLsbD 29 = false ∧ f.ckgib.toNat < 1536) ∧
    (let s := (tX []).mapFlint fun f => { f with
        ckbusy := true, ckgib := 1535, ckop := 0x40000000, ckImages := [⟨none, 0, [], [⟨0, true, 3, 1, .clean, none⟩], .replicate 32 0, 1⟩] };
      (match ckImage s.flint with | some i => i.gens == s.flint.gens && i.cold == 1 | none => false) = true ∧
        ([⟨0, true, 3, 1, .clean, none⟩] : List BlockMeta).Pairwise (fun m n => m.block ≠ n.block) ∧
        staleKeys s ⟨0, true, 3, 1, .clean, none⟩ = false ∧ ckReach s s.flint.ckop = true ∧ ckReach s 0x20000001 = false) ∧
    (let s := (tX []).mapQuartz fun q => { q with boot := 2 };
      s.quartz.boot ≠ 0 ∧ assocGet s.quartz.loaded 0 = none ∧ (tX []).quartz.boot = 0 ∧ bootLoads true (tX []) = [0, 1, 2, 3, 4]) := by decide

theorem witness_ResetsAndHost_walk : (let u := walkSeen 0 0 ((tX []).endpoint 0x7FFF) 0 (tMap [] (tX []));
    (u.block 0).poison = false ∧ u.errAt 0 = .clean) ∧ (tX []).flint.life ≠ .decommissioned := by decide
end Sys2Proof.Machine
end

section
/-!
PROOFS (core state, O8). The end of a single step (R150, R151); the end of an instruction is `retire_ends` of `Laws/Ops.lean`.
-/

namespace Sys2Proof.Machine.CoreState
open Sys2Proof Sys2Proof.Machine

/-! ## The end of a single step (R150, R151) -/

/-- With SDBG.step clear, or on a core that is halted already, no single step ends. -/
theorem settleStep_idle {s : State} (h : s.core.csr.sdbg.getLsbD 0 = false ∨ s.core.halt ≠ none) : settleStep s = s := by
  obtain hs | hh := h
  · exact settleStep_off s hs
  · have hn : s.core.halt.isNone = false := by simpa [Option.isSome_iff_ne_none] using hh
    simp [settleStep, hn]

/-- A single step ends by a wait for the engine command that it launched (R151). -/
theorem settleStep_waits {s : State} (hs : s.core.csr.sdbg.getLsbD 0 = true) (hh : s.core.halt = none)
    (hd : s.core.drains = true) : settleStep s = (s.mapCore fun c => { c with stepDue := true }) := by
  simp [settleStep, hs, hh, hd]

/-- A single step whose engine command is over ends by the halt (R150). -/
theorem settleStep_halts {s : State} (hs : s.core.csr.sdbg.getLsbD 0 = true) (hh : s.core.halt = none)
    (hd : s.core.drains = false) : settleStep s = haltAt 4 s.core.pc s := by
  simp [settleStep, hs, hh, hd]

/-- Where `P` says that the engine command still stands in its queue, the single step waits; otherwise it halts. -/
theorem settleStep_waits_or_halts {s : State} {P : Prop} [Decidable P] (hs : s.core.csr.sdbg.getLsbD 0 = true)
    (hh : s.core.halt = none) (hd : s.core.drains = true ↔ P) :
    if P then settleStep s = (s.mapCore fun c => { c with stepDue := true }) else settleStep s = haltAt 4 s.core.pc s := by
  split
  · next hp => exact settleStep_waits hs hh (hd.2 hp)
  · next hp => exact settleStep_halts hs hh (Bool.eq_false_iff.2 (mt hd.1 hp))

/-- A step that launched no command has nothing to wait for. -/
theorem drains_of_none {c : Core} (h : c.stepCmd = none) : c.drains = false := by simp [Core.drains, h]

/-- The matrix command of the step is waited for while it stands in the core's own part of the queue. -/
theorem drains_matrix {c : Core} {n : BitVec 16} (h : c.stepCmd = some (0, n)) :
    c.drains = true ↔ ∃ q ∈ c.mx.queue, q.remote = false ∧ q.seq = n := by simp [Core.drains, h]

/-- The copy command of the step is waited for while it stands in the queue. -/
theorem drains_copy {c : Core} {n : BitVec 16} (h : c.stepCmd = some (1, n)) :
    c.drains = true ↔ ∃ q ∈ c.cp.queue, q.seq = n := by simp [Core.drains, h]

/-- The vector loop of the step is waited for while it stands in the sequencer. -/
theorem drains_loop {c : Core} {n : BitVec 16} (h : c.stepCmd = some (3, n)) :
    c.drains = true ↔ ∃ q ∈ c.seqs, q.seq = n := by simp [Core.drains, h]

/-- Settles O8: the end of a single step by the engine of its command, and the end of an instruction by `retire_ends` and
`retireTo_ends`. -/
theorem instructionEnd : Obligations.InstructionEnd := by
  unfold Obligations.InstructionEnd
  refine ⟨fun s h => settleStep_idle h, fun s hs hh => ?_, retire_ends, retireTo_ends⟩
  refine ⟨fun h => ?_, fun n => ⟨fun h => ?_, fun h => ?_, fun h => ?_⟩⟩
  · exact settleStep_halts hs hh (drains_of_none h)
  · exact settleStep_waits_or_halts hs hh (drains_matrix h)
  · exact settleStep_waits_or_halts hs hh (drains_copy h)
  · exact settleStep_waits_or_halts hs hh (drains_loop h)
end Sys2Proof.Machine.CoreState
end

section
/-!
PROOFS (core state, O17 and O32). The next element of a stream and the f operands (R28, R54, R112, R195, R196), and the entry of a
point (R30, R31, R158).
-/

namespace Sys2Proof.Machine.CoreState
open Sys2Proof Sys2Proof.Machine

/-! ## Streams and the f operands (R28, R112, R196) -/

/-- A stream acts on compute cores in user mode outside the handler, and there are six of them. -/
theorem streamOn_eq_false {s : State} {r : Reg}
    (h : s.core.csr.ustatus.getLsbD 2 = true ∨ s.core.mode = .supervisor ∨ 6 ≤ r.toNat) : s.streamOn r = false := by
  obtain h | h | h := h
  · have hh : s.inHandler = true := h
    simp only [State.streamOn, hh, Bool.not_true, Bool.and_false, Bool.false_and]
  · have hu : s.inUser = false := by rw [State.inUser, h]; rfl
    simp only [State.streamOn, hu, Bool.and_false, Bool.false_and]
  · simp [State.streamOn, Vector.getElem?_eq_none h]

/-- The bytes of W0 begin every local address map. -/
theorem area_of_lt_w0 {s : State} {a : Nat} (h : a < 0x40000) : s.area a = .w0 := by
  cases hk : s.kind
  case compute => simp [State.area, hk, areaCompute, h]
  case steward => simp [State.area, hk, areaSteward, h]
  case memory => simp [State.area, hk, areaMemory, h]

/-- A stream of the other direction gives code 3 (R196). -/
theorem nextElement_direction {s : State} {r : Reg} {store : Bool} (e : Bool) (h : (s.stream r).snap.write = !store) :
    nextElement s r e store = .error ⟨r, 3, none⟩ := by
  cases store <;> simp [nextElement, h]

/-- A stream at its end gives code 2 (R196). -/
theorem nextElement_ended {s : State} {r : Reg} {store : Bool} (e : Bool) (h : (s.stream r).snap.write = store)
    (hp : (s.stream r).snap.total ≤ (s.stream r).pos) : nextElement s r e store = .error ⟨r, 2, none⟩ := by
  simp [nextElement, h, hp]

/-- The next element of a stream in W0 that passes the checks of R182 is at its affine address (R195). -/
theorem nextElement_w0 {s : State} {r : Reg} {store : Bool} (e : Bool) (h : (s.stream r).snap.write = store)
    (hi : (s.stream r).snap.indirect = false) (hp : (s.stream r).pos < (s.stream r).snap.total)
    (ha : ((s.stream r).snap.affine (s.stream r).pos).toNat < 0x40000)
    (hc : checkAccess s ((s.stream r).snap.affine (s.stream r).pos).toNat ⟨4, store, false⟩ = none) :
    nextElement s r e store = .ok ((s.stream r).snap.affine (s.stream r).pos) := by
  simp [nextElement, elementAddr, h, hi, Nat.not_le.2 hp, area_of_lt_w0 ha, hc]

/-- A read of a W0 address by a stream of W0 is the word there. -/
theorem streamLoad_w0 {s : State} {base a : Nat} (hb : base < 0x40000) (ha : a < 0x40000) :
    streamLoad s base a = s.core.w0Word a := by
  simp [streamLoad, area_of_lt_w0 hb, area_of_lt_w0 ha, loadData, Core.w0Word]

/-- A write of a W0 address by a stream of W0 stores the word there. -/
theorem streamStore_w0 {s : State} {base a : Nat} (v : Word) (hb : base < 0x40000) (ha : a < 0x40000) :
    streamStore base a v s = s.w0Write a 4 v.toNat := by
  simp [streamStore, area_of_lt_w0 hb, area_of_lt_w0 ha, storeData]

/-- Without an acting stream the operand is the kept register. -/
theorem takeF_kept {s : State} {r : Reg} (e : Bool) (h : s.streamOn r = false) : takeF e r s = .ok (s.f r, s) := by
  simp [takeF, h]

/-- Without an acting stream the result goes to the kept register. -/
theorem putF_kept {s : State} {r : Reg} (e : Bool) (v : Word) (h : s.streamOn r = false) :
    putF e r v s = .ok (s.setF r v) := by
  simp [putF, h]

/-- A fault of the next element is the fault of the read. -/
theorem takeF_error {s : State} {r : Reg} {e : Bool} {x : SFault} (h : s.streamOn r = true)
    (hn : nextElement s r e false = .error x) : takeF e r s = .error x := by
  simp [takeF, h, hn]

/-- A fault of the next element is the fault of the write. -/
theorem putF_error {s : State} {r : Reg} {e : Bool} {x : SFault} (v : Word) (h : s.streamOn r = true)
    (hn : nextElement s r e true = .error x) : putF e r v s = .error x := by
  simp [putF, h, hn]

/-- A read takes the next element and moves the stream on. -/
theorem takeF_element {s : State} {r : Reg} {e : Bool} {a : Word} (h : s.streamOn r = true)
    (hn : nextElement s r e false = .ok a) :
    takeF e r s = .ok (streamLoad s (s.stream r).snap.base.toNat a.toNat,
      s.mapStream r fun t => { t with pos := t.pos + 1 }) := by
  simp [takeF, h, hn]

/-- A write stores the next element, is signed, and moves the stream on. -/
theorem putF_element {s : State} {r : Reg} {e : Bool} {a : Word} (v : Word) (h : s.streamOn r = true)
    (hn : nextElement s r e true = .ok a) :
    putF e r v s = .ok (((streamStore (s.stream r).snap.base.toNat a.toNat v s).sign
      (bytesOf 4 a.toNat ++ bytesOf 4 v.toNat)).mapStream r fun t => { t with pos := t.pos + 1 }) := by
  simp [putF, h, hn]

/-! ## The rounding field (R54) -/

/-- A rounding field of 7 names a reserved mode while FCSR.rm is above 4. -/
theorem roundingOk_reserved {s : State} (h : 4 < s.core.csr.fcsr.toNat % 8) : s.roundingOk 7 = false := by
  have hf : 4 < s.frm := by
    rw [BitVec.lt_def]
    simpa [State.frm] using h
  simpa [State.roundingOk] using hf

/-- An instruction whose rounding field names a reserved mode is illegal. -/
theorem performR_reserved {s : State} (i : Instr) (rs : List Reg) (e : FEffect) (h : 4 < s.core.csr.fcsr.toNat % 8) :
    performR i 7 rs e s = .next (raise 2 (wordOf i) s) := by
  simp only [performR, performF, roundingOk_reserved h]
  exact perform_illegal i _ s

/-- Every instruction with a rounding field of 7 runs under the check of that field. -/
theorem exec_dynamic_rounding (s : State) (d a b c : Reg) :
    ∀ i ∈ ([.fadd d a b 7, .fsub d a b 7, .fmul d a b 7, .fdiv d a b 7, .fsqrt d a 7, .fma d a b c 7, .fms d a b c 7,
        .fnma d a b c 7, .fnms d a b c 7, .fcvtWS d a 7, .fcvtWuS d a 7, .fcvtSW d a 7, .fcvtSWu d a 7, .fcvtBhS d a 7,
        .fcvtHhS d a 7, .fexp2 d a 7, .flog2 d a 7, .frcp d a 7, .frsq d a 7, .ftanh d a 7, .fsigm d a 7, .hadd2 d a b 7,
        .hmul2 d a b 7, .hfma2 d a b 7] : List Instr),
      ∃ rs e, exec i s = performR i 7 rs e s := by
  simp only [List.forall_mem_cons, List.not_mem_nil, false_implies, implies_true, and_true]
  refine ⟨?_, ?_, ?_, ?_, ?_, ?_, ?_, ?_, ?_,
    ⟨[a], fun _ rm fz => fx1 d a fun x => fToInt rm fz true x.toNat, rfl⟩,
    ⟨[a], fun _ rm fz => fx1 d a fun x => fToInt rm fz false x.toNat, rfl⟩,
    ⟨[d], fun _ rm fz => xf1 d a fun x => asWord (fFromInt rm fz x.toInt), rfl⟩,
    ⟨[d], fun _ rm fz => xf1 d a fun x => asWord (fFromInt rm fz x.toNat), rfl⟩,
    ?_, ?_, ?_, ?_, ?_, ?_, ?_, ?_, ?_, ?_, ?_⟩
  all_goals exact ⟨_, _, rfl⟩

/-- Settles O17: the f operands by the next element of their stream, and the reserved modes by `performR_reserved`. -/
theorem fpOperandForms : Obligations.FpOperandForms := by
  unfold Obligations.FpOperandForms
  refine ⟨fun s r e h => takeF_kept e h, fun s r e v h => putF_kept e v h, fun s r h => streamOn_eq_false h,
    fun s r e h hd => takeF_error h (nextElement_direction e hd),
    fun s r e h hd hp => takeF_error h (nextElement_ended e hd hp),
    fun s r e v h hd => putF_error v h (nextElement_direction e hd),
    fun s r e v h hd hp => putF_error v h (nextElement_ended e hd hp), ?_, ?_, ?_⟩
  · rintro s r e _ h hd hi hp hb rfl ha hc
    rw [takeF_element h (nextElement_w0 e hd hi hp ha hc), streamLoad_w0 hb ha]
  · rintro s r v e _ h hd hi hp hb rfl ha hc
    rw [putF_element v h (nextElement_w0 e hd hi hp ha hc), streamStore_w0 v hb ha]
  · intro s d a b c h i hi
    obtain ⟨rs, e, he⟩ := exec_dynamic_rounding s d a b c i hi
    exact he.trans (performR_reserved i rs e h)

/-! ## The entry of a point (R30, R31, R158) -/

/-- A core with a next line that is no pair's enters its point, and nothing else of the package changes. -/
theorem exec_pointDispatch {s : State} {l : Launch} {x : Nat} (hf : s.quartz.fatal = false)
    (hn : nextLine s = some (l, x)) (hp : l.pkt.pair = false) :
    exec .pointDispatch s = .next (s.mapCore (enterPoint l x)) := by
  have hd : dispatch s = s.mapCore (enterPoint l x) := by simp [dispatch, hn, hp]
  exact congrArg Host.Outcome.next ((if_neg (by simp [hf])).trans hd)

/-- The x registers of R31. -/
theorem entryX_get (c : Core) (co : List Nat) (r : Reg) :
    (entryX c co)[r.toNat]'r.isLt =
      if r.toNat = 2 then BitVec.ofNat 32 (c.jbase * 4096)
      else if 10 ≤ r.toNat ∧ r.toNat < 14 then BitVec.ofNat 32 ((co[r.toNat - 10]?).getD 0) else 0 := by
  simp [entryX]

/-- An x register at the entry of a point, x0 among those that read zero. -/
theorem enterPoint_x (l : Launch) (x : Nat) (s : State) (r : Reg) :
    (s.mapCore (enterPoint l x)).x r =
      if r.toNat = 2 then BitVec.ofNat 32 (s.core.jbase * 4096)
      else if 10 ≤ r.toNat ∧ r.toNat < 14 then BitVec.ofNat 32 (((l.coords x)[r.toNat - 10]?).getD 0) else 0 := by
  by_cases h : r = 0
  · subst h; rfl
  · exact (if_neg h).trans (entryX_get s.core (l.coords x) r)

/-- No stream is mapped at the entry of a point (R30, R195). -/
theorem enterPoint_stream_mapped (l : Launch) (x : Nat) (s : State) (r : Reg) :
    ((s.mapCore (enterPoint l x)).stream r).mapped = false := by
  by_cases h : r.toNat < 6
  · simp [State.stream, enterPoint, vmap, h]
  · simp [State.stream, Vector.getElem?_eq_none (Nat.le_of_not_lt h), Stream.reset]

/-- Settles O32: the dispatch of a point is `enterPoint` on the core in focus, read field by field. -/
theorem pointEntry : Obligations.PointEntry := by
  unfold Obligations.PointEntry
  intro s l x hf hn hp
  refine ⟨_, exec_pointDispatch hf hn hp, rfl, rfl, rfl, rfl, rfl, enterPoint_x l x s 2, fun r h1 h2 => ?_,
    fun r h1 h2 => ?_, fun r => ⟨?_, enterPoint_stream_mapped l x s r⟩, fun i => ?_, rfl, rfl, rfl, rfl⟩
  · rw [enterPoint_x, if_neg (by omega), if_pos ⟨h1, h2⟩]
  · rw [enterPoint_x, if_neg h1, if_neg (by omega)]
  · simp [State.f, enterPoint]
  · simp [enterPoint]
end Sys2Proof.Machine.CoreState
end

section
/-!
PROOFS (core state, for O56). The launches and the lease tickets: one lemma for each operation that leaves both alone, and what a kill
and the end of a tenant's leases take from them (R356, R393, R411).
-/

namespace Sys2Proof.Machine.CoreState
open Sys2Proof Sys2Proof.Machine

/-! ## What a fold keeps -/

/-- A fold keeps what every step of it keeps. -/
theorem foldl_keeps {σ α β : Type} {g : σ → β} {f : σ → α → σ} (h : ∀ t a, g (f t a) = g t) (l : List α) (s : σ) :
    g (l.foldl f s) = g s :=
  l.foldlRecOn f (motive := fun t => g t = g s) rfl fun t ht a _ => (h t a).trans ht

/-! ## The launches and the lease tickets, which most operations leave alone -/

/-- The launches of the package and the tickets of its lease unit. -/
def roster (s : State) : List Launch × List Ticket := (s.launches, s.lease.tickets)

theorem launches_of_roster {s t : State} (h : roster s = roster t) : s.launches = t.launches := congrArg Prod.fst h

theorem tickets_of_roster {s t : State} (h : roster s = roster t) : s.lease.tickets = t.lease.tickets := congrArg Prod.snd h

/-- A fold whose steps keep the roster keeps it. -/
theorem roster_foldl {α : Type} {f : State → α → State} (h : ∀ t a, roster (f t a) = roster t) (l : List α) (s : State) :
    roster (l.foldl f s) = roster s := foldl_keeps h l s

theorem roster_setPin (s : State) (p : Packet) (rlx : Bool) (n : Nat) : roster (s.setPin p rlx n) = roster s := rfl

/-- The choice of a lane changes the pins alone. -/
theorem roster_pin (s : State) (before : List Flight) (p : Packet) : roster (s.pin before p).2 = roster s := by
  unfold State.pin
  split
  · rfl
  · next rlx _ =>
    dsimp only
    split
    · split <;> rfl
    · split
      · rfl
      · split
        · rfl
        · exact roster_setPin s p rlx _

@[simp] theorem roster_send (s : State) (p : Packet) : roster (s.send p) = roster s := by
  unfold State.send
  split
  · rfl
  · exact roster_pin s s.lightOut p

@[simp] theorem roster_answer (s : State) (p : Packet) (r : Reply) : roster (s.answer p r) = roster s :=
  roster_send s _

@[simp] theorem roster_sendLease (p : Nat) (t : BitVec 5) (b : Body) (s : State) : roster (sendLease p t b s) = roster s :=
  roster_send s _

@[simp] theorem roster_mapCore (s : State) (f : Core → Core) : roster (s.mapCore f) = roster s := rfl

@[simp] theorem roster_mapNi (s : State) (f : NetIf → NetIf) : roster (s.mapNi f) = roster s := rfl

@[simp] theorem roster_mapFn (s : State) (t : Nat) (f : HostFn → HostFn) : roster (s.mapFn t f) = roster s := rfl

@[simp] theorem roster_draw (s : State) : roster s.draw = roster s := rfl

@[simp] theorem roster_mapFlint (s : State) (f : Flint → Flint) : roster (s.mapFlint f) = roster s := rfl

@[simp] theorem roster_mapQuartz (s : State) (f : Quartz → Quartz) : roster (s.mapQuartz f) = roster s := rfl

@[simp] theorem roster_focusUnit (s : State) (k : Nat) : roster (s.focusUnit k) = roster s := by
  unfold State.focusUnit; split <;> rfl

@[simp] theorem roster_focus (s : State) (l : Nat) : roster (s.focus l) = roster s := by
  unfold State.focus
  split
  · rfl
  · dsimp only
    split
    · rfl
    · exact roster_focusUnit _ _

theorem roster_setUnitAt (s : State) (k : Nat) (u : Cluster) : roster (s.setUnitAt k u) = roster s := by
  unfold State.setUnitAt; split <;> rfl

/-- Work on a list of cores in turn keeps what the work on one keeps. -/
theorem roster_onCores {f : State → State} (h : ∀ t, roster (f t) = roster t) (s : State) (ls : List Nat) :
    roster (s.onCores ls f) = roster s :=
  roster_foldl (fun t l => by simp [State.at, h]) ls s

@[simp] theorem roster_onUnits (s : State) (ks : List Nat) (f : Cluster → Cluster) : roster (s.onUnits ks f) = roster s :=
  roster_foldl (fun t k => roster_setUnitAt t k _) ks s

@[simp] theorem roster_refuseWaiters (l : Launch) (c : Core) (s : State) : roster (refuseWaiters l c s) = roster s :=
  roster_foldl (fun t w => by
    split
    · rfl
    · split
      · rfl
      · exact roster_send t _) _ s

@[simp] theorem roster_refuseHeld (l : Launch) (s : State) : roster (refuseHeld l s) = roster s :=
  (roster_mapNi _ _).trans (roster_foldl (fun t h => by
    split
    · exact roster_answer t _ _
    · rfl) _ s)

@[simp] theorem roster_dropHeld (s : State) : roster (dropHeld s) = roster s :=
  (roster_mapNi _ _).trans (roster_foldl (fun t h => by
    split
    · exact roster_answer t _ _
    · rfl) _ s)

@[simp] theorem roster_dropTraffic (l : Launch) (s : State) : roster (dropTraffic l s) = roster s := rfl

@[simp] theorem roster_abandonGang (l : Launch) (s : State) : roster (abandonGang l s) = roster s := by
  rw [abandonGang, roster_dropTraffic, roster_onUnits]
  exact roster_onCores (fun t => by simp) s _

@[simp] theorem roster_freeClusters (l : Launch) (s : State) : roster (freeClusters l s) = roster s :=
  roster_onUnits s _ _

@[simp] theorem roster_unbind (l : Launch) (s : State) : roster (unbind l s) = roster s := by
  unfold unbind; split <;> rfl

@[simp] theorem roster_mapQueue (s : State) (t q : Nat) (f : Queue → Queue) : roster (s.mapQueue t q f) = roster s := rfl

theorem roster_raiseMsix (s : State) (t v : Nat) : roster (s.raiseMsix t v) = roster s := by
  unfold State.raiseMsix
  dsimp only
  split
  · rfl
  · split <;> rfl

@[simp] theorem roster_logError (s : State) (c : ErrClass) (t : Nat) : roster (s.logError c t) = roster s := by
  cases c
  · exact roster_raiseMsix _ _ _
  · exact roster_raiseMsix _ _ _
  · rfl

/-! ## A kill ends the launches of its identifier (R356, R411) -/

/-- What names a launch: its identifier and its function. -/
def launchNames (s : State) : List (Word × BitVec 5) := s.launches.map fun l => (l.id, l.fn)

/-- Eligibility changes no launch's name. -/
theorem launchNames_settleEligible (s : State) : launchNames (settleEligible s) = launchNames s := by
  simp only [launchNames, settleEligible, List.map_map]
  refine List.map_congr_left fun l _ => ?_
  simp only [Function.comp_apply]
  split <;> rfl

theorem launchNames_dropLaunch (s : State) (id : Word) :
    launchNames (s.dropLaunch id) = (launchNames s).filter fun k => k.1 != id := by
  rw [State.dropLaunch, launchNames_settleEligible]
  simp only [launchNames, List.filter_map]
  rfl

theorem launchNames_of_roster {s t : State} (h : roster s = roster t) : launchNames s = launchNames t :=
  congrArg (List.map fun l : Launch => (l.id, l.fn)) (launches_of_roster h)

/-- What a kill does before its launch is dropped: its backlog is refused, and the gang abandons its work, or the takes that wait at
its saved cores are refused. -/
def gangEnded (l : Launch) (s : State) : State :=
  let u := l.backlog.foldl (fun t p => t.answer p (.nack 1)) (unbind l s)
  if l.stage = .saved then l.parked.foldl (fun t e => refuseWaiters l e.2 t) u
  else freeClusters l ((abandonGang l u).onCores l.members dropHeld)

theorem roster_gangEnded (l : Launch) (s : State) : roster (gangEnded l s) = roster s := by
  have hu : roster (l.backlog.foldl (fun t p => t.answer p (.nack 1)) (unbind l s)) = roster s :=
    (roster_foldl (fun t p => roster_answer t p _) _ _).trans (roster_unbind l s)
  unfold gangEnded
  dsimp only
  split
  · rw [roster_foldl fun t (e : Nat × Core) => roster_refuseWaiters l e.2 t, hu]
  · rw [roster_freeClusters, roster_onCores roster_dropHeld, roster_abandonGang, hu]

/-- What follows the drop of a killed launch, its queue's mark and the logged error, keeps the roster. -/
theorem roster_kill {s : State} {id : Word} {l : Launch} (h : s.launch? id = some l) :
    roster (s.kill id) = roster ((gangEnded l s).dropLaunch id) := by
  rw [State.kill, h]
  exact (roster_logError _ _ _).trans (roster_mapQueue _ _ _ _)

theorem launchNames_kill (s : State) (id : Word) : launchNames (s.kill id) = (launchNames s).filter fun k => k.1 != id := by
  cases h : s.launch? id with
  | none =>
    have hk : ∀ k ∈ launchNames s, (k.1 != id) = true := by
      simpa [launchNames, State.launch?] using h
    rw [List.filter_eq_self.2 hk, State.kill, h]
  | some l =>
    rw [launchNames_of_roster (roster_kill h), launchNames_dropLaunch, launchNames_of_roster (roster_gangEnded l s)]

/-- A launch that several kills leave has a name that was there before, with an identifier that none of them has. -/
theorem mem_launchNames_kills {ids : List Word} {s : State} {k : Word × BitVec 5}
    (h : k ∈ launchNames (ids.foldl (fun u id => u.kill id) s)) :
    k ∈ launchNames s ∧ k.1 ∉ ids := by
  induction ids generalizing s with
  | nil => exact ⟨h, List.not_mem_nil⟩
  | cons id ids ih =>
    obtain ⟨hk, hn⟩ := ih h
    rw [launchNames_kill, List.mem_filter] at hk
    exact ⟨hk.1, List.not_mem_cons_of_ne_of_not_mem (by simpa using hk.2) hn⟩

/-! ## The end of a tenant's leases (R393) -/

theorem tickets_mapBundle (b : Nat) (f : Bundle → Bundle) (u : LeaseUnit) : (mapBundle b f u).tickets = u.tickets := rfl

theorem roster_sendNotices (old : LeaseUnit) (l : List Nat) (s : State) : roster (sendNotices old l s) = roster s :=
  roster_foldl (fun t b => by
    dsimp only
    split
    · exact roster_sendLease _ _ _ t
    · rfl) l s

/-- The end of grants turns bundles and sends notices. -/
theorem roster_endGrants (f : Bundle → Bool) (s : State) : roster (endGrants f s) = roster s := by
  rw [endGrants, roster_sendNotices]
  exact congrArg (Prod.mk s.launches) (foldl_keeps (g := LeaseUnit.tickets) (fun u b => tickets_mapBundle b _ u) _ s.lease)

/-- A ticket that is released whole leaves the table, and nothing else of the roster changes. -/
theorem roster_releaseBundles_entire (k : Ticket) (n : Nat) (s : State) :
    roster (releaseBundles k n true s) =
      roster (s.mapLease fun u => { u with tickets := u.tickets.filter fun q => !(q.tenant == k.tenant && q.idx == k.idx) }) := by
  unfold releaseBundles
  dsimp only
  split
  · rfl
  · exact (roster_sendLease _ _ _ _).trans rfl

theorem launches_releaseBundles (k : Ticket) (n : Nat) (s : State) : (releaseBundles k n true s).launches = s.launches :=
  (launches_of_roster (roster_releaseBundles_entire k n s)).trans rfl

theorem mem_tickets_releaseBundles_entire {k q : Ticket} {n : Nat} {s : State} :
    q ∈ (releaseBundles k n true s).lease.tickets ↔ q ∈ s.lease.tickets ∧ ¬ (q.tenant = k.tenant ∧ q.idx = k.idx) := by
  rw [tickets_of_roster (roster_releaseBundles_entire k n s)]
  refine List.mem_filter.trans (and_congr_right fun _ => ?_)
  rw [Bool.not_eq_true', ← Bool.not_eq_true, Bool.and_eq_true, beq_iff_eq, beq_iff_eq]

/-- The release of a list of tickets keeps the launches, and leaves tickets that were there and are none of the list. -/
theorem releases_entire (held : List Ticket) (s : State) :
    (held.foldl (fun u k => releaseBundles k k.granted.length true u) s).launches = s.launches ∧
    ∀ q ∈ (held.foldl (fun u k => releaseBundles k k.granted.length true u) s).lease.tickets,
      q ∈ s.lease.tickets ∧ q ∉ held := by
  induction held generalizing s with
  | nil => exact ⟨rfl, fun q hq => ⟨hq, List.not_mem_nil⟩⟩
  | cons k held ih =>
    obtain ⟨il, it⟩ := ih (releaseBundles k k.granted.length true s)
    refine ⟨il.trans (launches_releaseBundles k _ s), fun q hq => ?_⟩
    obtain ⟨hm, hn⟩ := it q hq
    obtain ⟨hm, hk⟩ := mem_tickets_releaseBundles_entire.1 hm
    exact ⟨hm, List.not_mem_cons_of_ne_of_not_mem (by rintro rfl; exact hk ⟨rfl, rfl⟩) hn⟩

/-- The end of a tenant's leases keeps the launches and leaves no ticket of the tenant. -/
theorem endTenantLeases_roster (t : BitVec 5) (s : State) :
    (endTenantLeases t s).launches = s.launches ∧ ∀ k ∈ (endTenantLeases t s).lease.tickets, k.tenant ≠ t := by
  obtain ⟨hl, ht⟩ := releases_entire (s.lease.tickets.filter fun k => k.tenant == t) s
  refine ⟨(launches_of_roster (roster_endGrants _ _)).trans hl, fun k hk he => ?_⟩
  rw [endTenantLeases, tickets_of_roster (roster_endGrants _ _)] at hk
  obtain ⟨hm, hn⟩ := ht k hk
  exact hn (List.mem_filter.2 ⟨hm, by simpa using he⟩)

end Sys2Proof.Machine.CoreState
end

section
/-!
PROOFS (core state, O56). What reset leaves, and what the resets, the boot and a configuration request complete with (R421, R434,
R435).
-/

namespace Sys2Proof.Machine.CoreState
open Sys2Proof Sys2Proof.Machine

/-! ## The function-level reset (R421, R434) -/

/-- An association list reads at a key what was put there. -/
theorem assocGet_assocSet_same {α : Type} (l : List (Nat × α)) (k : Nat) (a : α) : assocGet (assocSet l k a) k = some a := by
  induction l with
  | nil => simp [assocSet, assocGet]
  | cons e l ih =>
    obtain ⟨j, b⟩ := e
    simp only [assocSet]
    split
    · simp [assocGet]
    · split
      · simp [assocGet]
      · next h => simpa [assocGet, h] using ih

theorem fn_mapQuartz (s : State) (f : Quartz → Quartz) (t : Nat) : (s.mapQuartz f).fn t = s.fn t := rfl

/-- A changed host function reads as its change. -/
theorem fn_mapFn_same (s : State) (t : Nat) (f : HostFn → HostFn) : (s.mapFn t f).fn t = f (s.fn t) := by
  simp [State.fn, State.mapFn, assocGet_assocSet_same]

theorem functionReset_fn (t : BitVec 5) (s : State) : (functionReset t s).fn t.toNat = .reset := by
  unfold functionReset
  exact (fn_mapQuartz _ _ _).trans (fn_mapFn_same _ t.toNat fun _ => .reset)

/-- The state whose leases the reset of a function ends: its launches are killed, and its clusters wait for their preparation. -/
def functionKilled (t : BitVec 5) (s : State) : State :=
  let u := ((s.launches.filter fun l => l.fn == t).map fun l => l.id).foldl (fun u id => u.kill id) s
  u.onUnits (clustersOf u t.toNat) fun u => { u with ownBusy := true }

theorem functionReset_roster (t : BitVec 5) (s : State) :
    roster (functionReset t s) = roster (endTenantLeases t (functionKilled t s)) := by
  unfold functionReset
  exact (roster_mapQuartz _ _).trans ((roster_mapFn _ _ _).trans ((roster_mapFlint _ _).trans (roster_draw _)))

/-- No launch of the function is left (R421). -/
theorem functionReset_launches {t : BitVec 5} {s : State} : ∀ l ∈ (functionReset t s).launches, l.fn ≠ t := by
  intro l hl he
  rw [launches_of_roster (functionReset_roster t s), (endTenantLeases_roster t _).1] at hl
  have hk : (l.id, l.fn) ∈ launchNames (functionKilled t s) := List.mem_map.2 ⟨l, hl, rfl⟩
  rw [functionKilled, launchNames_of_roster (roster_onUnits _ _ _)] at hk
  obtain ⟨hm, hn⟩ := mem_launchNames_kills hk
  obtain ⟨m, hm, hme⟩ := List.mem_map.1 hm
  obtain ⟨hi, hf⟩ := Prod.mk.inj hme
  exact hn (List.mem_map.2 ⟨m, List.mem_filter.2 ⟨hm, by simp [hf, he]⟩, hi⟩)

/-- No ticket of the function's tenant is left (R393). -/
theorem functionReset_tickets {t : BitVec 5} {s : State} : ∀ k ∈ (functionReset t s).lease.tickets, k.tenant ≠ t := by
  rw [tickets_of_roster (functionReset_roster t s)]
  exact (endTenantLeases_roster t _).2

/-! ## The boot (R435) -/

/-- What a boot step keeps: the core in focus, HBM, and the state that the host sees of the boot. -/
def bootView (s : State) : Core × Memory × Bool × Bool := (s.core, s.hbm, s.quartz.ready, s.quartz.recov)

/-- The load of firmware images is seen in none of these. -/
theorem bootView_loads (l : List Nat) (s : State) : bootView (l.foldl loadFirmware s) = bootView s :=
  foldl_keeps (g := bootView) (f := loadFirmware) (fun _ _ => rfl) l s

/-- The boot ends ready, or held in recovery where an image is refused; the core in focus and HBM stay. -/
theorem exec_boot (ok : Bool) {s : State} (hr : s.quartz.ready = false) (hv : s.quartz.recov = false)
    (ho : s.quartz.off = false) :
    ∃ r : State, exec (.boot ok) s = .next r ∧ r.quartz.ready = (!imagesRefused ok s) ∧
      r.quartz.recov = imagesRefused ok s ∧ r.core = s.core ∧ r.hbm = s.hbm := by
  refine ⟨_, rfl, ?_⟩
  simp only [hr, hv, ho, Bool.or_false, Bool.false_eq_true, if_false]
  cases hi : imagesRefused ok s with
  | true =>
    have hb := bootView_loads (bootLoads ok s) s.draw
    simp only [bootView, Prod.mk.injEq] at hb
    obtain ⟨hc, hm, hy, -⟩ := hb
    exact ⟨hy.trans hr, rfl, hc, hm⟩
  | false =>
    have hb := bootView_loads (bootSlots s) s
    simp only [bootView, Prod.mk.injEq] at hb
    obtain ⟨hc, hm, -, hz⟩ := hb
    exact ⟨rfl, hz.trans hv, hc, hm⟩

/-! ## The state after reset, and the resets of the package (R434) -/

theorem reset_canonical : State.reset.canonical := by
  refine ⟨Core.reset_canonical 0, ?_, Cluster.reset_canonical 0, ?_, rfl, ?_, rfl, ?_⟩ <;> intro e he <;> cases he

theorem reset_queue_disabled (t : Nat) {q : Nat} (h : q < 16) : (State.reset.queue t q).en = false := by
  simp [State.queue, State.fn, State.reset, assocGet, HostFn.reset, h, Queue.reset]

/-- FRST.warm of the physical function is a warm reset, where the device serves the host (R404, R432). -/
theorem exec_frstWarm_zero {s : State} (h : hostServed s = true) : exec (.frstWarm 0) s = .next (warmReset s) :=
  congrArg Host.Outcome.next (if_pos h)

/-- FRST.warm is ignored on virtual functions (R432). -/
theorem exec_frstWarm_virtual {s : State} {t : BitVec 5} (h : t ≠ 0) : exec (.frstWarm t) s = .next s := by
  have ht : frstStore t.toNat 1 s = s := if_neg fun hc => h (BitVec.eq_of_toNat_eq hc.1)
  refine congrArg Host.Outcome.next ?_
  dsimp only
  rw [ht, ite_self]

/-- The function-level reset of a virtual function (R434). -/
theorem exec_functionLevelReset {s : State} {t : BitVec 5} (h : t ≠ 0) :
    exec (.vfFunctionLevelReset t) s = .next (functionReset t s) :=
  congrArg Host.Outcome.next (if_neg h)

/-- Settles O56: the fields of `State.reset`, then each reset, the boot and the configuration request by what it completes with. -/
theorem resetState : Obligations.ResetState := by
  unfold Obligations.ResetState
  refine ⟨reset_canonical, rfl, rfl, rfl, rfl, rfl, rfl, rfl, rfl, rfl, rfl, rfl, fun i => ?_, fun j => ?_, fun i => ?_,
    rfl, rfl, rfl, rfl, rfl, rfl, rfl, rfl, rfl, rfl, rfl, fun t q h => reset_queue_disabled t h, fun s => ?_⟩
  · simp [State.reset, Core.reset, remapReset]
  · simp [State.reset, Core.reset, poolReset]
  · simp [State.reset, Core.reset, Envelope.reset, Handle.reset, PredSlot.reset]
  intro fresh kept
  have hw : fresh (warmReset s) ∧ kept (warmReset s) :=
    ⟨⟨rfl, rfl, rfl, rfl, rfl, rfl⟩, rfl, rfl, rfl, rfl, rfl, rfl, rfl, rfl⟩
  refine ⟨⟨coldReset s, rfl, ⟨rfl, rfl, rfl, rfl, rfl, rfl⟩, rfl, rfl, rfl, rfl, rfl⟩, ⟨warmReset s, rfl, hw⟩,
    fun h => ⟨⟨warmReset s, exec_frstWarm_zero h, hw⟩, fun t ht => exec_frstWarm_virtual ht⟩, ⟨warmReset s, rfl, hw⟩,
    fun t ht => ⟨functionReset t s, exec_functionLevelReset ht, functionReset_fn t s, functionReset_launches, functionReset_tickets⟩,
    fun ok => exec_boot ok, fun t => ⟨_, rfl, rfl, rfl⟩⟩

end Sys2Proof.Machine.CoreState
end

section
/-!
PROOFS (integer and control, O1 and O2). The register, immediate and upper-immediate forms (R97 to R100, R104): each value of the
model as the number of the spec, then the completion of each row by `performPure_setX_falls`.
-/

namespace Sys2Proof.Machine.Control
open Sys2Proof Sys2Proof.Machine

/-- An instruction whose whole effect is a word for `d` completes, once the word is read as the number `v`. -/
theorem performPure_setX_falls {i : Instr} {d : Reg} {g : State → Word} {v : Word} {s : State} (h : g s = v) :
    Falls (performPure i true (fun s => s.setX d (g s)) s) (s.setX d v) :=
  h ▸ performPure_falls i (fun s => s.setX d (g s)) s

/-! ## Sums and comparisons (R97) -/

theorem aluAdd_eq (x y : Word) : aluAdd x y = BitVec.ofNat 32 (x.toNat + y.toNat) := rfl

theorem aluSub_eq (x y : Word) : aluSub x y = BitVec.ofInt 32 (x.toInt - y.toInt) := by
  apply BitVec.eq_of_toInt_eq
  rw [aluSub, BitVec.toInt_sub, BitVec.toInt_ofInt]

theorem aluSlt_eq (x y : Word) : aluSlt x y = if x.toInt < y.toInt then 1 else 0 := by
  simp [aluSlt, boolWord, BitVec.slt_iff_toInt_lt]

theorem aluSltu_eq (x y : Word) : aluSltu x y = if x.toNat < y.toNat then 1 else 0 := by
  simp [aluSltu, boolWord, BitVec.ult_iff_lt, BitVec.lt_def]

/-- The choice of MIN and MAX. -/
theorem ite_sle (x y a b : Word) : (if x.sle y then a else b) = if x.toInt ≤ y.toInt then a else b := by
  simp only [BitVec.sle_iff_toInt_le]

/-- The choice of MINU and MAXU. -/
theorem ite_ule (x y a b : Word) : (if x.ule y then a else b) = if x.toNat ≤ y.toNat then a else b := by
  simp only [BitVec.ule_iff_le, BitVec.le_def]

/-! ## Shifts (R97, R99) -/

theorem shiftLeft_eq_ofNat (x : Word) (n : Nat) : x <<< n = BitVec.ofNat 32 (x.toNat * 2 ^ n) := by
  rw [← Nat.shiftLeft_eq]; rfl

theorem ushiftRight_eq_ofNat (x : Word) (n : Nat) : x >>> n = BitVec.ofNat 32 (x.toNat / 2 ^ n) := by
  have h : x.toNat / 2 ^ n < 2 ^ 32 := Nat.lt_of_le_of_lt (Nat.div_le_self ..) x.isLt
  apply BitVec.eq_of_toNat_eq
  rw [BitVec.toNat_ushiftRight, BitVec.toNat_ofNat, Nat.shiftRight_eq_div_pow, Nat.mod_eq_of_lt h]

theorem sshiftRight_eq_ofInt (x : Word) (n : Nat) : x.sshiftRight n = BitVec.ofInt 32 (x.toInt / 2 ^ n) := by
  rw [BitVec.sshiftRight, Int.shiftRight_eq_div_pow]; norm_cast

/-- A rotation is a sum, since its two parts share no bit. -/
theorem rotateRight_eq_ofNat (x : Word) {n : Nat} (h : n < 32) :
    x.rotateRight n = BitVec.ofNat 32 (x.toNat / 2 ^ n + x.toNat * 2 ^ (32 - n)) := by
  have hd : x >>> n &&& x <<< (32 - n) = 0#32 := by
    ext j hj
    rw [BitVec.getElem_and, BitVec.getElem_ushiftRight, BitVec.getElem_shiftLeft]
    by_cases hl : j < 32 - n
    · simp [hl]
    · simp [BitVec.getLsbD_of_ge x (n + j) (by omega)]
  rw [BitVec.rotateRight_def, Nat.mod_eq_of_lt h, ← BitVec.add_eq_or_of_and_eq_zero _ _ hd, ushiftRight_eq_ofNat,
    shiftLeft_eq_ofNat, BitVec.ofNat_add]

/-! ## Products and quotients (R100) -/

theorem aluMul_eq (x y : Word) : aluMul x y = BitVec.ofNat 32 (x.toNat * y.toNat) := rfl

theorem highHalf_eq (p : Int) : highHalf p = BitVec.ofInt 32 (p / 2 ^ 32) := rfl

theorem highHalf_natCast (p : Nat) : highHalf p = BitVec.ofNat 32 (p / 2 ^ 32) := by
  rw [highHalf_eq, ← BitVec.ofInt_natCast]
  norm_cast

/-- The overflowing quotient 2^31 wraps to the value that R100 fixes. -/
theorem aluDiv_eq (x y : Word) : aluDiv x y = if y = 0 then 0xFFFFFFFF
    else if x = 0x80000000 ∧ y = 0xFFFFFFFF then 0x80000000 else BitVec.ofInt 32 (x.toInt.tdiv y.toInt) := by
  by_cases h : x = 0x80000000 ∧ y = 0xFFFFFFFF
  · obtain ⟨rfl, rfl⟩ := h
    decide
  · rw [if_neg h, aluDiv]

/-- The remainder of the overflowing case is 0 as the model computes it. -/
theorem aluRem_eq (x y : Word) : aluRem x y = if y = 0 then x
    else if x = 0x80000000 ∧ y = 0xFFFFFFFF then 0 else BitVec.ofInt 32 (x.toInt.tmod y.toInt) := by
  by_cases h : x = 0x80000000 ∧ y = 0xFFFFFFFF
  · obtain ⟨rfl, rfl⟩ := h
    decide
  · rw [if_neg h, aluRem]

/-- Settles O1: each row writes its word by `performPure_setX_falls`, and the word is the number of R97 and R100. -/
theorem registerArithmetic : Obligations.RegisterArithmetic := by
  unfold Obligations.RegisterArithmetic
  intro s d a b x y n
  have hn : n < 32 := Nat.mod_lt _ (by decide)
  simp only [List.forall_mem_cons, List.not_mem_nil, false_implies, implies_true, and_true]
  exact ⟨
    (performPure_setX_falls (aluAdd_eq x y) : Falls (execAdd d a b s) _),
    (performPure_setX_falls (aluSub_eq x y) : Falls (execSub d a b s) _),
    (performPure_setX_falls rfl : Falls (execAnd d a b s) _),
    (performPure_setX_falls rfl : Falls (execOr d a b s) _),
    (performPure_setX_falls rfl : Falls (execXor d a b s) _),
    (performPure_setX_falls rfl : Falls (execAndn d a b s) _),
    (performPure_setX_falls (shiftLeft_eq_ofNat x n) : Falls (execSll d a b s) _),
    (performPure_setX_falls (ushiftRight_eq_ofNat x n) : Falls (execSrl d a b s) _),
    (performPure_setX_falls (sshiftRight_eq_ofInt x n) : Falls (execSra d a b s) _),
    (performPure_setX_falls (rotateRight_eq_ofNat x hn) : Falls (execRor d a b s) _),
    (performPure_setX_falls (aluSlt_eq x y) : Falls (execSlt d a b s) _),
    (performPure_setX_falls (aluSltu_eq x y) : Falls (execSltu d a b s) _),
    (performPure_setX_falls (ite_sle x y x y) : Falls (execMin d a b s) _),
    (performPure_setX_falls (ite_sle y x x y) : Falls (execMax d a b s) _),
    (performPure_setX_falls (ite_ule x y x y) : Falls (execMinu d a b s) _),
    (performPure_setX_falls (ite_ule y x x y) : Falls (execMaxu d a b s) _),
    (performPure_setX_falls (aluMul_eq x y) : Falls (execMul d a b s) _),
    (performPure_setX_falls (highHalf_eq (x.toInt * y.toInt)) : Falls (execMulh d a b s) _),
    (performPure_setX_falls (highHalf_natCast (x.toNat * y.toNat)) : Falls (execMulhu d a b s) _),
    (performPure_setX_falls (highHalf_eq (x.toInt * y.toNat)) : Falls (execMulhsu d a b s) _),
    (performPure_setX_falls (aluDiv_eq x y) : Falls (execDiv d a b s) _),
    (performPure_setX_falls rfl : Falls (execDivu d a b s) _),
    (performPure_setX_falls (aluRem_eq x y) : Falls (execRem d a b s) _),
    (performPure_setX_falls rfl : Falls (execRemu d a b s) _)⟩

/-! ## Immediate operands (R98, R99, R104) -/

theorem aluAdd_signExtend (x : Word) {n : Nat} (i : BitVec n) :
    aluAdd x (i.signExtend 32) = BitVec.ofInt 32 (x.toInt + i.toInt) := by
  rw [BitVec.ofInt_add, BitVec.ofInt_toInt]; rfl

theorem aluSlt_signExtend (x : Word) (i : BitVec 16) :
    aluSlt x (i.signExtend 32) = if x.toInt < i.toInt then 1 else 0 := by
  rw [aluSlt_eq, BitVec.toInt_signExtend_of_le (by decide)]

/-- A shift-amount field is the amount itself. -/
theorem shamt_setWidth (n : BitVec 5) : shamt (n.setWidth 32) = n.toNat := by
  have h : n.toNat < 32 := n.isLt
  rw [shamt, BitVec.toNat_setWidth_of_le (by decide), Nat.mod_eq_of_lt h]

theorem upperImmediate_eq (u : BitVec 21) : u.setWidth 32 <<< 11 = BitVec.ofNat 32 (u.toNat * 2 ^ 11) := by
  rw [shiftLeft_eq_ofNat, BitVec.toNat_setWidth_of_le (by decide)]

theorem add_upperImmediate_eq (pc : Word) (u : BitVec 21) :
    pc + (u.setWidth 32 <<< 11) = BitVec.ofNat 32 (pc.toNat + u.toNat * 2 ^ 11) := by
  rw [upperImmediate_eq, BitVec.ofNat_add, BitVec.ofNat_toNat, BitVec.setWidth_eq]

/-- Settles O2: the register forms of O1 on a sign-extended or zero-extended field. -/
theorem immediateArithmetic : Obligations.ImmediateArithmetic := by
  unfold Obligations.ImmediateArithmetic
  intro s d a i n u x k
  have hk : shamt (n.setWidth 32) = k := shamt_setWidth n
  have hz : i.setWidth 32 = BitVec.ofNat 32 i.toNat := (BitVec.ofNat_toNat 32 i).symm
  simp only [List.forall_mem_cons, List.not_mem_nil, false_implies, implies_true, and_true]
  exact ⟨
    (performPure_setX_falls (aluAdd_signExtend x i) : Falls (execAddi d a i s) _),
    (performPure_setX_falls (congrArg (x &&& ·) hz) : Falls (execAndi d a i s) _),
    (performPure_setX_falls (congrArg (x ||| ·) hz) : Falls (execOri d a i s) _),
    (performPure_setX_falls (congrArg (x ^^^ ·) hz) : Falls (execXori d a i s) _),
    (performPure_setX_falls (aluSlt_signExtend x i) : Falls (execSlti d a i s) _),
    (performPure_setX_falls (aluSltu_eq x (i.signExtend 32)) : Falls (execSltiu d a i s) _),
    (performPure_setX_falls (hk ▸ shiftLeft_eq_ofNat x _) : Falls (execSlli d a n s) _),
    (performPure_setX_falls (hk ▸ ushiftRight_eq_ofNat x _) : Falls (execSrli d a n s) _),
    (performPure_setX_falls (hk ▸ sshiftRight_eq_ofInt x _) : Falls (execSrai d a n s) _),
    (performPure_setX_falls (hk ▸ rotateRight_eq_ofNat x (hk ▸ n.isLt)) : Falls (execRori d a n s) _),
    (performPure_setX_falls (upperImmediate_eq u) : Falls (execLui d u s) _),
    (performPure_setX_falls (add_upperImmediate_eq s.core.pc u) : Falls (execAuipc d u s) _)⟩

end Sys2Proof.Machine.Control
end

section
/-!
PROOFS (integer and control, O3). Counting, reversing and bit-field instructions (R101, R102), by the bits of their results.
-/

namespace Sys2Proof.Machine.Control
open Sys2Proof Sys2Proof.Machine

/-! ## Counting (R101) -/

/-- `n` zeros below bit `i`, then a 1 unless they are all, are what CLZ counts. -/
theorem zerosDown_eq (x : Word) : ∀ {i n : Nat}, n ≤ i → (∀ j, j < n → x.getLsbD (i - 1 - j) = false) →
    (n < i → x.getLsbD (i - 1 - n) = true) → zerosDown x i = n
  | 0, n, hn, _, _ => (Nat.le_zero.1 hn).symm
  | i + 1, 0, _, _, h1 => by
    have hb : x.getLsbD i = true := h1 (Nat.succ_pos i)
    simp [zerosDown, hb]
  | i + 1, n + 1, hn, h0, h1 => by
    have hb : x.getLsbD i = false := h0 0 (Nat.succ_pos n)
    have ih : zerosDown x i = n := by
      refine zerosDown_eq x (Nat.le_of_succ_le_succ hn) (fun j hj => ?_) fun h => ?_
      · rw [← h0 (j + 1) (by omega)]; congr 1; omega
      · rw [← h1 (by omega)]; congr 1; omega
    simp [zerosDown, hb, ih]

/-- `n` zeros from bit `k` up, then a 1 unless they are all of `i` bits, are what CTZ counts. -/
theorem zerosUp_eq (x : Word) : ∀ {i n : Nat} (k : Nat), n ≤ i → (∀ j, j < n → x.getLsbD (k + j) = false) →
    (n < i → x.getLsbD (k + n) = true) → zerosUp x i k = n
  | 0, n, _, hn, _, _ => (Nat.le_zero.1 hn).symm
  | i + 1, 0, k, _, _, h1 => by
    have hb : x.getLsbD k = true := h1 (Nat.succ_pos i)
    simp [zerosUp, hb]
  | i + 1, n + 1, k, hn, h0, h1 => by
    have hb : x.getLsbD k = false := h0 0 (Nat.succ_pos n)
    have ih : zerosUp x i (k + 1) = n := by
      refine zerosUp_eq x (k + 1) (Nat.le_of_succ_le_succ hn) (fun j hj => ?_) fun h => ?_
      · rw [← h0 (j + 1) (by omega)]; congr 1; omega
      · rw [← h1 (by omega)]; congr 1; omega
    simp [zerosUp, hb, ih]

theorem onesBelow_eq (x : Word) (i : Nat) : onesBelow x i = ((List.range i).filter fun j => x.getLsbD j).length := by
  induction i with
  | zero => rfl
  | succ i ih =>
    rw [onesBelow, ih, List.range_succ, List.filter_append, List.length_append]
    cases h : x.getLsbD i <;> simp [h]

/-! ## Reversing (R101) -/

theorem getLsbD_bitsBrev (x : Word) {j : Nat} (hj : j < 32) : (bitsBrev x).getLsbD j = x.getLsbD (31 - j) := by
  rw [bitsBrev, BitVec.getLsbD_reverse, BitVec.getMsbD_eq_getLsbD]
  simp [hj]

/-- Bit `j` of BSWAP is the bit of the same place in the byte from the other end. -/
theorem getLsbD_bitsBswap (x : Word) {j : Nat} (hj : j < 32) :
    (bitsBswap x).getLsbD j = x.getLsbD (8 * (3 - j / 8) + j % 8) := by
  rw [bitsBswap]
  simp only [BitVec.getLsbD_append, BitVec.getLsbD_extractLsb']
  by_cases h0 : j < 8
  · simp only [h0, if_true, decide_true, Bool.true_and]
    exact congrArg x.getLsbD (by omega)
  by_cases h1 : j - 8 < 8
  · simp only [h0, h1, if_true, if_false, decide_true, Bool.true_and]
    exact congrArg x.getLsbD (by omega)
  by_cases h2 : j - 8 - 8 < 8
  · simp only [h0, h1, h2, if_true, if_false, decide_true, Bool.true_and]
    exact congrArg x.getLsbD (by omega)
  · have h3 : j - 8 - 8 - 8 < 8 := by omega
    simp only [h0, h1, h2, h3, if_false, decide_true, Bool.true_and]
    exact congrArg x.getLsbD (by omega)

/-! ## Bit fields (R102) -/

theorem fieldPos_eq (b : Word) : fieldPos b = b.toNat % 32 := by simp [fieldPos, bitsNat]

theorem fieldLen_eq (b : Word) : fieldLen b = min (b.toNat / 32 % 32 + 1) (32 - b.toNat % 32) := by
  simp [fieldLen, fieldPos_eq, bitsNat]

theorem fieldPos_lt (b : Word) : fieldPos b < 32 := fieldPos_eq b ▸ Nat.mod_lt _ (by decide)

theorem fieldLen_pos (b : Word) : 0 < fieldLen b := Nat.lt_min.2 ⟨Nat.succ_pos _, Nat.sub_pos_of_lt (fieldPos_lt b)⟩

/-- A field ends within the word. -/
theorem fieldPos_add_fieldLen_le (b : Word) : fieldPos b + fieldLen b ≤ 32 := by
  have hp := fieldPos_lt b
  have hl : fieldLen b ≤ 32 - fieldPos b := Nat.min_le_right ..
  omega

theorem getLsbD_fieldMask (b : Word) (j : Nat) :
    (fieldMask b).getLsbD j = decide (fieldPos b ≤ j ∧ j < fieldPos b + fieldLen b) := by
  have h := fieldPos_add_fieldLen_le b
  rw [fieldMask, BitVec.getLsbD_ofNat, Nat.testBit_mul_two_pow, Nat.testBit_two_pow_sub_one, Bool.eq_iff_iff]
  simp only [Bool.and_eq_true, decide_eq_true_eq]
  omega

theorem getLsbD_bitsBfxu (x b : Word) (j : Nat) :
    (bitsBfxu x b).getLsbD j = (decide (j < fieldLen b) && x.getLsbD (fieldPos b + j)) := by
  simp [bitsBfxu, getLsbD_fieldMask, Bool.and_comm]

theorem bitsBfxu_eq (x b : Word) : bitsBfxu x b = BitVec.ofNat 32 (x.toNat / 2 ^ fieldPos b % 2 ^ fieldLen b) := by
  apply BitVec.eq_of_getLsbD_eq
  intro j hj
  rw [getLsbD_bitsBfxu, BitVec.getLsbD_ofNat, Nat.testBit_mod_two_pow, Nat.testBit_div_two_pow, Nat.add_comm, BitVec.getLsbD]
  simp [hj]

/-- The low `n` bits shifted to the top and back repeat their highest bit. -/
theorem sextWord_eq_signExtend (v : Word) {n : Nat} (h0 : 0 < n) (h : n ≤ 32) :
    sextWord v n = (v.setWidth n).signExtend 32 := by
  have hk : ∀ j, j < n → (v <<< (32 - n)).getLsbD (32 - n + j) = v.getLsbD j := by
    intro j hj
    have hs : 32 - n + j < 32 := by omega
    rw [BitVec.getLsbD_shiftLeft, Nat.add_sub_cancel_left]
    simp [hs]
  apply BitVec.eq_of_getLsbD_eq
  intro j hj
  rw [sextWord, BitVec.getLsbD_sshiftRight, BitVec.getLsbD_signExtend]
  by_cases hn : j < n
  · have hs : 32 - n + j < 32 := by omega
    rw [if_pos hs, if_pos hn, hk j hn]
    simp [hn, hj]
  · have hs : ¬ 32 - n + j < 32 := by omega
    have hm : (v <<< (32 - n)).getLsbD (32 - 1) = v.getLsbD (n - 1) := by
      rw [← hk (n - 1) (by omega)]; congr 1; omega
    rw [if_neg hs, if_neg hn, BitVec.msb_eq_getLsbD_last, BitVec.msb_eq_getLsbD_last, hm,
      BitVec.getLsbD_setWidth]
    simp only [Nat.not_le.2 hj, hj, Nat.sub_lt h0 Nat.one_pos, decide_true, decide_false, Bool.not_false, Bool.true_and]

theorem setWidth_bitsBfxu (x b : Word) :
    (bitsBfxu x b).setWidth (fieldLen b) = BitVec.ofNat (fieldLen b) (x.toNat / 2 ^ fieldPos b) := by
  apply BitVec.eq_of_getLsbD_eq
  intro j hj
  rw [BitVec.getLsbD_setWidth, getLsbD_bitsBfxu, BitVec.getLsbD_ofNat, Nat.testBit_div_two_pow, Nat.add_comm, BitVec.getLsbD]
  simp [hj]

theorem bitsBfx_eq (x b : Word) :
    bitsBfx x b = BitVec.ofInt 32 (BitVec.ofNat (fieldLen b) (x.toNat / 2 ^ fieldPos b)).toInt := by
  have h := fieldPos_add_fieldLen_le b
  rw [bitsBfx, sextWord_eq_signExtend _ (fieldLen_pos b) (by omega), setWidth_bitsBfxu]; rfl

/-- BFI takes the field from `x` and every other bit from the old `z`. -/
theorem getLsbD_bitsBfi (z x b : Word) {j : Nat} (hj : j < 32) : (bitsBfi z x b).getLsbD j =
    if fieldPos b ≤ j ∧ j < fieldPos b + fieldLen b then x.getLsbD (j - fieldPos b) else z.getLsbD j := by
  rw [bitsBfi, BitVec.getLsbD_or, BitVec.getLsbD_and, BitVec.getLsbD_and, BitVec.getLsbD_not, getLsbD_fieldMask,
    BitVec.getLsbD_shiftLeft]
  by_cases hf : fieldPos b ≤ j ∧ j < fieldPos b + fieldLen b
  · simp [hf, hj]
  · simp [hf, hj]

/-- Settles O3: the counts by recursion over the bits, every other result bit by bit. -/
theorem bitOperations : Obligations.BitOperations := by
  unfold Obligations.BitOperations
  intro s d a b x pos len
  have hp : fieldPos (s.x b) = pos := fieldPos_eq _
  have hl : fieldLen (s.x b) = len := fieldLen_eq _
  rw [← hp, ← hl]
  refine ⟨fun n hn h0 h1 => ?_, fun n hn h0 h1 => ?_, ?_, fun w h => ?_, fun w h => ?_, ?_, ?_, fun w h => ?_⟩
  · have hc : bitsClz x = BitVec.ofNat 32 n := congrArg _ (zerosDown_eq x hn h0 h1)
    exact (performPure_setX_falls hc : Falls (execClz d a s) _)
  · have hc : bitsCtz x = BitVec.ofNat 32 n := congrArg _ (zerosUp_eq x 0 hn (by simpa using h0) (by simpa using h1))
    exact (performPure_setX_falls hc : Falls (execCtz d a s) _)
  · exact (performPure_setX_falls (congrArg (BitVec.ofNat 32) (onesBelow_eq x 32)) : Falls (execPopc d a s) _)
  · have hw : bitsBrev x = w := BitVec.eq_of_getLsbD_eq fun j hj => (getLsbD_bitsBrev x hj).trans (h j hj).symm
    exact (performPure_setX_falls hw : Falls (execBrev d a s) _)
  · have hw : bitsBswap x = w := BitVec.eq_of_getLsbD_eq fun j hj => (getLsbD_bitsBswap x hj).trans (h j hj).symm
    exact (performPure_setX_falls hw : Falls (execBswap d a s) _)
  · exact (performPure_setX_falls (bitsBfxu_eq x (s.x b)) : Falls (execBfxu d a b s) _)
  · exact (performPure_setX_falls (bitsBfx_eq x (s.x b)) : Falls (execBfx d a b s) _)
  · have hw : bitsBfi (s.x d) x (s.x b) = w :=
      BitVec.eq_of_getLsbD_eq fun j hj => (getLsbD_bitsBfi (s.x d) x (s.x b) hj).trans (h j hj).symm
    exact (performPure_setX_falls hw : Falls (execBfi d a b s) _)

end Sys2Proof.Machine.Control
end

section
/-!
PROOFS (integer and control, O4 and O5). Jumps, branches and the hardware loop (R105, R107 to R109).
-/

namespace Sys2Proof.Machine.Control
open Sys2Proof Sys2Proof.Machine

/-! ## Bodies that choose their own end -/

section
variable {i : Instr} {body : State → Run State} {s u : State}

/-- A body that ends in a state. -/
theorem performWith_ok (h : body s = .ok u) : performWith i true body s = .next u := by
  simp [performWith, h, conclude]

/-- A body that ends by a jump. -/
theorem performWith_jumps {p : Word} (h : body s = .ok (retireTo p u)) : Jumps (performWith i true body s) p u :=
  ⟨retireTo p u, performWith_ok h, retireTo_ends p u⟩

/-- A body that ends by falling through. -/
theorem performWith_falls (h : body s = .ok (retire u)) : Falls (performWith i true body s) u :=
  ⟨retire u, performWith_ok h, retire_ends u⟩

/-- A body that traps. -/
theorem performWith_trap {c : Nat} {v : Word} (h : body s = .error (.trap c v)) :
    performWith i true body s = .next (raise c v s) := by
  simp [performWith, h, conclude]

end

/-! ## Targets (R46, R105) -/

theorem relativeTarget_eq {n : Nat} (pc : Word) (i : BitVec n) :
    pc + i.signExtend 32 * 4 = BitVec.ofInt 32 (pc.toInt + i.toInt * 4) := by
  rw [BitVec.ofInt_add, BitVec.ofInt_mul, BitVec.ofInt_toInt]; rfl

theorem effective_eq (s : State) (a : Reg) (i : BitVec 16) :
    effective s a i = BitVec.ofInt 32 ((s.x a).toInt + i.toInt) := aluAdd_signExtend (s.x a) i

theorem and_three_eq_zero_iff (t : Word) : t &&& 3 = 0 ↔ t.toNat % 4 = 0 := by
  have h : (t &&& 3).toNat = t.toNat % 4 := (BitVec.toNat_and ..).trans (Nat.and_two_pow_sub_one_eq_mod t.toNat 2)
  rw [← h, BitVec.toNat_eq]; rfl

/-! ## Jumps and branches (R105, R107) -/

theorem execJalr_jumps {s : State} (d : Reg) {a : Reg} {i : BitVec 16} (h : (effective s a i).toNat % 4 = 0) :
    Jumps (execJalr d a i s) (effective s a i) (s.setX d (s.core.pc + 4)) :=
  performWith_jumps (if_neg (not_not_intro ((and_three_eq_zero_iff _).2 h)))

theorem execJalr_misaligned {s : State} (d : Reg) {a : Reg} {i : BitVec 16} (h : (effective s a i).toNat % 4 ≠ 0) :
    execJalr d a i s = .next (raise 1 (effective s a i) s) :=
  performWith_trap (if_pos (mt (and_three_eq_zero_iff _).1 h))

/-- A branch on the condition `g`, which holds as `c` says. -/
theorem branch_jumps_or_falls {j : Instr} {i : BitVec 16} {g : State → Bool} {c : Bool} {s : State} (h : g s = c) :
    if c then
      Jumps (performWith j true (fun s => .ok (branch (g s) i s)) s) (BitVec.ofInt 32 (s.core.pc.toInt + i.toInt * 4)) s
    else Falls (performWith j true (fun s => .ok (branch (g s) i s)) s) s := by
  cases c with
  | true =>
    rw [if_pos rfl, ← relativeTarget_eq]
    exact performWith_jumps (by rw [h]; rfl)
  | false =>
    rw [if_neg Bool.false_ne_true]
    exact performWith_falls (by rw [h]; rfl)

/-- Settles O4: JAL and JALR by `performWith_jumps`, the misaligned JALR by its trap, the branches by `branch_jumps_or_falls`. -/
theorem jumpsAndBranches : Obligations.JumpsAndBranches := by
  unfold Obligations.JumpsAndBranches
  intro s d a b i j pc t u
  have ht : effective s a i = t := effective_eq s a i
  have heq : (s.x a == s.x b) = decide (s.x a = s.x b) := rfl
  have hne : (s.x a != s.x b) = decide (s.x a ≠ s.x b) := by rw [bne, heq, decide_not]
  rw [← ht]
  refine ⟨?_, execJalr_jumps d, execJalr_misaligned d, ?_⟩
  · rw [← relativeTarget_eq]
    exact performWith_jumps (i := .jal d j) rfl
  · simp only [List.forall_mem_cons, List.not_mem_nil, false_implies, implies_true, and_true]
    exact ⟨
      branch_jumps_or_falls (j := .beq a b i) (g := fun s => s.x a == s.x b) heq,
      branch_jumps_or_falls (j := .bne a b i) (g := fun s => s.x a != s.x b) hne,
      branch_jumps_or_falls (j := .blt a b i) (g := fun s => (s.x a).slt (s.x b)) rfl,
      branch_jumps_or_falls (j := .bge a b i) (g := fun s => (s.x b).sle (s.x a)) rfl,
      branch_jumps_or_falls (j := .bltu a b i) (g := fun s => (s.x a).ult (s.x b)) rfl,
      branch_jumps_or_falls (j := .bgeu a b i) (g := fun s => (s.x b).ule (s.x a)) rfl⟩

/-! ## The next pc and the loop state (R108, R109) -/

/-- One trip left is the last one. -/
theorem sub_one_eq_zero_iff {n : Word} : n - 1 = 0 ↔ n = 1 := by
  bv_omega

theorem stepPc_next {c : Core} (h : c.loop.active = false ∨ c.pc ≠ c.loop.last) :
    stepPc c = { c with pc := c.pc + 4 } := by
  refine if_neg ?_
  obtain h | h := h <;> simp [h]

theorem stepPc_back {c : Core} (ha : c.loop.active = true) (hp : c.pc = c.loop.last) (hr : c.loop.remaining ≠ 1) :
    stepPc c = { c with pc := c.loop.start, loop := { c.loop with remaining := c.loop.remaining - 1 } } := by
  have hl : (c.loop.active && c.pc == c.loop.last) = true := by simp [ha, hp]
  rw [stepPc, if_pos hl]
  exact if_neg (mt sub_one_eq_zero_iff.1 hr)

theorem stepPc_done {c : Core} (ha : c.loop.active = true) (hp : c.pc = c.loop.last) (hr : c.loop.remaining = 1) :
    stepPc c = { c with pc := c.pc + 4, loop := { c.loop with remaining := 0, active := false } } := by
  have hl : (c.loop.active && c.pc == c.loop.last) = true := by simp [ha, hp]
  have h0 : c.loop.remaining - 1 = 0 := sub_one_eq_zero_iff.2 hr
  rw [stepPc, if_pos hl]
  exact (if_pos h0).trans (by rw [h0])

theorem jumpPc_within {c : Core} {p : Word} (h : c.loop.active = false ∨ (c.loop.start ≤ p ∧ p ≤ c.loop.last)) :
    jumpPc p c = { c with pc := p } := by
  refine if_neg ?_
  obtain h | ⟨h1, h2⟩ := h
  · simp [h]
  · simp [BitVec.not_lt.2 h1, BitVec.not_lt.2 h2]

theorem jumpPc_leaves {c : Core} {p : Word} (ha : c.loop.active = true) (h : p < c.loop.start ∨ c.loop.last < p) :
    jumpPc p c = { c with pc := p, loop := { c.loop with active := false } } :=
  if_pos (by simpa [ha] using h)

/-! ## LOOP (R108) -/

/-- The loop state that LOOP at the pc of `s` starts. -/
def startedLoop (s : State) (a b : Reg) (i : BitVec 16) : LoopState :=
  ⟨true, s.core.pc + 4, s.core.pc + i.setWidth 32 * 4, BitVec.ofInt 32 (loopCount (s.x a) (s.x b))⟩

/-- The last instruction of a body is not the LOOP itself: disp16 counts fewer words than the address space holds. -/
theorem pc_ne_loop_last (pc : Word) {i : BitVec 16} (h : i ≠ 0) : pc ≠ pc + i.setWidth 32 * 4 := by
  bv_omega

theorem execLoop_skips {s : State} {a b : Reg} (i : BitVec 16) (h : loopCount (s.x a) (s.x b) ≤ 0) :
    Jumps (execLoop a b i s) (s.core.pc + i.setWidth 32 * 4 + 4)
      (s.mapCore fun c => { c with loop := { c.loop with active := false } }) :=
  performWith_jumps (if_pos h)

/-- A loop that starts falls into its body, since the LOOP is not the last instruction of it. -/
theorem execLoop_starts {s : State} {a b : Reg} {i : BitVec 16} (h : 0 < loopCount (s.x a) (s.x b)) (hi : i ≠ 0) :
    ∃ t, execLoop a b i s = .next t ∧ Ends { s.core with pc := s.core.pc + 4, loop := startedLoop s a b i } s t := by
  have hp : stepPc { s.core with loop := startedLoop s a b i } =
      { s.core with pc := s.core.pc + 4, loop := startedLoop s a b i } := stepPc_next (.inr (pc_ne_loop_last s.core.pc hi))
  have he := finish_ends (fun c => stepPc { c with loop := startedLoop s a b i }) s (by rw [hp])
  rw [hp] at he
  exact ⟨retire (s.mapCore fun c => { c with loop := startedLoop s a b i }), performWith_ok (if_neg (Int.not_le.2 h)), he⟩

/-- Settles O5: the next pc by the cases of `stepPc` and `jumpPc`, and LOOP by its trip count. -/
theorem hardwareLoop : Obligations.HardwareLoop := by
  unfold Obligations.HardwareLoop
  refine ⟨fun _ => stepPc_next, fun _ => stepPc_back, fun _ => stepPc_done, fun _ _ => jumpPc_within,
    fun _ _ => jumpPc_leaves, fun s a b i => ?_⟩
  rw [BitVec.ofNat_toNat]
  exact ⟨execLoop_skips i, execLoop_starts⟩

end Sys2Proof.Machine.Control
end

section
/-!
PROOFS (integer and control, O15). The forms that read f registers and write an x register (R103, R117 to R121).
-/

namespace Sys2Proof.Machine.Control
open Sys2Proof Sys2Proof.Machine

/-! ## The order-preserving key (R83, R103) -/

/-- The sign bit of a `w`-bit pattern, said by its size. -/
theorem okey_eq {v w : Nat} (hw : 0 < w) (h : v < 2 ^ w) :
    okey v w = if v < 2 ^ (w - 1) then v + 2 ^ (w - 1) else 2 ^ w - 1 - v := by
  have h2 : v < 2 ^ (w - 1) * 2 := by rwa [← Nat.pow_succ, Nat.succ_eq_add_one, Nat.sub_add_cancel hw]
  have hq : v / 2 ^ (w - 1) < 2 := Nat.div_lt_of_lt_mul h2
  have hz : v / 2 ^ (w - 1) % 2 = 0 ↔ v < 2 ^ (w - 1) := by
    rw [Nat.mod_eq_of_lt hq, Nat.div_eq_zero_iff_lt (Nat.two_pow_pos _)]
  simp only [okey, hz]

/-! ## The completion of the forms (R36, R54, R112, R205) -/

/-- A rounding field is legal where FCSR.rm is, if the field names it; the converse is `roundingOk_reserved`. -/
theorem roundingOk_of_le {s : State} {m : BitVec 3} (h : m = 7 → s.core.csr.fcsr.toNat % 8 ≤ 4) : s.roundingOk m = true := by
  rw [State.roundingOk, Bool.or_eq_true]
  by_cases hm : m = 7
  · have hf : s.frm ≤ 4 := by
      rw [BitVec.le_def]
      simpa [State.frm] using h hm
    exact .inr (decide_eq_true hf)
  · exact .inl (bne_iff_ne.2 hm)

/-- An instruction on f registers that no pending loop holds and no stream fault stops completes, its flags merged. -/
theorem performF_falls {i : Instr} {legal : Bool} {rs : List Reg} {f : State → FRun (State × Flags)} {s t : State}
    {fl : Flags} (hl : legal = true) (hb : s.fBusy rs = false) (h : f s = .ok (t, fl)) :
    Falls (performF i legal rs f s) (t.addFlags fl) :=
  perform_falls hl (by simp [hb, h])

section
variable {i : Instr} {d a b : Reg} {s s1 s2 : State} {x y : Word} (hx : takeF false a s = .ok (x, s1))
include hx

theorem performF_fx1_falls {legal : Bool} {op : Word → Word × Flags} (hl : legal = true) (hb : s.fBusy [a] = false) :
    Falls (performF i legal [a] (fx1 d a op) s) ((s1.setX d (op x).1).addFlags (op x).2) := by
  have h : fx1 d a op s = .ok (s1.setX d (op x).1, (op x).2) := by rw [fx1, hx]; rfl
  exact performF_falls hl hb h

theorem performF_fx2_falls {op : Word → Word → Word × Flags} (hy : takeF false b s1 = .ok (y, s2))
    (hb : s.fBusy [a, b] = false) :
    Falls (performF i true [a, b] (fx2 d a b op) s) ((s2.setX d (op x y).1).addFlags (op x y).2) := by
  have h : fx2 d a b op s = .ok (s2.setX d (op x y).1, (op x y).2) := by
    rw [fx2, hx]
    simp only [bind, Except.bind, hy]; rfl
  exact performF_falls rfl hb h

end

/-- Settles O15: every form is `fx1` or `fx2` of its operation, and the keys of OKEY are `okey`. -/
theorem fpToIntegerForms : Obligations.FpToIntegerForms := by
  unfold Obligations.FpToIntegerForms
  intro s s1 s2 d a b m x y hm rm key hx
  have hr : s.roundingOk m = true := roundingOk_of_le hm
  have hword : okey x.toNat 32 = key x.toNat 32 := okey_eq (by decide) x.isLt
  have hhigh : okey (x.toNat / 65536) 16 = key (x.toNat / 65536) 16 :=
    okey_eq (by decide) (Nat.div_lt_of_lt_mul x.isLt)
  have hlow : okey (x.toNat % 65536) 16 = key (x.toNat % 65536) 16 := okey_eq (by decide) (Nat.mod_lt _ (by decide))
  simp only [List.forall_mem_cons, List.not_mem_nil, false_implies, implies_true, and_true]
  rw [← hword, ← hhigh, ← hlow]
  exact ⟨fun hb => ⟨
      (performF_fx1_falls hx rfl hb : Falls (execFclass d a s) _),
      (performF_fx1_falls hx hr hb : Falls (execFcvtWS d a m s) _),
      (performF_fx1_falls hx hr hb : Falls (execFcvtWuS d a m s) _),
      (performF_fx1_falls hx rfl hb : Falls (execFmvXS d a s) _),
      (performF_fx1_falls hx rfl hb : Falls (execOkeyW d a s) _),
      (performF_fx1_falls hx rfl hb : Falls (execOkeyH d a s) _)⟩,
    fun hb hy => ⟨
      (performF_fx2_falls hx hy hb : Falls (execFeq d a b s) _),
      (performF_fx2_falls hx hy hb : Falls (execFlt d a b s) _),
      (performF_fx2_falls hx hy hb : Falls (execFle d a b s) _)⟩⟩

end Sys2Proof.Machine.Control
end

section
/-!
PROOFS (floating point, O14 and O16). The one-operand and the fused forms, whose result goes to an f register (R114, R119 to R125).
-/

namespace Sys2Proof.Machine.Fp
open Sys2Proof Sys2Proof.Machine Sys2Proof.Machine.Control

/-! ## The operands in order, then the result (R112)

Each operand is taken in the state that the one before it left, and the result is put in the state that the last one left. -/

section
variable {entry : Bool} {d a b c : Reg} {s s1 s2 s3 t : State} {x y z : Word}

theorem f1_ok {op : Word → Word × Flags} (hx : takeF entry a s = .ok (x, s1)) (ht : putF entry d (op x).1 s1 = .ok t) :
    f1 entry d a op s = .ok (t, (op x).2) := by
  simp only [f1, bind, Except.bind, hx, ht]; rfl

theorem xf1_ok {op : Word → Word × Flags} (ht : putF false d (op (s.x a)).1 s = .ok t) :
    xf1 d a op s = .ok (t, (op (s.x a)).2) := by
  simp only [xf1, bind, Except.bind, ht]; rfl

theorem f2d_ok {op : Word → Word → Word → Word × Flags} (hz : takeF entry d s = .ok (z, s1))
    (hx : takeF entry a s1 = .ok (x, s2)) (hy : takeF entry b s2 = .ok (y, s3))
    (ht : putF entry d (op z x y).1 s3 = .ok t) : f2d entry d a b op s = .ok (t, (op z x y).2) := by
  simp only [f2d, bind, Except.bind, hz, hx, hy, ht]; rfl

theorem f3_ok {op : Word → Word → Word → Word × Flags} (hx : takeF entry a s = .ok (x, s1))
    (hy : takeF entry b s1 = .ok (y, s2)) (hz : takeF entry c s2 = .ok (z, s3))
    (ht : putF entry d (op x y z).1 s3 = .ok t) : f3 entry d a b c op s = .ok (t, (op x y z).2) := by
  simp only [f3, bind, Except.bind, hx, hy, hz, ht]; rfl

end

/-! ## The forms (R36, R54, R205) -/

/-- Settles O14: a form on an f register is `f1` of its operation, a form on an x register is `xf1` of it. -/
theorem fpOneOperandForms : Obligations.FpOneOperandForms := by
  unfold Obligations.FpOneOperandForms
  intro s s1 t d a m x hm rm w32
  have hr : s.roundingOk m = true := roundingOk_of_le hm
  simp only [List.forall_mem_cons, List.not_mem_nil, false_implies, implies_true, and_true]
  exact ⟨fun hb hx => ⟨
      fun ht => (performF_falls hr hb (f1_ok hx ht) : Falls (execFsqrt d a m s) _),
      fun ht => (performF_falls hr hb (f1_ok hx ht) : Falls (execFexp2 d a m s) _),
      fun ht => (performF_falls hr hb (f1_ok hx ht) : Falls (execFlog2 d a m s) _),
      fun ht => (performF_falls hr hb (f1_ok hx ht) : Falls (execFrcp d a m s) _),
      fun ht => (performF_falls hr hb (f1_ok hx ht) : Falls (execFrsq d a m s) _),
      fun ht => (performF_falls hr hb (f1_ok hx ht) : Falls (execFtanh d a m s) _),
      fun ht => (performF_falls hr hb (f1_ok hx ht) : Falls (execFsigm d a m s) _),
      fun ht => (performF_falls rfl hb (f1_ok hx ht) : Falls (execFcvtSBh d a s) _),
      fun ht => (performF_falls rfl hb (f1_ok hx ht) : Falls (execFcvtSHh d a s) _),
      fun ht => (performF_falls hr hb (f1_ok hx ht) : Falls (execFcvtBhS d a m s) _),
      fun ht => (performF_falls hr hb (f1_ok hx ht) : Falls (execFcvtHhS d a m s) _)⟩,
    fun hb => ⟨
      fun ht => (performF_falls hr hb (xf1_ok ht) : Falls (execFcvtSW d a m s) _),
      fun ht => (performF_falls hr hb (xf1_ok ht) : Falls (execFcvtSWu d a m s) _),
      fun ht => (performF_falls rfl hb (xf1_ok ht) : Falls (execFmvSX d a s) _)⟩⟩

/-- Settles O16: FMA to FNMS are `f3` of one `fFma` each; HFMA2 and ISEL.F are `f2d`, which takes the old rd first. -/
theorem fpFusedForms : Obligations.FpFusedForms := by
  unfold Obligations.FpFusedForms
  intro s s1 s2 s3 t d a b c m x y z hm rm h r
  have hr : s.roundingOk m = true := roundingOk_of_le hm
  simp only [List.forall_mem_cons, List.not_mem_nil, false_implies, implies_true, and_true]
  exact ⟨fun hb hx hy hz => ⟨
      fun ht => (performF_falls hr hb (f3_ok hx hy hz ht) : Falls (execFma d a b c m s) _),
      fun ht => (performF_falls hr hb (f3_ok hx hy hz ht) : Falls (execFms d a b c m s) _),
      fun ht => (performF_falls hr hb (f3_ok hx hy hz ht) : Falls (execFnma d a b c m s) _),
      fun ht => (performF_falls hr hb (f3_ok hx hy hz ht) : Falls (execFnms d a b c m s) _)⟩,
    fun hb hz hx hy => ⟨
      fun ht => (performF_falls hr hb (f2d_ok hz hx hy ht) : Falls (execHfma2 d a b m s) _),
      fun ht => (performF_falls rfl hb (f2d_ok hz hx hy ht) : Falls (execIselF d a b s) _)⟩⟩

end Sys2Proof.Machine.Fp
end

section
/-!
PROOFS (launches, points and the frontier, O33). The end of a point (R164, R170): what PDONE does on a core whose GANGINFO names it a
pair's follower.
-/

namespace Sys2Proof.Machine.Frontier
open Sys2Proof Sys2Proof.Machine

/-! ## PDONE on the follower of a pair (R164, R170) -/

/-- A follower with nothing of its leader's stream waits at PDONE for its leader, which retires the point for both. -/
theorem execPdone_follower_waits {s : State} {p : Point} (hk : s.kind = .compute) (hp : s.core.point = some p)
    (hm : s.core.mode = .user) (hh : s.inHandler = false) (hu : uncollected s = false) (hf : s.pairFollower = true)
    (hl : s.core.lag = []) : exec .pdone s = .next (waiting s) := by
  have hc : s.compute = true := by rw [State.compute, hk]; rfl
  have hi : s.inUser = true := by rw [State.inUser, hm]; rfl
  have ht : leaderTrap s = none := by rw [leaderTrap, if_pos hf, hl]; rfl
  have hb : pointDone .pdone false s = .error (.wait s) := by
    simp [pointDone, hp, hi, hh, hu, hf, followed, ht]
  change execPdone s = _
  simp [execPdone, performWith, hc, hb, conclude]

/-- Core 0 runs a point, its GANGINFO says "follower" (bit 30) and not "paired" (bit 31), and it has no slot in use and no loop. -/
def unpairedFollower : State :=
  { State.reset with core :=
    { Core.reset 0 with point := some ⟨0, 0, 0, 0, 0⟩, csr := { Csrs.reset with ganginfo := 0x40000000 } } }

/-- Refutes O33: the statement leaves pairs out by GANGINFO bit 31 alone, and PDONE asks bit 30 for the follower. On
`unpairedFollower` PDONE waits, and the point does not end. What is missing is the hypothesis that bit 30 is clear too; placement sets
it in a pair only. -/
theorem not_pointEnds : ¬ Obligations.PointEnds := by
  unfold Obligations.PointEnds
  rintro ⟨hends, -⟩
  obtain ⟨hretires, -⟩ := hends unpairedFollower ⟨0, 0, 0, 0, 0⟩ rfl
  obtain ⟨hnoLoop, -⟩ := hretires rfl rfl rfl rfl (by decide)
  obtain ⟨⟨t, ht, hpoint, -⟩, -⟩ := hnoLoop rfl
  rw [execPdone_follower_waits rfl rfl rfl rfl rfl rfl rfl] at ht
  obtain rfl := Host.Outcome.next.inj ht
  cases hpoint

end Sys2Proof.Machine.Frontier
end

section
/-!
PROOFS (launches, points and the frontier, O49). The closure of a phase (R160) commits what the phase holds, and the read of a partial
block can meet an integrity failure (R422) by which the alarm contains the tenant (R424): its launches end (R413), also the one that closes.
-/

namespace Sys2Proof.Machine.Frontier
open Sys2Proof Sys2Proof.Machine Sys2Proof.Machine.CoreState

/-! ## The names of the launches through a closure (R160) -/

theorem mem_launchNames_of_launch? {s : State} {id : Word} {l : Launch} (h : s.launch? id = some l) :
    (l.id, l.fn) ∈ launchNames s :=
  List.mem_map.2 ⟨l, List.mem_of_find?_eq_some h, rfl⟩

theorem map_updateFirst {α β : Type} {p : α → Bool} {f : α → α} {g : α → β} (h : ∀ a, g (f a) = g a) (l : List α) :
    (updateFirst p f l).map g = l.map g := by
  induction l with
  | nil => rfl
  | cons a l ih =>
    rw [updateFirst]
    split
    · rw [List.map_cons, List.map_cons, h]
    · rw [List.map_cons, List.map_cons, ih]

theorem launchNames_mapLaunch {f : Launch → Launch} (h : ∀ l, (f l).id = l.id ∧ (f l).fn = l.fn) (s : State) (id : Word) :
    launchNames (s.mapLaunch id f) = launchNames s :=
  map_updateFirst (fun l => Prod.ext (h l).1 (h l).2) s.launches

theorem roster_closeSlots (s : State) : roster (closeSlots s) = roster s :=
  roster_foldl (fun t p => by split <;> rfl) _ s

theorem roster_closeCore (phase : Word) (s : State) : roster (closeCore phase s) = roster s :=
  (roster_mapCore _ _).trans (roster_closeSlots s)

/-- After the commit of its first step a closure leaves the same launches. -/
theorem launchNames_closePhase (l : Launch) (s : State) :
    launchNames (closePhase l s) = launchNames (commitAll l.fn l.id (fun _ => true) s) := by
  refine (launchNames_mapLaunch (f := closeLaunch) (fun _ => ⟨rfl, rfl⟩) _ _).trans (launchNames_of_roster ?_)
  rw [roster_onUnits, roster_onCores (roster_closeCore _)]
  exact roster_foldl (fun t _ => roster_logError t _ _) _ _

/-- One byte that the launch holds is committed with its block. -/
theorem commitAll_single {t : BitVec 5} {id : Word} {s : State} {h : HeldByte} (hs : s.commit = [h]) (hl : (h.launch == id) = true) :
    commitAll t id (fun _ => true) s = commitBlock t id (blockOf h.pa) s := by
  simp [commitAll, hs, hl, List.eraseDups_cons]

theorem roster_writeBlock (t : BitVec 5) (pa : Nat) (bs : List Byte) (s : State) : roster (writeBlock t pa bs s) = roster s := rfl

/-- The commit of a partial block leaves the launches that the examination of the block leaves (R405, R422). -/
theorem roster_commitBlock_partial {t : BitVec 5} {id : Word} {b : Nat} {s : State} (hn : (heldOf s id b).isEmpty = false)
    (hp : (heldOf s id b).length < 64) :
    roster (commitBlock t id b s) = roster (examine t 0 (64 * b) (s.endpoint (0x5000 + sliceOf (64 * b))) id
      { s with commit := s.commit.filter fun h => !(h.launch == id && blockOf h.pa == b) }) := by
  unfold commitBlock
  simp only [hn, hp, if_true, Bool.false_eq_true, if_false]
  split
  · exact roster_logError _ _ _
  · exact roster_writeBlock _ _ _ _

/-! ## The alarm of a tenant (R413, R422, R424) -/

/-- A block of the tenant's own whose MAC fails counts for the tenant (R422, R424). -/
theorem examine_mac {t : BitVec 5} {va pa : Nat} {src : BitVec 21} {launch : Word} {s : State}
    (hp : (s.block (blockOf pa)).poison = false) (ho : s.owns t (blockOf pa) = true) (he : s.errAt (blockOf pa) = .mac) :
    examine t va pa src launch s = alarmCount t va src launch (integrityFailure t pa false s) := by
  simp [examine, examineFor, hp, ho, he]

theorem roster_integrityFailure (t : BitVec 5) (pa : Nat) (amb : Bool) (s : State) :
    roster (integrityFailure t pa amb s) = roster s :=
  (roster_logError (s.mapBlock (blockOf pa) fun m => { m with err := .clean, poison := true }) .nonFatal t.toNat).trans rfl

theorem roster_endWaiting (t : Nat) (s : State) : roster (endWaiting t s) = roster s :=
  (roster_mapFn _ _ _).trans (roster_foldl (fun u (r : FRec) => roster_foldl (fun v p => roster_answer v p _) r.reqs u) _ s)

/-- A tenant fatal fault leaves launches that were there before, and none of the tenant (R413). -/
theorem mem_launchNames_tenantFatal {s : State} {t va : Nat} {kind : BitVec 3} {src : BitVec 21} {launch : Word}
    (hf : (s.fn t).tfatal.getLsbD 31 = false) {k : Word × BitVec 5}
    (hk : k ∈ launchNames (s.tenantFatal t kind src launch va)) : k ∈ launchNames s ∧ k.2.toNat ≠ t := by
  rw [State.tenantFatal, if_neg (Bool.eq_false_iff.1 hf)] at hk
  obtain ⟨hm, hn⟩ := mem_launchNames_kills hk
  refine ⟨?_, fun he => hn ?_⟩
  · rwa [launchNames_of_roster ((roster_logError _ _ _).trans ((roster_raiseMsix _ _ _).trans
      ((roster_mapFn _ _ _).trans (roster_endWaiting t s))))] at hm
  · obtain ⟨l, hl, rfl⟩ := List.mem_map.1 hm
    exact List.mem_map.2 ⟨l, List.mem_filter.2 ⟨hl, by simpa using he⟩, rfl⟩

/-- A failure counted for tenant `t`, which is contained with it (R424). -/
def contained (t : BitVec 5) (s : State) : State :=
  let level := if s.flint.level = 0 then 1 else s.flint.level
  { s with flint := { s.flint with
      tcount := assocSet s.flint.tcount t.toNat (min ((assocGet s.flint.tcount t.toNat).getD 0 + 1) 255)
      count := min (s.flint.count + 1) 255, contained := s.flint.contained ++ [t.toNat]
      level := if level < 2 then 2 else level } }

/-- The failure that reaches the threshold of its tenant, and not the device's, is a tenant fatal fault (R424). -/
theorem alarmCount_contains {s : State} {t : BitVec 5} (va : Nat) (src : BitVec 21) (launch : Word)
    (hd : s.flint.count + 1 < bitsNat s.flint.almctl 15 8)
    (ht : bitsNat s.flint.almctl 7 0 ≤ (assocGet s.flint.tcount t.toNat).getD 0 + 1)
    (hc : s.flint.contained.contains t.toNat = false) :
    alarmCount t va src launch s = (contained t s).tenantFatal t.toNat 3 src launch va := by
  have hl : (decide (bitsNat s.flint.almctl 7 0 ≤ (assocGet s.flint.tcount t.toNat).getD 0 + 1) &&
      !s.flint.contained.contains t.toNat) = true := by
    rw [hc, Bool.not_false, Bool.and_true]
    exact decide_eq_true ht
  exact (if_neg (Nat.not_le.2 hd)).trans (if_pos hl)

/-! ## A closure that ends its launch -/

/-- A replayable launch of tenant 0 on cluster 0 that has run its one line of four points and its plan. -/
def lastPhase : Launch :=
  { id := 9, fn := 0, queue := 0, index := 0, stage := .running, gang := [0], cores := [0], phase := 0
    pkt := { type := 1, acq := false, rel := false, replay := true, pair := false, spec := false, prio := 1, place := 0, argsz := 0
             gang := 1, cslot := 3, icount := 0, ndim := 1, nvec := 0, kimg := 0, ext := [4], vecs := [], args := 0, sig := 0, sval := 0
             succ := [] }
    lines := [⟨0, 4, 0, false⟩], groups := .replicate 16 .reset, groupsSnap := .replicate 16 .reset, jframes := 0, eligAt := 0
    placedAt := 0, why := 0, tries := 0, cleared := 0, ureason := 0, preempt := false, plan := 0, direct := false, loaded := true
    stored := true, entry := 0x40, pwdog := 0, span := 0, key := 5, parked := [], backlog := [], parkedUnits := [], lost := [] }

/-- The launch holds one byte of block 0 for closure, the block's MAC fails, and three failures of the tenant have been counted: the
fourth reaches the threshold of ALMCTL at reset. -/
def failingCommit : State :=
  { State.reset with
    launches := [lastPhase], unit := { Cluster.reset 0 with launch := some 9 }, commit := [⟨9, 0, 1⟩]
    blocks := [⟨0, false, 0, 0, .mac, none⟩], flint := { Flint.reset with tcount := [(0, 3)] } }

/-- Every line has run, and every member is quiet. -/
theorem workDone_failingCommit : workDone failingCommit lastPhase = true := by
  have hready : lastPhase.anyReady = false := by decide
  have hquiet : lastPhase.members.all (coreQuiet failingCommit) = true := by decide
  rw [workDone, hready, hquiet]
  rfl

/-- The closure on `failingCommit` commits block 0 and with it ends every launch of tenant 0. -/
theorem launchNames_closePhase_failingCommit : launchNames (closePhase lastPhase failingCommit) = [] := by
  refine List.eq_nil_iff_forall_not_mem.2 fun k hk => ?_
  rw [launchNames_closePhase, commitAll_single (h := ⟨9, 0, 1⟩) rfl rfl, launchNames_of_roster (roster_commitBlock_partial rfl (by decide)), examine_mac rfl rfl rfl,
    alarmCount_contains _ _ _ (by decide) (by decide) rfl] at hk
  obtain ⟨hm, hn⟩ := mem_launchNames_tenantFatal rfl hk
  obtain rfl := List.mem_singleton.1 hm
  exact hn rfl

theorem exec_phaseClosure {s : State} {l : Word} {g : Launch} (hr : launchesRun s = true) (hg : s.launch? l = some g)
    (hs : g.stage = .running) (hw : workDone s g = true) (hp : g.stored = true) (ha : planAway s l = false) :
    exec (.phaseClosure l) s = .next (closePhase g s) := by
  change execPhaseClosure l s = _
  simp [execPhaseClosure, launchStep, happen, hr, hg, hs, hw, hp, ha]

/-- Refutes O49: the statement says that a closure leaves its launch, in its next phase or closed. On `failingCommit` the closure's commit
of a partial block meets the integrity failure that contains the tenant, which kills the launch (R413, R422, R424). -/
theorem not_phaseEvents : ¬ Obligations.PhaseEvents := by
  unfold Obligations.PhaseEvents
  rintro ⟨-, hrunning, -⟩
  obtain ⟨-, -, -, -, hcloses, -⟩ := hrunning failingCommit 9 lastPhase rfl rfl rfl
  obtain ⟨t, ht, g, hg, -⟩ := hcloses workDone_failingCommit rfl rfl
  rw [exec_phaseClosure rfl rfl rfl workDone_failingCommit rfl rfl] at ht
  obtain rfl := Host.Outcome.next.inj ht
  have hm := mem_launchNames_of_launch? hg
  rw [launchNames_closePhase_failingCommit] at hm
  cases hm

end Sys2Proof.Machine.Frontier
end

section
/-!
PROOFS (streams and vector loops, O34). The stream instructions (R195 to R200) and the pushing of a vector loop (R203, R205).
-/

namespace Sys2Proof.Machine.Streams
open Sys2Proof Sys2Proof.Machine Sys2Proof.Machine.Control

/-! ## Bodies that wait, or trap with an effect -/

section
variable {i : Instr} {body : State → Run State} {s u : State}

theorem perform_waits (h : body s = .error (.wait u)) : perform i true body s = .next (waiting u) := by
  simp [perform, performWith, h, conclude, Except.map]

/-- A trap whose rule keeps an effect is raised in the state with that effect. -/
theorem perform_trapIn {c : Nat} {v : Word} (h : body s = .error (.trapIn c v u)) :
    perform i true body s = .next (raise c v u) := by
  simp [perform, performWith, h, conclude, Except.map]

end

section
variable {s : State} (hk : s.kind = .compute)
include hk

theorem compute_of_kind : s.compute = true := by rw [State.compute, hk]; rfl

theorem notMemory_of_kind : s.notMemory = true := by rw [State.notMemory, hk]; rfl

end

/-! ## The state of a stream (R195, R196) -/

/-- A changed stream reads as its change. -/
theorem stream_mapStream_same (s : State) {r : Reg} (f : Stream → Stream) (h : r.toNat < 6) :
    (s.mapStream r f).stream r = f (s.stream r) := by
  simp [State.stream, State.mapStream, vmod, h]

theorem setItem_base (d : StreamDesc) (a b : Word) : d.setItem 0 a b = { d with base := a, ctl := b } := rfl

theorem setItem_index (d : StreamDesc) (a b : Word) : d.setItem 5 a b = { d with ibase := a, shift := b } := rfl

/-- Items 1 to 4 are the dimensions. -/
theorem setItem_dimension (d : StreamDesc) {i : BitVec 4} (a b : Word) (h1 : 1 ≤ i.toNat) (h4 : i.toNat ≤ 4) :
    d.setItem i a b =
      { d with count := d.count.setIfInBounds (i.toNat - 1) a, stride := d.stride.setIfInBounds (i.toNat - 1) b } := by
  have h0 : i ≠ 0 := by rintro rfl; simp at h1
  have h5 : i ≠ 5 := by rintro rfl; simp at h4
  rw [StreamDesc.setItem, if_neg h0, if_neg h5]

/-- A recorded fault writes its stream alone, and takes at most a free value. -/
theorem recordFault_core (e : SFault) (s : State) :
    (recordFault e s).core = { s.core with streams := (recordFault e s).core.streams } := by
  unfold recordFault
  split
  · rfl
  · dsimp only
    split <;> rfl

@[simp] theorem recordFault_core_x (e : SFault) (s : State) : (recordFault e s).core.x = s.core.x := by
  rw [recordFault_core]
@[simp] theorem recordFault_core_f (e : SFault) (s : State) : (recordFault e s).core.f = s.core.f := by
  rw [recordFault_core]
@[simp] theorem recordFault_core_sp (e : SFault) (s : State) : (recordFault e s).core.sp = s.core.sp := by
  rw [recordFault_core]
@[simp] theorem recordFault_core_mode (e : SFault) (s : State) : (recordFault e s).core.mode = s.core.mode := by
  rw [recordFault_core]
@[simp] theorem recordFault_core_csr (e : SFault) (s : State) : (recordFault e s).core.csr = s.core.csr := by
  rw [recordFault_core]
@[simp] theorem recordFault_core_reports (e : SFault) (s : State) : (recordFault e s).core.reports = s.core.reports := by
  rw [recordFault_core]

/-- A fault with a code and no address is recorded with its stream, whose other fields stay but for the free address. -/
theorem recordFault_stream (s : State) {r : Reg} {code : Nat} (hr : r.toNat < 6) (hc : code ≠ 0) :
    (recordFault ⟨r, code, none⟩ s).stream r =
      { s.stream r with fcode := BitVec.ofNat 4 code, faddr := Config.openWord s.free } := by
  rw [recordFault, if_neg hc]
  exact stream_mapStream_same s _ hr

/-! ## SCFG, SMAP, SUNMAP (R197 to R199, R205) -/

section
variable {s : State} {d : Reg} (hn : s.notMemory = true)
include hn

/-- SCFG waits while a pending loop names its stream (R205). -/
theorem execScfg_waits (a b : Reg) (i : BitVec 4) (hb : s.fBusy [d] = true) : execScfg d a b i s = .next (waiting s) := by
  rw [execScfg, hn]
  exact perform_waits (if_pos hb)

/-- SCFG writes its item of the descriptor, as `setItem` names it. -/
theorem execScfg_falls (a b : Reg) (i : BitVec 4) (g : StreamDesc → StreamDesc)
    (hg : ∀ k : StreamDesc, k.setItem i (s.x a) (s.x b) = g k) (hb : s.fBusy [d] = false) :
    Falls (execScfg d a b i s) (s.mapStream d fun t => { t with desc := g t.desc }) := by
  refine perform_falls hn ?_
  simp only [hb, hg, Bool.false_eq_true, if_false]

theorem execSmap_falls (hb : s.fBusy [d] = false) (hv : (s.stream d).desc.valid = true) :
    Falls (execSmap d s) (mapOf d s) :=
  perform_falls hn (by simp [hb, hv])

/-- SMAP of an invalid descriptor traps with code 4, which its stream keeps. -/
theorem execSmap_invalid (hb : s.fBusy [d] = false) (hv : (s.stream d).desc.valid = false) :
    execSmap d s = .next (raise 0x0C (streamValue 4 s.core.sseq) (recordFault ⟨d, 4, none⟩ s)) := by
  rw [execSmap, hn]
  exact perform_trapIn (by simp [hb, hv])

theorem execSunmap_falls (hb : s.fBusy [d] = false) :
    Falls (execSunmap d s) (s.mapStream d fun t => { t with mapped := false }) :=
  perform_falls hn (by simp [hb])

/-! ## SSTAT (R200) -/

theorem execSstat_pos (a : Reg) : Falls (execSstat d a 1 s) (s.setX d (BitVec.ofNat 32 (s.stream a).pos)) := by
  rw [execSstat, hn]
  exact performPure_setX_falls rfl

theorem execSstat_faddr (a : Reg) : Falls (execSstat d a 2 s) (s.setX d (s.stream a).faddr) := by
  rw [execSstat, hn]
  exact performPure_setX_falls rfl

theorem execSstat_siter (a : Reg) : Falls (execSstat d a 3 s) (s.setX d s.core.siter) := by
  rw [execSstat, hn]
  exact performPure_setX_falls rfl

end

/-! ## VLOOP and VWAIT (R203, R205) -/

/-- An engine command is noted for the single step only where SDBG has step and drain-on-step (R151). -/
theorem launches_eq (c : Core) (e : BitVec 2) (n : BitVec 16) :
    c.launches e n =
      { c with stepCmd := if c.csr.sdbg.getLsbD 0 = true ∧ c.csr.sdbg.getLsbD 1 = true then some (e, n) else c.stepCmd } := by
  rw [Core.launches]
  simp only [Bool.and_eq_true]
  split <;> rfl

/-- What the push of a loop of `n` iterations leaves: nothing is pushed for none. -/
theorem pushLoop_eq (d a : Reg) (body : List Word) (s : State) :
    pushLoop d body (s.x a).toNat s =
      (s.mapCore fun c => { c with
        sseq := c.sseq + 1
        stepCmd := if c.csr.sdbg.getLsbD 0 = true ∧ c.csr.sdbg.getLsbD 1 = true then some (3, c.sseq) else c.stepCmd
        seqs := if s.x a = 0 then c.seqs
          else c.seqs ++ [⟨body, (s.x a).toNat, 0, s.frm, s.fz, c.sseq,
            c.mode == .user && !c.csr.ustatus.getLsbD 2⟩] }).setX d (s.core.sseq.setWidth 32) := by
  have h0 : (s.x a).toNat = 0 ↔ s.x a = 0 := by simp [BitVec.toNat_eq]
  simp only [pushLoop, launches_eq, h0]
  rfl

/-- The push of a loop leaves the pc, the loop state and the mode. -/
theorem pushLoop_control (d : Reg) (body : List Word) (n : Nat) (s : State) :
    (pushLoop d body n s).core.pc = s.core.pc ∧ (pushLoop d body n s).core.loop = s.core.loop ∧
      (pushLoop d body n s).core.mode = s.core.mode := by
  simp [pushLoop, launches_eq]

/-- The core with the pc behind a body of `n` words. -/
def pastBody (n : Nat) (c : Core) : Core := { c with pc := c.pc + 4 + BitVec.ofNat 32 (4 * n) }

/-- The end of an instruction tells of the next core its pc and its loop state alone. -/
theorem ends_congr {c k : Core} {u t : State} (h : Ends c u t) (hp : c.pc = k.pc) (hl : c.loop = k.loop) : Ends k u t := by
  obtain ⟨hb, hpc, hloop, hrest⟩ := h
  exact ⟨hb, hpc.trans hp, hloop.trans hl, hrest⟩

/-- An instruction of `c` whose effect `u` keeps the pc, the loop state and the mode ends behind its body. -/
theorem finish_pastBody {c : Core} {u : State} (n : Nat) (hp : u.core.pc = c.pc) (hl : u.core.loop = c.loop)
    (hm : u.core.mode = c.mode) : Ends (pastBody n c) u (finish c.mode (u.mapCore (pastBody n))) := by
  have h := finish_ends (pastBody n) u rfl
  rw [hm] at h
  exact ends_congr h (congrArg (fun p => p + 4 + BitVec.ofNat 32 (4 * n)) hp) hl

/-- VLOOP with a body that it accepts and room for it pushes the loop and goes on behind the body. -/
theorem execVloop_pushes {s : State} (d a : Reg) {k : BitVec 4} (hc : s.compute = true)
    (hb : ∀ w ∈ bodyWords s (k.toNat + 1), bodyOk s w = true) (hf : k.toNat < seqFree s.core) :
    ∃ t, execVloop d a k s = .next t ∧
      Ends (pastBody (k.toNat + 1) s.core) (pushLoop d (bodyWords s (k.toNat + 1)) (s.x a).toNat s) t := by
  have hfind : (bodyWords s (k.toNat + 1)).find? (fun w => !bodyOk s w) = none := by simpa using hb
  obtain ⟨hpc, hloop, hmode⟩ := pushLoop_control d (bodyWords s (k.toNat + 1)) (s.x a).toNat s
  refine ⟨_, ?_, finish_pastBody (k.toNat + 1) hpc hloop hmode⟩
  rw [execVloop, hc]
  refine performWith_ok ?_
  simp only [hfind, Nat.not_lt.2 (Nat.succ_le_of_lt hf), if_false]
  rfl

/-- VLOOP traps with the first word that no body may hold. -/
theorem execVloop_illegalWord {s : State} (d a : Reg) {k : BitVec 4} {w : Word} (hc : s.compute = true)
    (h : (bodyWords s (k.toNat + 1)).find? (fun w => !bodyOk s w) = some w) : execVloop d a k s = .next (raise 2 w s) := by
  rw [execVloop, hc]
  exact performWith_trap (by simp only [h])

theorem execVwait_falls {s : State} (hc : s.compute = true) (h : s.core.seqs = []) : Falls (execVwait s) s :=
  perform_falls hc (by simp [h])

theorem execVwait_waits {s : State} (hc : s.compute = true) (h : s.core.seqs ≠ []) : execVwait s = .next (waiting s) := by
  rw [execVwait, hc]
  exact perform_waits (by simp [h])

/-- Settles O34: each stream instruction by the rule of its body, and VLOOP by the state that `pushLoop` leaves. -/
theorem streams : Obligations.Streams := by
  unfold Obligations.Streams
  intro s d a b i k hd hk
  have hn := notMemory_of_kind hk
  have hc := compute_of_kind hk
  refine ⟨execScfg_waits hn a b i, fun hb => ⟨?_, ?_, fun h1 h4 => ?_⟩,
    fun hb => ⟨execSmap_falls hn hb, fun hv => ?_, execSunmap_falls hn hb⟩,
    execSstat_pos hn d, execSstat_faddr hn d, execSstat_siter hn 0, fun hb hf => ?_,
    fun w => execVloop_illegalWord a b hc, execVwait_falls hc, execVwait_waits hc⟩
  · exact execScfg_falls hn a b 0 (fun k => { k with base := s.x a, ctl := s.x b }) (fun k => setItem_base k _ _) hb
  · exact execScfg_falls hn a b 5 (fun k => { k with ibase := s.x a, shift := s.x b }) (fun k => setItem_index k _ _) hb
  · exact execScfg_falls hn a b i (fun k => { k with
      count := k.count.setIfInBounds (i.toNat - 1) (s.x a), stride := k.stride.setIfInBounds (i.toNat - 1) (s.x b) })
      (fun k => setItem_dimension k _ _ h1 h4) hb
  · have hstream := recordFault_stream s (code := 4) hd (by decide)
    exact ⟨_, execSmap_invalid hn hb hv, by rw [hstream]; rfl, by rw [hstream], recordFault_core_x _ s⟩
  · rw [← pushLoop_eq a b]
    exact execVloop_pushes a b hc hb hf

end Sys2Proof.Machine.Streams
end

section
/-!
PROOFS (streams and vector loops, O35). A pushed vector loop runs to its end or is discarded by a fault (R202, R204, R206, R321).
-/

namespace Sys2Proof.Machine.Streams
open Sys2Proof Sys2Proof.Machine

section
variable {s u : State} {q : SeqEntry} {rest : List SeqEntry} {fl : Flags}

/-- The earlier requests that hold a loop, as the state lists them (R321). -/
theorem loopHeld_iff : loopHeld q s = true ↔ ∃ o ∈ s.core.ni.slots.toList, requestMeets s o (loopSpans s q true) = true :=
  List.any_eq_true

/-- A loop that reaches its last iteration leaves the sequencer and merges its flags (R204). -/
theorem runLoop_done (h : loopRun q q.left q.done 0 (asPushed q s) = .done u fl) :
    runLoop q rest q.left s = ((likeBefore s u).mapCore fun c => { c with seqs := rest }).addFlags fl := by
  simp only [runLoop, h, if_true]

/-- The state after a fault of a loop: SITER counts the iterations done, every pushed loop is discarded, the fault is reported with
the loop's number (R206). -/
def faulted (q : SeqEntry) (e : SFault) (n : Nat) (s : State) : State :=
  (recordFault e s).mapCore fun c => { c with
    seqs := [], siter := BitVec.ofNat 32 n
    reports := c.reports ++ [⟨0x0C, streamValue e.code q.seq, none, some q.seq⟩] }

theorem runLoop_fault {e : SFault} {n : Nat} (h : loopRun q q.left q.done 0 (asPushed q s) = .fault e u fl n) :
    runLoop q rest q.left s = (faulted q e n (likeBefore s u)).addFlags fl := by
  simp only [runLoop, h]
  rfl

/-! ## The device step -/

variable (he : s.entered = false) (hf : s.quartz.fatal = false) (hs : s.core.seqs = q :: rest)
include he hf hs

/-- The step waits while an earlier request holds the loop; otherwise it runs the oldest loop to its end. -/
theorem exec_vectorLoopComplete :
    exec .vectorLoopComplete s = .next (if loopHeld q s then s else runLoop q rest q.left s) := by
  have hg : (s.entered || s.quartz.fatal) = false := by rw [he, hf]; rfl
  change engineStep completeLoop s = _
  simp only [engineStep, happen, hg, completeLoop, hs, Bool.false_eq_true, if_false]

theorem exec_vectorLoopComplete_held (h : loopHeld q s = true) : exec .vectorLoopComplete s = .next s := by
  rw [exec_vectorLoopComplete he hf hs, if_pos h]

theorem exec_vectorLoopComplete_runs (h : ¬loopHeld q s = true) :
    exec .vectorLoopComplete s = .next (runLoop q rest q.left s) := by
  rw [exec_vectorLoopComplete he hf hs, if_neg h]

end

/-- Settles O35: the step runs the oldest loop unless it is held, and `runLoop` ends by `runLoop_done` or `runLoop_fault`. -/
theorem vectorLoops : Obligations.VectorLoops := by
  unfold Obligations.VectorLoops
  intro s q rest he hf hs
  dsimp only
  rw [← loopHeld_iff]
  refine ⟨exec_vectorLoopComplete_held he hf hs, fun u fl hheld hrun => ?_, fun e u fl n hheld hrun => ?_⟩
  · rw [exec_vectorLoopComplete_runs he hf hs hheld, runLoop_done hrun]
    rfl
  · refine ⟨_, (exec_vectorLoopComplete_runs he hf hs hheld).trans (congrArg _ (runLoop_fault hrun)), ?_⟩
    simp [faulted, likeBefore, streamValue]

end Sys2Proof.Machine.Streams
end
